-- ==== Sys2Proof/Word.lean ====
section
/-! DEFINITION. The word types of the DZ9 and their plainest arithmetic (R44, R47). -/

namespace Sys2Proof

/-- A byte, the unit of every address of the part. -/
abbrev Byte := BitVec 8

/-- One register of a fibre (R20). -/
abbrev Word := BitVec 32

/-- A 64-bit value, held in an even pair of registers (R47). -/
abbrev DWord := BitVec 64

/-- Bits `hi` down to `lo` of a natural number (R14, n60). -/
def bitsOf (n hi lo : Nat) : Nat := n / 2 ^ lo % 2 ^ (hi + 1 - lo)

/-- One bit of a natural number. -/
def bitOf (n i : Nat) : Bool := n / 2 ^ i % 2 == 1

/-- 0 or 1. -/
def b2n (b : Bool) : Nat := if b then 1 else 0

end Sys2Proof
end

