-- ==== Sys2Proof/Syntax.lean ====
section
/-! DEFINITION. The syntax of the machine: the three instruction forms with their fields (R151), the operands of the
part's other steps, and the one inductive `Instr` with a constructor for every row of the opcode table. -/

namespace Sys2Proof

/-- A C form: one parcel of 32 bits (R151). The opcode is the constructor's. -/
structure CForm where
  va : BitVec 8
  vd : BitVec 8
  guard : BitVec 4
  s : Bool
  deriving DecidableEq, Repr

/-- A W form: two parcels (R151). -/
structure WForm where
  ib : Bool
  mods : BitVec 14
  vc : BitVec 8
  vb : BitVec 8
  va : BitVec 8
  vd : BitVec 8
  neg : Bool
  guard : BitVec 4
  s : Bool
  deriving DecidableEq, Repr

/-- An L form: three parcels, the third the 32-bit literal (R151). `top` is bit 63, which must be 0. -/
structure LForm where
  lit : BitVec 32
  top : Bool
  mods : BitVec 14
  vc : BitVec 8
  xmod : BitVec 8
  va : BitVec 8
  vd : BitVec 8
  neg : Bool
  guard : BitVec 4
  s : Bool
  deriving DecidableEq, Repr

/-- A gang: the crew that holds it and its number within the crew. Both are names of the model, not of the part. -/
structure GangRef where
  crew : Nat
  gang : Nat
  deriving DecidableEq, Repr

/-- Who asked for a translation: the requester codes of R374, with what the part keeps of each requester (R376). -/
inductive Requester where
  /-- One lane of a vector or collective instruction (code 0). -/
  | lane (crew : Nat) (slot : Nat)
  /-- A channel (code 1). -/
  | channel (crew : Nat) (ch : Nat)
  /-- A matrix post's read or write (code 2). -/
  | post (id : Nat)
  /-- A cursor (code 3). -/
  | cursor (crew : Nat) (cur : Nat)
  /-- A binning context (code 4). -/
  | binning (crew : Nat)
  /-- An incoming fabric packet of a context, with the sender's node and its name for the message (code 5). -/
  | fabric (ctx : Nat) (node : Nat) (msg : Nat)
  /-- A clause fetch by a gang (code 6). -/
  | fetch (g : GangRef)
  /-- The ORU on behalf of a slot (code 7). -/
  | oru (ctx : Nat) (slot : Nat)
  deriving DecidableEq, Repr

/-- The TDISP states of a virtual function (R389). -/
inductive TdispState where
  | unlocked | locked | run | error
  deriving DecidableEq, Repr

/-- What a SEAL request asks a tag for (R424). -/
inductive SealWhat where
  /-- A compartment record with these bits [63:0]. -/
  | compartment (record : BitVec 64)
  /-- Gate entry `g` with these bits [191:0]. -/
  | gate (g : BitVec 3) (entry : BitVec 192)
  deriving DecidableEq, Repr

/-- A single part that may fail or be reset (R344). -/
inductive Part where
  | core (n : BitVec 11)
  | die (n : BitVec 5)
  | stack (n : BitVec 6)
  | fabricPort (n : BitVec 6)
  | appCore (n : BitVec 4)
  | hostLink (n : BitVec 2)
  deriving DecidableEq, Repr

/-- What a boot step finds out (R431, R396): the stacks that failed training (step 3), the C-dies and X-dies that did not report, numbered
as in log entry 42, and the persistent capacity of each downstream device (step 4), and the image hashed (steps 1, 2, 5, 6). -/
structure BootFind where
  badStacks : List (BitVec 6)
  lostDies : List (BitVec 5)
  capacity : List Nat
  image : List Byte
  deriving DecidableEq, Repr

/-- What an incoming fabric packet asks for (R404, R415). -/
inductive PacketKind where
  | read (length : Nat)
  | write (data : List Byte)
  /-- An atomic of R241: operation, type code, operand and expected value. -/
  | atomic (op : BitVec 4) (type : BitVec 5) (operand expected : BitVec 64) (fetch : Bool)
  deriving DecidableEq, Repr

/-- An incoming fabric packet (R404, R406, R408). -/
structure Packet where
  /-- Node of the sender. -/
  node : BitVec 8
  rkey : BitVec 32
  /-- Offset in the registered region. -/
  offset : BitVec 40
  kind : PacketKind
  /-- The sender's name for the message and the message's whole length. -/
  msg : Nat
  total : Nat
  /-- Grant class (R409). -/
  prio : BitVec 3
  /-- Sent without a token (R408). -/
  unscheduled : Bool
  /-- A packet of a relaxed record (R137). -/
  relaxed : Bool
  /-- The final flagged write of a record (R251). -/
  final : Bool
  /-- The payload's AES-256-GCM tag, for a context outside world 0 (R427): the bytes of a write are then ciphertext, and so are an
  atomic's operand and expected value. -/
  tag : List Byte
  deriving DecidableEq, Repr

/-- Every row of the opcode table: the 212 instruction forms (R163), each with the fields its form has (R151), then the 95
steps of the part and of the parties round it. The operands of those steps stand beside them, in `Arg`. -/
inductive Instr where
  | iaddW (f : WForm)
  | iaddL (f : LForm)
  | iaddcW (f : WForm)
  | iaddcL (f : LForm)
  | isubW (f : WForm)
  | isubL (f : LForm)
  | imulW (f : WForm)
  | imulL (f : LForm)
  | imulhW (f : WForm)
  | imulhL (f : LForm)
  | imadW (f : WForm)
  | imadL (f : LForm)
  | imadwW (f : WForm)
  | imadwL (f : LForm)
  | idivW (f : WForm)
  | idivL (f : LForm)
  | iremW (f : WForm)
  | iremL (f : LForm)
  | inegC (f : CForm)
  | inegW (f : WForm)
  | iabsC (f : CForm)
  | iabsW (f : WForm)
  | iminW (f : WForm)
  | iminL (f : LForm)
  | imaxW (f : WForm)
  | imaxL (f : LForm)
  | icmpW (f : WForm)
  | icmpL (f : LForm)
  | iselW (f : WForm)
  | iselL (f : LForm)
  | leaW (f : WForm)
  | leaL (f : LForm)
  | movC (f : CForm)
  | movW (f : WForm)
  | moviW (f : WForm)
  | moviL (f : LForm)
  | movsC (f : CForm)
  | movsW (f : WForm)
  | andW (f : WForm)
  | andL (f : LForm)
  | orW (f : WForm)
  | orL (f : LForm)
  | xorW (f : WForm)
  | xorL (f : LForm)
  | notC (f : CForm)
  | notW (f : WForm)
  | andnW (f : WForm)
  | andnL (f : LForm)
  | lop3W (f : WForm)
  | lop3L (f : LForm)
  | shlW (f : WForm)
  | shlL (f : LForm)
  | shrW (f : WForm)
  | shrL (f : LForm)
  | sarW (f : WForm)
  | sarL (f : LForm)
  | rolW (f : WForm)
  | rolL (f : LForm)
  | rorW (f : WForm)
  | rorL (f : LForm)
  | shfW (f : WForm)
  | shfL (f : LForm)
  | bfxW (f : WForm)
  | bfxL (f : LForm)
  | bfiW (f : WForm)
  | bfiL (f : LForm)
  | popcC (f : CForm)
  | popcW (f : WForm)
  | lzcC (f : CForm)
  | lzcW (f : WForm)
  | tzcC (f : CForm)
  | tzcW (f : WForm)
  | fnsW (f : WForm)
  | fnsL (f : LForm)
  | brevC (f : CForm)
  | brevW (f : WForm)
  | plog (f : WForm)
  | pmovC (f : CForm)
  | pmovW (f : WForm)
  | faddW (f : WForm)
  | faddL (f : LForm)
  | fsubW (f : WForm)
  | fsubL (f : LForm)
  | fmulW (f : WForm)
  | fmulL (f : LForm)
  | ffmaW (f : WForm)
  | ffmaL (f : LForm)
  | fminW (f : WForm)
  | fminL (f : LForm)
  | fmaxW (f : WForm)
  | fmaxL (f : LForm)
  | fcmpW (f : WForm)
  | fcmpL (f : LForm)
  | fclass (f : WForm)
  | frcp (f : WForm)
  | frsq (f : WForm)
  | fsqrt (f : WForm)
  | fexp2 (f : WForm)
  | flog2 (f : WForm)
  | fsin (f : WForm)
  | fcos (f : WForm)
  | ftanh (f : WForm)
  | cvt (f : WForm)
  | shflW (f : WForm)
  | shflL (f : LForm)
  | pushlW (f : WForm)
  | pushlL (f : LForm)
  | xred (f : WForm)
  | xscan (f : WForm)
  | vote (f : WForm)
  | matchLanes (f : WForm)
  | elect (f : WForm)
  | braW (f : WForm)
  | braL (f : LForm)
  | brx (f : WForm)
  | callW (f : WForm)
  | callL (f : LForm)
  | retC (f : CForm)
  | retW (f : WForm)
  | regroupW (f : WForm)
  | regroupL (f : LForm)
  | yieldGang (f : CForm)
  | spawnW (f : WForm)
  | spawnL (f : LForm)
  | fexitC (f : CForm)
  | fexitW (f : WForm)
  | nop (f : CForm)
  | bkptC (f : CForm)
  | bkptW (f : WForm)
  | svcC (f : CForm)
  | svcW (f : WForm)
  | tret (f : CForm)
  | tmaskC (f : CForm)
  | tmaskW (f : WForm)
  | ldW (f : WForm)
  | ldL (f : LForm)
  | stW (f : WForm)
  | stL (f : LForm)
  | ldsW (f : WForm)
  | ldsL (f : LForm)
  | stsW (f : WForm)
  | stsL (f : LForm)
  | prefW (f : WForm)
  | prefL (f : LForm)
  | ldnW (f : WForm)
  | ldnL (f : LForm)
  | stnW (f : WForm)
  | stnL (f : LForm)
  | peq (f : WForm)
  | paddW (f : WForm)
  | paddL (f : LForm)
  | pdiff (f : WForm)
  | pname (f : WForm)
  | psize (f : WForm)
  | pres (f : WForm)
  | atomW (f : WForm)
  | atomL (f : LForm)
  | atomrW (f : WForm)
  | atomrL (f : LForm)
  | fence (f : WForm)
  | xfence (f : WForm)
  | pfenceC (f : CForm)
  | pfenceW (f : WForm)
  | cpaW (f : WForm)
  | cpaL (f : LForm)
  | cpsealC (f : CForm)
  | cpsealW (f : WForm)
  | cpwaitC (f : CForm)
  | cpwaitW (f : WForm)
  | xfer (f : WForm)
  | xstat (f : WForm)
  | ginitW (f : WForm)
  | ginitL (f : LForm)
  | garriveW (f : WForm)
  | garriveL (f : LForm)
  | gexpectW (f : WForm)
  | gexpectL (f : LForm)
  | gwait (f : WForm)
  | gread (f : WForm)
  | gfree (f : WForm)
  | mmaW (f : WForm)
  | mmasW (f : WForm)
  | bldW (f : WForm)
  | bldL (f : LForm)
  | azero (f : WForm)
  | ard (f : WForm)
  | astoreW (f : WForm)
  | astoreL (f : LForm)
  | astzW (f : WForm)
  | astzL (f : LForm)
  | cvtqW (f : WForm)
  | cvtqL (f : LForm)
  | dqW (f : WForm)
  | dqL (f : LForm)
  | tchkW (f : WForm)
  | tchkL (f : LForm)
  | ceopen (f : WForm)
  | cerun (f : WForm)
  | cesplit (f : WForm)
  | cesaveW (f : WForm)
  | cesaveL (f : LForm)
  | celoadW (f : WForm)
  | celoadL (f : LForm)
  | cestat (f : WForm)
  | ceclose (f : WForm)
  | binitW (f : WForm)
  | binitL (f : LForm)
  | bapp (f : WForm)
  | breplay (f : WForm)
  | bstat (f : WForm)
  | gpassW (f : WForm)
  | gpassL (f : LForm)
  /-- CAPTURE (R325). -/
  | capture
  /-- QUEUE_ENABLE (R336). -/
  | queueEnable
  /-- DEPENDENCE_POLL (R331). -/
  | dependencePoll
  /-- LAUNCH (R330). -/
  | launch
  /-- MARK (R328). -/
  | mark
  /-- EVICT (R99). -/
  | evict
  /-- RECLAIM (R99). -/
  | reclaim
  /-- WRITEBACK (R99). -/
  | writeback
  /-- ADMIT_CREW (R339). -/
  | admitCrew
  /-- PRIORITY_AGING (R337). -/
  | priorityAging
  /-- COADMIT_WAIT (R340). -/
  | coadmitWait
  /-- PREEMPT_FOR_PRIORITY (R341). -/
  | preemptForPriority
  /-- CREW_RESUME (R361). -/
  | crewResume
  /-- CREW_RETIRE (R33). -/
  | crewRetire
  /-- COMPLETION_RECORD (R334). -/
  | completionRecord
  /-- GANG_EXCHANGE (R342). -/
  | gangExchange
  /-- CLAUSE_START (R143). -/
  | clauseStart
  /-- REGISTER_RESULT_WRITE (R157). -/
  | registerResultWrite
  /-- STORE_DRAIN (R122). -/
  | storeDrain
  /-- REGROUP_BOUND (R29). -/
  | regroupBound
  /-- SPRING_TIMER_EXPIRY (R35). -/
  | springTimerExpiry
  /-- HANDLER_TIMEOUT (R352). -/
  | handlerTimeout
  /-- REQUEST_RING_WRITE (R225). -/
  | requestRingWrite
  /-- RESPONSE_DOORBELL (R356). -/
  | responseDoorbell
  /-- RESPONSE_DOORBELL_KILL (R356). -/
  | responseDoorbellKill
  /-- FAULT_DOORBELL_RETRY (R376). -/
  | faultDoorbellRetry
  /-- FAULT_DOORBELL_ERROR (R376). -/
  | faultDoorbellError
  /-- PREEMPTION_PREEMPT (R390). -/
  | preemptionPreempt
  /-- PREEMPTION_RESUME (R390). -/
  | preemptionResume
  /-- INVALIDATION (R378). -/
  | invalidation
  /-- INVALIDATION_COMPLETE (R379). -/
  | invalidationComplete
  /-- REGISTER_WRITE (R389). -/
  | registerWrite
  /-- PAGE_WALK (R372). -/
  | pageWalk
  /-- NAME_LOOKUP (R87). -/
  | nameLookup
  /-- FETCH_DONE (R88). -/
  | fetchDone
  /-- EVICTION (R90). -/
  | eviction
  /-- CPA_COPY_DONE (R248). -/
  | cpaCopyDone
  /-- TRANSFER_PACKET (R254). -/
  | transferPacket
  /-- TRANSFER_RECORD_DONE (R253). -/
  | transferRecordDone
  /-- POST_GRANT (R263). -/
  | postGrant
  /-- POST_AGE (R263). -/
  | postAge
  /-- MATRIX_STEP (R273). -/
  | matrixStep
  /-- POST_DONE (R264). -/
  | postDone
  /-- CURSOR_STEP (R291). -/
  | cursorStep
  /-- BIN_REPLAY_REGION (R298). -/
  | binReplayRegion
  /-- GPASS_UNIT (R426). -/
  | gpassUnit
  /-- FABRIC_ACK (R136). -/
  | fabricAck
  /-- FABRIC_RESPONSE (R138). -/
  | fabricResponse
  /-- PACKET_ARRIVAL (R404). -/
  | packetArrival
  /-- TOKEN_GRANT (R409). -/
  | tokenGrant
  /-- TOKEN_EXPIRY (R410). -/
  | tokenExpiry
  /-- FABRIC_EVENT_WRITE (R411). -/
  | fabricEventWrite
  /-- ABANDON_NOTICE (R412). -/
  | abandonNotice
  /-- RESUME_REQUEST (R412). -/
  | resumeRequest
  /-- PEER_CONTEXT_FETCH (R413). -/
  | peerContextFetch
  /-- DOWNSTREAM_ACK (R397). -/
  | downstreamAck
  /-- PERSIST_TIMEOUT (R397). -/
  | persistTimeout
  /-- HOST_APERTURE_ACCESS (R388). -/
  | hostApertureAccess
  /-- ATS_INVALIDATE (R395). -/
  | atsInvalidate
  /-- ATS_INVALIDATE_TIMEOUT (R395). -/
  | atsInvalidateTimeout
  /-- IDE_INTEGRITY_FAILURE (R393). -/
  | ideIntegrityFailure
  /-- TDISP_MESSAGE (R392). -/
  | tdispMessage
  /-- GET_VERSION (R428). -/
  | getVersion
  /-- GET_CAPABILITIES (R428). -/
  | getCapabilities
  /-- NEGOTIATE_ALGORITHMS (R428). -/
  | negotiateAlgorithms
  /-- GET_DIGESTS (R428). -/
  | getDigests
  /-- GET_CERTIFICATE (R428). -/
  | getCertificate
  /-- CHALLENGE (R428). -/
  | challenge
  /-- GET_MEASUREMENTS (R428). -/
  | getMeasurements
  /-- KEY_EXCHANGE (R428). -/
  | keyExchange
  /-- FINISH (R428). -/
  | finish
  /-- END_SESSION (R428). -/
  | endSession
  /-- OPEN (R417). -/
  | openWorld
  /-- SEAL (R424). -/
  | seal
  /-- SCRUB (R430). -/
  | scrub
  /-- SCRUB_EXECUTE (R430). -/
  | scrubExecute
  /-- FLR (R434). -/
  | flr
  /-- SINGLE_PART_FAULT (R344). -/
  | singlePartFault
  /-- PORT_LINK_TRAINING (R399). -/
  | portLinkTraining
  /-- NODE_NUMBER_WRITE (R399). -/
  | nodeNumberWrite
  /-- POWER_CAP_SET (R435). -/
  | powerCapSet
  /-- POWER_CAP_REACHED (R435). -/
  | powerCapReached
  /-- JUNCTION_OVER_LIMIT (R436). -/
  | junctionOverLimit
  /-- JUNCTION_SHUTDOWN (R436). -/
  | junctionShutdown
  /-- POWER_LOSS (R345). -/
  | powerLoss
  /-- POWER_ON (R434). -/
  | powerOn
  /-- PACKAGE_RESET (R434). -/
  | packageReset
  /-- BOOT_STEP (R433). -/
  | bootStep
  /-- FAULT_QUEUE_WRITE (R374). -/
  | faultQueueWrite
  /-- HOST_LINK_TRAINING (R386). -/
  | hostLinkTraining
  /-- IDE_KEY_MANAGEMENT (R392). -/
  | ideKeyManagement
  /-- PULL_TOKEN_ARRIVAL (R408). -/
  | pullTokenArrival
  /-- DOWNSTREAM_LINK_DOWN (R397). -/
  | downstreamLinkDown
  /-- POWER_BELOW_CAP (R435). -/
  | powerBelowCap
  /-- JUNCTION_RECOVERED (R436). -/
  | junctionRecovered
  deriving DecidableEq, Repr

/-- The operands of a step of the part: what it acts on, what an outside party sends, and what the part finds. A step
whose name is not here has none. -/
inductive Arg where
  | none
  /-- CAPTURE (R325): by a host, or by an application core's write-back of the line. -/
  | capture (fn : BitVec 7) (q : BitVec 14) (slot : BitVec 5) (whole app : Bool) (rec : BitVec 512)
  /-- QUEUE_ENABLE (R336). -/
  | queueEnable (q : BitVec 14)
  /-- DEPENDENCE_POLL (R331). -/
  | dependencePoll (q : BitVec 14)
  /-- LAUNCH (R330). -/
  | launch (q : BitVec 14)
  /-- MARK (R328). -/
  | mark (q : BitVec 14)
  /-- EVICT (R99). -/
  | evict (q : BitVec 14)
  /-- RECLAIM (R99). -/
  | reclaim (q : BitVec 14)
  /-- WRITEBACK (R99). -/
  | writeback (q : BitVec 14)
  /-- ADMIT_CREW (R339). -/
  | admitCrew (q : BitVec 14) (core : BitVec 11)
  /-- PRIORITY_AGING (R337). -/
  | priorityAging (q : BitVec 14)
  /-- COADMIT_WAIT (R340). -/
  | coadmitWait (q : BitVec 14)
  /-- PREEMPT_FOR_PRIORITY (R341). -/
  | preemptForPriority (crew : Nat)
  /-- CREW_RESUME (R361). -/
  | crewResume (crew : Nat)
  /-- CREW_RETIRE (R33). -/
  | crewRetire (crew : Nat)
  /-- COMPLETION_RECORD (R334). -/
  | completionRecord (q : BitVec 14)
  /-- GANG_EXCHANGE (R342). -/
  | gangExchange (out inn : GangRef)
  /-- CLAUSE_START (R143). -/
  | clauseStart (g : GangRef) (merge : Bool)
  /-- REGISTER_RESULT_WRITE (R157). -/
  | registerResultWrite (crew : Nat) (slot : Nat) (k : Nat)
  /-- STORE_DRAIN (R122). -/
  | storeDrain (crew : Nat) (slot : Nat)
  /-- REGROUP_BOUND (R29). -/
  | regroupBound (g : GangRef)
  /-- SPRING_TIMER_EXPIRY (R35). -/
  | springTimerExpiry (crew : Nat) (bin : BitVec 4)
  /-- HANDLER_TIMEOUT (R352). -/
  | handlerTimeout (g : GangRef)
  /-- REQUEST_RING_WRITE (R225). -/
  | requestRingWrite (g : GangRef)
  /-- RESPONSE_DOORBELL (R356). -/
  | responseDoorbell (fn : BitVec 7) (token : BitVec 32)
  /-- RESPONSE_DOORBELL_KILL (R356). -/
  | responseDoorbellKill (fn : BitVec 7) (token : BitVec 32)
  /-- FAULT_DOORBELL_RETRY (R376). -/
  | faultDoorbellRetry (fn : BitVec 7) (token : BitVec 32)
  /-- FAULT_DOORBELL_ERROR (R376). -/
  | faultDoorbellError (fn : BitVec 7) (token : BitVec 32)
  /-- PREEMPTION_PREEMPT (R390). -/
  | preemptionPreempt (fn : BitVec 7) (ctx : BitVec 45)
  /-- PREEMPTION_RESUME (R390). -/
  | preemptionResume (fn : BitVec 7) (ctx : BitVec 45)
  /-- INVALIDATION (R378). -/
  | invalidation (fn : BitVec 7) (desc : BitVec 256)
  /-- INVALIDATION_COMPLETE (R379). -/
  | invalidationComplete (fn : BitVec 7)
  /-- REGISTER_WRITE (R389). -/
  | registerWrite (fn : BitVec 7) (off : BitVec 16) (bytes : Nat) (value : BitVec 128)
  /-- PAGE_WALK (R372). -/
  | pageWalk (req : Requester) (va : BitVec 57) (access : BitVec 3)
  /-- NAME_LOOKUP (R87). -/
  | nameLookup (ctx : Nat) (slot : BitVec 22) (remote : Option (List Byte))
  /-- FETCH_DONE (R88). -/
  | fetchDone (ctx : Nat) (slot : BitVec 22) (extent : BitVec 19) (remote : Option (List Byte))
  /-- EVICTION (R90). -/
  | eviction (ctx : Nat) (slot : BitVec 22) (extent : BitVec 19)
  /-- CPA_COPY_DONE (R248). -/
  | cpaCopyDone (crew : Nat) (id : Nat) (remote : Option (List Byte)) (err : Bool)
  /-- TRANSFER_PACKET (R254). -/
  | transferPacket (crew : Nat) (ch : BitVec 3) (bytes : BitVec 13)
  /-- TRANSFER_RECORD_DONE (R253). -/
  | transferRecordDone (crew : Nat) (ch : BitVec 3)
  /-- POST_GRANT (R263). -/
  | postGrant (id : Nat)
  /-- POST_AGE (R263). -/
  | postAge (id : Nat)
  /-- MATRIX_STEP (R273). -/
  | matrixStep (id : Nat)
  /-- POST_DONE (R264). -/
  | postDone (id : Nat)
  /-- CURSOR_STEP (R291). -/
  | cursorStep (crew : Nat) (cur : BitVec 2)
  /-- BIN_REPLAY_REGION (R298). -/
  | binReplayRegion (crew : Nat)
  /-- GPASS_UNIT (R426). -/
  | gpassUnit (crew : Nat) (id : Nat)
  /-- FABRIC_ACK (R136). -/
  | fabricAck (id : Nat) (err : Bool)
  /-- FABRIC_RESPONSE (R138). -/
  | fabricResponse (id : Nat) (err : Bool) (data : List Byte)
  /-- PACKET_ARRIVAL (R404). -/
  | packetArrival (p : Packet)
  /-- TOKEN_EXPIRY (R410). -/
  | tokenExpiry (token : Nat)
  /-- FABRIC_EVENT_WRITE (R411). -/
  | fabricEventWrite (ctx : Nat)
  /-- ABANDON_NOTICE (R412). -/
  | abandonNotice (msg : Nat)
  /-- RESUME_REQUEST (R412). -/
  | resumeRequest (msg : Nat) (acked : BitVec 41)
  /-- PEER_CONTEXT_FETCH (R413). -/
  | peerContextFetch (ctx : Nat)
  /-- DOWNSTREAM_ACK (R397). -/
  | downstreamAck (id : Nat) (err : Bool)
  /-- PERSIST_TIMEOUT (R397). -/
  | persistTimeout (id : Nat)
  /-- HOST_APERTURE_ACCESS (R388). -/
  | hostApertureAccess (fn : BitVec 7) (off : BitVec 64) (write : Option (List Byte))
  /-- ATS_INVALIDATE (R395). -/
  | atsInvalidate (fn : BitVec 7) (page : BitVec 52) (count : Nat)
  /-- ATS_INVALIDATE_TIMEOUT (R395). -/
  | atsInvalidateTimeout (fn : BitVec 7)
  /-- IDE_INTEGRITY_FAILURE (R393). -/
  | ideIntegrityFailure (link : BitVec 2) (stream : Option (BitVec 7))
  /-- TDISP_MESSAGE (R392). -/
  | tdispMessage (fn : BitVec 7) (state : TdispState)
  /-- GET_VERSION (R428). -/
  | getVersion (fn : BitVec 7)
  /-- GET_CAPABILITIES (R428). -/
  | getCapabilities (fn : BitVec 7)
  /-- NEGOTIATE_ALGORITHMS (R428). -/
  | negotiateAlgorithms (fn : BitVec 7)
  /-- GET_DIGESTS (R428). -/
  | getDigests (fn : BitVec 7)
  /-- GET_CERTIFICATE (R428). -/
  | getCertificate (fn : BitVec 7)
  /-- CHALLENGE (R428). -/
  | challenge (fn : BitVec 7) (nonce : List Byte)
  /-- GET_MEASUREMENTS (R428). -/
  | getMeasurements (fn : BitVec 7) (index : BitVec 8)
  /-- KEY_EXCHANGE (R428). -/
  | keyExchange (fn : BitVec 7)
  /-- FINISH (R428). -/
  | finish (fn : BitVec 7)
  /-- END_SESSION (R428). -/
  | endSession (fn : BitVec 7)
  /-- OPEN (R417). -/
  | openWorld (fn : BitVec 7) (tenant : BitVec 64) (secret : Option (BitVec 256))
  /-- SEAL (R424). -/
  | seal (fn : BitVec 7) (ctx : BitVec 64) (what : SealWhat)
  /-- SCRUB (R430). -/
  | scrub (fn : BitVec 7) (session : Bool) (ranges : List (Nat × Nat))
  /-- SCRUB_EXECUTE (R430). -/
  | scrubExecute (fn : BitVec 7) (bad : List Nat)
  /-- FLR (R434). -/
  | flr (fn : BitVec 7)
  /-- SINGLE_PART_FAULT (R344). -/
  | singlePartFault (p : Part)
  /-- PORT_LINK_TRAINING (R399). -/
  | portLinkTraining (port : BitVec 6) (dup : Bool)
  /-- NODE_NUMBER_WRITE (R399). -/
  | nodeNumberWrite (node : BitVec 7)
  /-- POWER_CAP_SET (R435). -/
  | powerCapSet (watts : BitVec 14)
  /-- JUNCTION_SHUTDOWN (R436). -/
  | junctionShutdown (kept : List Nat)
  /-- POWER_LOSS (R345). -/
  | powerLoss (kept : List Nat)
  /-- BOOT_STEP (R433). -/
  | bootStep (ok : Bool) (found : BootFind)
  /-- FAULT_QUEUE_WRITE (R374). -/
  | faultQueueWrite (fn : BitVec 7)
  /-- HOST_LINK_TRAINING (R386). -/
  | hostLinkTraining (link : BitVec 2)
  /-- IDE_KEY_MANAGEMENT (R392). -/
  | ideKeyManagement (fn : BitVec 7) (link : BitVec 2)
  /-- PULL_TOKEN_ARRIVAL (R408). -/
  | pullTokenArrival (crew : Nat) (ch : BitVec 3) (bytes : BitVec 17)
  /-- DOWNSTREAM_LINK_DOWN (R397). -/
  | downstreamLinkDown (port : BitVec 2)
  deriving DecidableEq, Repr

end Sys2Proof
end

