-- ==== Sys2Proof/Machine/Encoding.lean ====
section
/-! DEFINITION. The bits of the three instruction forms (R150, R151), packed and taken apart, and the common view `Enc`
through which a meaning reads the fields of any form (R153, R176). -/

namespace Sys2Proof

/-- The form of an instruction (R150). -/
inductive Form where
  | c | w | l
  deriving DecidableEq, Repr

/-- The C form as a 32-bit number (R151). -/
def CForm.toNum (op : Nat) (f : CForm) : Nat :=
  4 * b2n f.s + 2 ^ 3 * (op % 512) + 2 ^ 12 * f.guard.toNat + 2 ^ 16 * f.vd.toNat + 2 ^ 24 * f.va.toNat

/-- The fields of a 32-bit C form. -/
def CForm.ofNum (n : Nat) : CForm :=
  { va := BitVec.ofNat 8 (n / 2 ^ 24), vd := BitVec.ofNat 8 (n / 2 ^ 16), guard := BitVec.ofNat 4 (n / 2 ^ 12)
    s := n / 4 % 2 == 1 }

/-- The W form as a 64-bit number: bits [63:32] lie in the second parcel (R151). -/
def WForm.toNum (op : Nat) (f : WForm) : Nat :=
  1 + 4 * b2n f.s + 2 ^ 3 * (op % 512) + 2 ^ 12 * f.guard.toNat + 2 ^ 16 * b2n f.neg + 2 ^ 17 * f.vd.toNat
    + 2 ^ 25 * f.va.toNat + 2 ^ 33 * f.vb.toNat + 2 ^ 41 * f.vc.toNat + 2 ^ 49 * f.mods.toNat + 2 ^ 63 * b2n f.ib

/-- The fields of a 64-bit W form. -/
def WForm.ofNum (n : Nat) : WForm :=
  { ib := n / 2 ^ 63 % 2 == 1, mods := BitVec.ofNat 14 (n / 2 ^ 49), vc := BitVec.ofNat 8 (n / 2 ^ 41)
    vb := BitVec.ofNat 8 (n / 2 ^ 33), va := BitVec.ofNat 8 (n / 2 ^ 25), vd := BitVec.ofNat 8 (n / 2 ^ 17)
    neg := n / 2 ^ 16 % 2 == 1, guard := BitVec.ofNat 4 (n / 2 ^ 12), s := n / 4 % 2 == 1 }

/-- The L form as a 96-bit number, the literal in the third parcel (R151). -/
def LForm.toNum (op : Nat) (f : LForm) : Nat :=
  2 + 4 * b2n f.s + 2 ^ 3 * (op % 512) + 2 ^ 12 * f.guard.toNat + 2 ^ 16 * b2n f.neg + 2 ^ 17 * f.vd.toNat
    + 2 ^ 25 * f.va.toNat + 2 ^ 33 * f.xmod.toNat + 2 ^ 41 * f.vc.toNat + 2 ^ 49 * f.mods.toNat + 2 ^ 63 * b2n f.top
    + 2 ^ 64 * f.lit.toNat

/-- The fields of a 96-bit L form. -/
def LForm.ofNum (n : Nat) : LForm :=
  { lit := BitVec.ofNat 32 (n / 2 ^ 64), top := n / 2 ^ 63 % 2 == 1, mods := BitVec.ofNat 14 (n / 2 ^ 49)
    vc := BitVec.ofNat 8 (n / 2 ^ 41), xmod := BitVec.ofNat 8 (n / 2 ^ 33), va := BitVec.ofNat 8 (n / 2 ^ 25)
    vd := BitVec.ofNat 8 (n / 2 ^ 17), neg := n / 2 ^ 16 % 2 == 1, guard := BitVec.ofNat 4 (n / 2 ^ 12)
    s := n / 4 % 2 == 1 }

/-- The fields of an instruction of any form, as its meaning reads them. In the C form `neg`, IB, vb and vc read 0 and
the modifiers read the C-form settings (R176); in the L form the b operand is the literal and bits [40:33] are `xmod`. -/
structure Enc where
  form : Form
  op : Nat
  mods : Nat
  va : Nat
  vb : Nat
  vc : Nat
  vd : Nat
  ib : Bool
  lit : Nat
  top : Bool
  xmod : Nat
  neg : Bool
  guard : Nat
  s : Bool
  /-- The first parcel, which traps of R155 report. -/
  parcel : Nat
  deriving DecidableEq, Repr

/-- The modifier bits that a C form stands for: the type of the C-form column (R176, R178, R186, R188, R192). -/
def cFormMods (op : Nat) : Nat :=
  if op = 0x009 ∨ op = 0x00A then 7 * 2 ^ 9
  else if op = 0x010 ∨ op = 0x043 ∨ op = 0x04E ∨ op = 0x04F ∨ op = 0x050 ∨ op = 0x052 then 2 * 2 ^ 9
  else 0

def CForm.enc (op : Nat) (f : CForm) : Enc :=
  { form := .c, op := op, mods := cFormMods op, va := f.va.toNat, vb := 0, vc := 0, vd := f.vd.toNat, ib := false
    lit := 0, top := false, xmod := 0, neg := false, guard := f.guard.toNat, s := f.s, parcel := f.toNum op }

def WForm.enc (op : Nat) (f : WForm) : Enc :=
  { form := .w, op := op, mods := f.mods.toNat, va := f.va.toNat, vb := f.vb.toNat, vc := f.vc.toNat, vd := f.vd.toNat
    ib := f.ib, lit := 0, top := false, xmod := 0, neg := f.neg, guard := f.guard.toNat, s := f.s
    parcel := f.toNum op % 2 ^ 32 }

def LForm.enc (op : Nat) (f : LForm) : Enc :=
  { form := .l, op := op, mods := f.mods.toNat, va := f.va.toNat, vb := 0, vc := f.vc.toNat, vd := f.vd.toNat
    ib := false, lit := f.lit.toNat, top := f.top, xmod := f.xmod.toNat, neg := f.neg, guard := f.guard.toNat, s := f.s
    parcel := f.toNum op % 2 ^ 32 }

/-- Modifier bits `hi` to `lo`, numbered as in the instruction: bits [62:49] (R151). -/
def Enc.m (e : Enc) (hi lo : Nat) : Nat := bitsOf e.mods (hi - 49) (lo - 49)

/-- One modifier bit. -/
def Enc.mb (e : Enc) (i : Nat) : Bool := bitOf e.mods (i - 49)

/-- The opcode group (R162). -/
def Enc.group (e : Enc) : Nat := e.op / 64 % 8

/-- The type field of groups 0 to 4 (R154, R174, R229). -/
def Enc.tyCode (e : Enc) : Nat := e.m 62 58

/-- Whether the instruction is in the L form. -/
def Enc.isL (e : Enc) : Bool := e.form == .l

/-- Sign extension of an 8-bit field (R14, n60). -/
def sext8 (n w : Nat) : Nat := if n < 128 then n else 2 ^ w - 256 + n

/-- Sign extension of a 32-bit value to 64 bits. -/
def sext32 (n : Nat) : Nat := if n < 2 ^ 31 then n else 2 ^ 64 - 2 ^ 32 + n

/-- A two's complement value of `w` bits as an integer. -/
def toSigned (w n : Nat) : Int := if 2 * (n % 2 ^ w) < 2 ^ w then ((n % 2 ^ w : Nat) : Int) else ((n % 2 ^ w : Nat) : Int) - (2 ^ w : Nat)

/-- An integer wrapped into `w` bits. -/
def wrap (w : Nat) (x : Int) : Nat := (x % ((2 ^ w : Nat) : Int)).toNat

/-- The immediate b operand as a 32-bit pattern: Sext(vb, 32) or the literal (R153). -/
def Enc.imm32 (e : Enc) : Nat := if e.isL then e.lit else sext8 e.vb 32

/-- Whether the b operand is an immediate or a literal. -/
def Enc.bImm (e : Enc) : Bool := e.ib || e.isL

/-- The element types of R154. -/
inductive ETy where
  | b8 | b16 | b32 | b64 | b128 | s8 | s16 | s32 | s64 | n8 | n16 | n32 | n64
  | f16 | bf16 | f32 | f64 | e4m3 | e5m2 | q4 | e8m0 | f16x2 | bf16x2
  deriving DecidableEq, Repr

/-- The element type of a code; a reserved code has none (R154). -/
def ETy.ofCode : Nat → Option ETy
  | 0 => some .b8 | 1 => some .b16 | 2 => some .b32 | 3 => some .b64 | 4 => some .b128
  | 5 => some .s8 | 6 => some .s16 | 7 => some .s32 | 8 => some .s64
  | 9 => some .n8 | 10 => some .n16 | 11 => some .n32 | 12 => some .n64
  | 13 => some .f16 | 14 => some .bf16 | 15 => some .f32 | 16 => some .f64
  | 17 => some .e4m3 | 18 => some .e5m2 | 19 => some .q4 | 20 => some .e8m0
  | 21 => some .f16x2 | 22 => some .bf16x2 | _ => none

/-- Width in bits of a value of the type (R47, R154). -/
def ETy.bits : ETy → Nat
  | .b8 | .s8 | .n8 | .e4m3 | .e5m2 | .e8m0 => 8
  | .b16 | .s16 | .n16 | .f16 | .bf16 => 16
  | .b32 | .s32 | .n32 | .f32 | .f16x2 | .bf16x2 => 32
  | .b64 | .s64 | .n64 | .f64 => 64
  | .b128 => 128
  | .q4 => 4

/-- Registers that an operand of the type fills (R173). -/
def ETy.regs (t : ETy) : Nat := if t.bits ≤ 32 then 1 else t.bits / 32

/-- The signed integer types. -/
def ETy.signed : ETy → Bool
  | .s8 | .s16 | .s32 | .s64 => true
  | _ => false

/-- The floating-point element types of R44. -/
def ETy.isFloat : ETy → Bool
  | .f16 | .bf16 | .f32 | .f64 | .e4m3 | .e5m2 => true
  | _ => false

/-- The integer types that a conversion takes. -/
def ETy.isInt : ETy → Bool
  | .s8 | .s16 | .s32 | .s64 | .n8 | .n16 | .n32 | .n64 => true
  | _ => false

/-- The type an instruction names. -/
def Enc.ty (e : Enc) : Option ETy := ETy.ofCode e.tyCode

end Sys2Proof
end

