-- ==== Sys2Proof/Machine/Legal.lean ====
section
/-! DEFINITION. What each instruction's fields may hold (R152, R153, R155 step 3, R174 to R178, R205, R229, R238, R240,
R243, R245, R247, R250, R257, R265, R426). A `Shape` says whether the modifiers and fixed fields are legal, and which
registers the instruction names, for the alignment and window checks (R21, R173). -/

namespace Sys2Proof

/-- Registers named: the first, how many, and the alignment the first must have (R21, R173). -/
structure Span where
  first : Nat
  count : Nat
  align : Nat
  deriving DecidableEq, Repr

/-- The operand shape of an instruction. -/
structure Shape where
  ok : Bool
  regs : List Span
  deriving DecidableEq, Repr

/-- A single register, pair or quad, by how many registers it fills (R173). -/
def span (first count : Nat) : Span := ⟨first, count, count⟩

/-- The b operand's registers: none when it is an immediate or literal. -/
def Enc.bSpan (e : Enc) (n : Nat) : List Span := if e.bImm then [] else [span e.vb n]

/-- A predicate destination: a number in bits [3:0], not p15 (R175). -/
def predDst (n : Nat) : Bool := n < 15

/-- A predicate source (R175). -/
def predSrc (n : Nat) : Bool := n < 16

/-- What every form must meet: no negated guard 15, bit 63 of an L form 0 (R151, R152). -/
def Enc.common (e : Enc) : Bool := !(e.neg && e.guard == 15) && !e.top

/-- Whether every named register span is aligned and lies in a window of `n` registers (R21, R173). -/
def spansFit (n : Nat) (l : List Span) : Bool :=
  l.all fun s => s.first % s.align == 0 && s.first + s.count ≤ n

/-- The checks of R155 step 3 for a window of `n` registers: false means ILLEGAL_OPERAND. -/
def Shape.fits (sh : Shape) (e : Enc) (n : Nat) : Bool := e.common && sh.ok && spansFit n sh.regs

def Enc.tyIn (e : Enc) (l : List ETy) : Bool :=
  match e.ty with
  | some t => l.contains t
  | none => false

/-- Registers of the named type; 1 where the code is reserved (the shape is then illegal anyway). -/
def Enc.tn (e : Enc) : Nat :=
  match e.ty with
  | some t => t.regs
  | none => 1

/-- No b operand: IB 0, vb 0, no L form (R153). -/
def Enc.noB (e : Enc) : Bool := !e.ib && e.vb == 0 && !e.isL

def intTypes : List ETy := [.s32, .n32, .s64, .n64]
def bitTypes : List ETy := [.b32, .b64]
def fltTypes : List ETy := [.f16, .bf16, .f32, .f64]
def pckTypes : List ETy := [.f16, .bf16, .f32, .f64, .f16x2, .bf16x2]

/-! ### Groups 0 and 1 (R174, R178 to R194) -/

def Enc.sat57 (e : Enc) : Bool := e.mb 57
def Enc.cond (e : Enc) : Nat := e.m 56 54
def Enc.aux (e : Enc) : Nat := e.m 53 49

/-- vd, va, b of one type, vc unused. -/
def shInt (types : List ETy) (satOk : Bool) (e : Enc) : Shape :=
  ⟨e.tyIn types && (satOk || !e.sat57) && e.cond == 0 && e.aux == 0 && e.vc == 0 && e.xmod == 0,
   [span e.vd e.tn, span e.va e.tn] ++ e.bSpan e.tn⟩

/-- IMAD: vc is a fourth operand of the type. -/
def shImad (e : Enc) : Shape :=
  ⟨e.tyIn intTypes && !e.sat57 && e.cond == 0 && e.aux == 0 && e.xmod == 0,
   [span e.vd e.tn, span e.va e.tn, span e.vc e.tn] ++ e.bSpan e.tn⟩

def shIaddc (e : Enc) : Shape :=
  ⟨e.tyIn [.n32, .n64] && !e.sat57 && e.cond == 0 && e.aux < 2 && e.xmod == 0 && predDst (e.vc / 16)
     && (e.aux == 1 || e.vc % 16 == 0),
   [span e.vd e.tn, span e.va e.tn] ++ e.bSpan e.tn⟩

def shImadw (e : Enc) : Shape :=
  ⟨e.tyIn [.s32, .n32] && !e.sat57 && e.cond == 0 && e.aux == 0 && e.xmod == 0,
   [span e.vd 2, span e.va 1, span e.vc 2] ++ e.bSpan 1⟩

/-- vd, va of one type and no b operand (INEG, IABS with sat; NOT, BREV without). -/
def shUnary (types : List ETy) (satOk : Bool) (e : Enc) : Shape :=
  ⟨e.tyIn types && (satOk || !e.sat57) && e.cond == 0 && e.aux == 0 && e.noB && e.vc == 0,
   [span e.vd e.tn, span e.va e.tn]⟩

/-- POPC, LZC, TZC: a 32-bit result (R192). -/
def shCount (e : Enc) : Shape :=
  ⟨e.tyIn bitTypes && !e.sat57 && e.cond == 0 && e.aux == 0 && e.noB && e.vc == 0, [span e.vd 1, span e.va e.tn]⟩

def shIcmp (e : Enc) : Shape :=
  ⟨e.tyIn (intTypes ++ bitTypes) && !e.sat57 && e.aux == 0 && e.vc == 0 && e.xmod == 0 && predDst e.vd
     && (if e.tyIn bitTypes then e.cond < 2 else e.cond < 6),
   [span e.va e.tn] ++ e.bSpan e.tn⟩

def shIsel (e : Enc) : Shape :=
  ⟨e.tyIn bitTypes && !e.sat57 && e.cond == 0 && e.aux == 0 && e.xmod == 0 && predSrc e.vc,
   [span e.vd e.tn, span e.va e.tn] ++ e.bSpan e.tn⟩

def shLea (e : Enc) : Shape :=
  ⟨e.tyIn intTypes && !e.sat57 && e.cond == 0 && e.vc == 0 && e.xmod == 0, [span e.vd 2, span e.va 2] ++ e.bSpan e.tn⟩

def shMov (e : Enc) : Shape :=
  ⟨e.tyIn [.b32, .b64, .b128] && !e.sat57 && e.cond == 0 && e.aux == 0 && e.noB && e.vc == 0,
   [span e.vd e.tn, span e.va e.tn]⟩

def shMovi (e : Enc) : Shape :=
  ⟨e.tyIn [.b32, .f32, .b64, .f64] && !e.sat57 && e.cond == 0 && e.aux == 0 && e.bImm && e.va == 0 && e.vc == 0
     && e.xmod == 0, [span e.vd e.tn]⟩

/-- Width in registers of a state register (R187). -/
def stateRegs (n : Nat) : Nat := if n ≥ 11 then 2 else 1

def shMovs (e : Enc) : Shape :=
  ⟨e.mods == 0 && e.noB && e.vc == 0 && e.va < 15, [span e.vd (stateRegs e.va)]⟩

def shLop3 (e : Enc) : Shape :=
  ⟨e.tyIn bitTypes && !e.sat57 && e.xmod == 0, [span e.vd e.tn, span e.va e.tn, span e.vc e.tn] ++ e.bSpan e.tn⟩

/-- Shifts and rotates: the count is one register (R189). -/
def shShift (e : Enc) : Shape :=
  ⟨e.tyIn bitTypes && !e.sat57 && e.cond == 0 && e.aux == 0 && e.vc == 0 && e.xmod == 0,
   [span e.vd e.tn, span e.va e.tn] ++ e.bSpan 1⟩

def shShf (e : Enc) : Shape :=
  ⟨e.tyIn [.b32] && !e.sat57 && e.cond == 0 && e.aux < 2 && e.xmod == 0,
   [span e.vd 1, span e.va 1, span e.vc 1] ++ e.bSpan 1⟩

def shBfx (e : Enc) : Shape :=
  ⟨e.tyIn intTypes && !e.sat57 && e.cond == 0 && e.aux == 0 && e.vc == 0 && e.xmod == 0,
   [span e.vd e.tn, span e.va e.tn] ++ e.bSpan 1⟩

def shBfi (e : Enc) : Shape :=
  ⟨e.tyIn bitTypes && !e.sat57 && e.cond == 0 && e.aux == 0 && e.xmod == 0,
   [span e.vd e.tn, span e.va e.tn, span e.vc e.tn] ++ e.bSpan 1⟩

def shFns (e : Enc) : Shape :=
  ⟨e.tyIn bitTypes && !e.sat57 && e.cond == 0 && e.aux < 2 && e.vc == 0 && e.xmod == 0,
   [span e.vd 1, span e.va e.tn] ++ e.bSpan 1⟩

def shPlog (e : Enc) : Shape :=
  ⟨e.tyCode == 0 && !e.sat57 && !e.ib && predDst e.vd && predSrc e.va && predSrc e.vb && predSrc e.vc, []⟩

def shPmov (e : Enc) : Shape :=
  ⟨e.mods < 2 && e.noB && e.vc == 0 && (if e.mods == 0 then e.va == 0 else e.vd == 0),
   if e.mods == 0 then [span e.vd 1] else [span e.va 1]⟩

/-! ### Group 2 (R174, R195 to R204) -/

def Enc.rnd2 (e : Enc) : Nat := e.m 57 55
def Enc.ftzi2 (e : Enc) : Bool := e.mb 54
def Enc.ftzo2 (e : Enc) : Bool := e.mb 53
def Enc.sat2 (e : Enc) : Bool := e.mb 52
def Enc.cond2 (e : Enc) : Nat := e.m 51 49

def shFlt (types : List ETy) (e : Enc) : Shape :=
  ⟨e.tyIn types && e.rnd2 < 5 && e.cond2 == 0 && e.vc == 0 && e.xmod == 0,
   [span e.vd e.tn, span e.va e.tn] ++ e.bSpan e.tn⟩

def shFfma (e : Enc) : Shape :=
  ⟨e.tyIn pckTypes && e.rnd2 < 5 && e.cond2 == 0 && e.xmod == 0,
   [span e.vd e.tn, span e.va e.tn, span e.vc e.tn] ++ e.bSpan e.tn⟩

def shFmin (e : Enc) : Shape :=
  ⟨e.tyIn fltTypes && e.rnd2 == 0 && !e.sat2 && e.cond2 == 0 && e.vc == 0 && e.xmod == 0,
   [span e.vd e.tn, span e.va e.tn] ++ e.bSpan e.tn⟩

def shFcmp (e : Enc) : Shape :=
  ⟨e.tyIn fltTypes && e.rnd2 == 0 && !e.ftzo2 && !e.sat2 && e.vc == 0 && e.xmod == 0 && predDst e.vd,
   [span e.va e.tn] ++ e.bSpan e.tn⟩

def shFclass (e : Enc) : Shape :=
  ⟨e.tyIn [.f16, .bf16, .f32, .f64, .e4m3, .e5m2] && e.m 57 49 == 0 && e.noB && e.vc == 0,
   [span e.vd 1, span e.va e.tn]⟩

/-- The special functions (R202): FRCP and FSQRT take every rounding mode, the others RN only. -/
def shSpecial (types : List ETy) (anyRnd : Bool) (e : Enc) : Shape :=
  ⟨e.tyIn types && (if anyRnd then e.rnd2 < 5 else e.rnd2 == 0) && !e.sat2 && e.cond2 == 0 && e.noB && e.vc == 0,
   [span e.vd e.tn, span e.va e.tn]⟩

/-- The pairs of destination and source that CVT accepts (R204). -/
def cvtPair (d s : ETy) : Bool :=
  (s.isFloat && d.isFloat) || (s.isFloat && d.isInt) || (s.isInt && d.isFloat) || (s.isInt && d.isInt)
    || (fltTypes.contains s && d == .e8m0) || (s == .e8m0 && fltTypes.contains d)
    || (s == .f32 && (d == .f16x2 || d == .bf16x2))

def Enc.srcTy (e : Enc) : Option ETy := ETy.ofCode (e.vb % 32)

/-- The types of CVT (R204); FTZI, FTZO and SAT are its fields whatever the pair makes of them (log entry 60). -/
def shCvt (e : Enc) : Shape :=
  match e.ty, e.srcTy with
  | some d, some s =>
    let packed := d == .f16x2 || d == .bf16x2
    ⟨cvtPair d s && e.vb < 32 && !e.ib && e.cond2 == 0 && (packed || e.vc == 0)
       && (if s.isInt && d.isInt then e.rnd2 == 0 else e.rnd2 < 5),
     [span e.vd d.regs, span e.va s.regs] ++ (if packed then [span e.vc 1] else [])⟩
  | _, _ => ⟨false, []⟩

/-! ### Group 3 (R205) -/

/-- The SHFL modes other than idx take no b operand (R228). -/
def shShfl (e : Enc) : Shape :=
  let idx := e.m 57 56 == 0
  ⟨e.tyIn bitTypes && !e.mb 49 && e.xmod == 0 && (idx || e.noB) && (if e.mb 50 then predDst e.vc else e.vc == 0),
   [span e.vd e.tn, span e.va e.tn] ++ (if idx then e.bSpan 1 else [])⟩

/-- Operation and type pairs of XRED and XSCAN (R211). -/
def redPair (op : Nat) (t : ETy) : Bool :=
  if op ≤ 2 then intTypes.contains t || fltTypes.contains t else op ≤ 5 && bitTypes.contains t

def shRed (scan : Bool) (e : Enc) : Shape :=
  match e.ty with
  | some t =>
    ⟨redPair (e.m 52 50) t && (if fltTypes.contains t then e.m 57 55 < 4 else e.m 57 53 == 0) && (scan || !e.mb 49)
       && e.noB && e.vc == 0, [span e.vd t.regs, span e.va t.regs]⟩
  | none => ⟨false, []⟩

def shVote (e : Enc) : Shape :=
  let mask := e.m 57 56 == 3
  ⟨e.tyCode == 0 && e.m 55 49 == 0 && e.noB && e.vc == 0 && predSrc e.va && (mask || predDst e.vd),
   if mask then [span e.vd 1] else []⟩

def shMatch (e : Enc) : Shape :=
  ⟨e.tyIn bitTypes && e.m 56 49 == 0 && e.noB && e.vc == 0, [span e.vd 1, span e.va e.tn]⟩

def shElect (e : Enc) : Shape :=
  ⟨e.m 62 58 == 0 && e.m 56 49 == 0 && e.noB && e.vc == 0 && e.va == 0 && (e.mb 57 || predDst e.vd),
   if e.mb 57 then [span e.vd 1] else []⟩

def shBra (e : Enc) : Shape :=
  ⟨e.mods == 0 && !e.ib && e.vd == 0 && (!e.isL || (e.va == 0 && e.vc == 0 && e.xmod == 0)), []⟩

def shCall (e : Enc) : Shape :=
  ⟨e.mods == 0 && !e.ib && (!e.isL || (e.va == 0 && e.vc == 0 && e.xmod == 0)), [span e.vd 2]⟩

/-- BRX and RET. -/
def shBrx (e : Enc) : Shape := ⟨e.mods == 0 && e.noB && e.vc == 0 && e.vd == 0, [span e.va 2]⟩

def shRegroup (e : Enc) : Shape :=
  ⟨e.mods == 0 && e.vd == 0 && e.va == 0 && e.vc == 0 && e.xmod == 0, e.bSpan 1⟩

/-- Every register field and modifier 0: YIELD, FEXIT, NOP, TRET, PFENCE. -/
def shZero (e : Enc) : Shape := ⟨e.mods == 0 && e.noB && e.vc == 0 && e.va == 0 && e.vd == 0, []⟩

def shSpawn (e : Enc) : Shape :=
  let k := e.m 62 59
  ⟨k ≤ 8 && e.m 57 49 == 0 && !e.ib && e.vc == 0 && e.xmod == 0 && (k != 0 || e.va == 0)
     && (if e.mb 58 then predDst e.vd else e.vd == 0),
   [⟨e.va, k, 1⟩] ++ (if e.isL then [] else [span e.vb 2])⟩

/-- BKPT: any code in va. -/
def shBkpt (e : Enc) : Shape := ⟨e.mods == 0 && e.noB && e.vc == 0 && e.vd == 0, []⟩

/-- SVC: vd to vd + 11, vd a multiple of 4 (R225, R228). -/
def shSvc (e : Enc) : Shape := ⟨e.mods == 0 && e.noB && e.vc == 0, [⟨e.vd, 12, 4⟩]⟩

def shTmask (e : Enc) : Shape := ⟨e.mods == 0 && e.noB && e.vc == 0 && e.vd == 0 && e.va < 2, []⟩

/-! ### Group 4 (R229, R238) -/

def Enc.amode (e : Enc) : Nat := e.m 57 56
def Enc.ord (e : Enc) : Nat := e.m 55 54
def Enc.scope (e : Enc) : Nat := e.m 53 51
def Enc.hint (e : Enc) : Nat := e.m 50 49

/-- The storage scope of a group-4 access (R229): SG where a W form in amode 2 or 3 has no field for it. -/
def Enc.stor (e : Enc) : Nat :=
  if e.amode < 2 then e.vc % 64 else if e.isL then e.xmod % 64 else 3

/-- The registers of an address mode (R230). -/
def addrSpan (amode va : Nat) : List Span :=
  if amode = 0 ∨ amode = 2 then [span va 1] else if amode = 1 then [span va 2] else []

/-- Ordering kinds, scopes and storage scopes of R119. -/
def ordOk (acq rel ar : Bool) (ord scope stor : Nat) : Bool :=
  scope < 6 && (ord != 1 || acq) && (ord != 2 || rel) && (ord != 3 || ar)
    && (ord == 0 || (scope != 0 && stor != 0))

/-- The fields that the whole of R229 shares. -/
def Enc.memFields (e : Enc) : Bool :=
  (e.isL || e.ib) && (e.amode != 3 || e.va == 0) && (if e.amode < 2 then e.vc < 64 else true)
    && (if e.isL then (if e.amode < 2 then e.xmod == 0 else e.xmod < 64) else true)

def memTypes : List ETy :=
  [.b8, .b16, .b32, .b64, .b128, .s8, .s16, .s32, .s64, .n8, .n16, .n32, .n64, .f16, .bf16, .f32, .f64, .e4m3, .e5m2,
   .e8m0, .f16x2, .bf16x2]

def shLd (acq rel : Bool) (e : Enc) : Shape :=
  ⟨e.tyIn memTypes && e.memFields && ordOk acq rel false e.ord e.scope e.stor, [span e.vd e.tn] ++ addrSpan e.amode e.va⟩

/-- LDS and STS use no hint (R229, R233). -/
def shLds (acq rel : Bool) (e : Enc) : Shape :=
  let sh := shLd acq rel e
  ⟨sh.ok && e.amode == 0 && e.hint == 0, sh.regs⟩

/-- PREF uses neither type, data register, ordering nor agent scope (R229, R236); being RLX, its storage scope is ignored (R119). -/
def shPref (e : Enc) : Shape :=
  ⟨e.tyCode == 0 && e.vd == 0 && e.ord == 0 && e.scope == 0 && e.hint < 3 && e.memFields, addrSpan e.amode e.va⟩

/-- LDN and STN: type .b128, the register operand a pair (R237). -/
def shLdn (acq rel : Bool) (e : Enc) : Shape :=
  ⟨e.tyCode == 4 && e.memFields && ordOk acq rel false e.ord e.scope e.stor, [span e.vd 2] ++ addrSpan e.amode e.va⟩

def shPeq (e : Enc) : Shape :=
  ⟨e.mods == 0 && !e.ib && e.vc == 0 && predDst e.vd, [span e.va 2, span e.vb 2]⟩

def shPadd (e : Enc) : Shape :=
  ⟨e.mods == 0 && e.vc == 0 && e.xmod == 0, [span e.vd 2, span e.va 2] ++ e.bSpan 2⟩

def shPdiff (e : Enc) : Shape :=
  ⟨e.mods == 0 && !e.ib && predDst e.vc, [span e.vd 2, span e.va 2, span e.vb 2]⟩

def shPname (e : Enc) : Shape := ⟨e.mods == 0 && e.noB && e.vc == 0, [span e.vd 4, span e.va 2]⟩
def shPsize (e : Enc) : Shape := ⟨e.mods == 0 && e.noB && e.vc == 0, [span e.vd 2, span e.va 2]⟩
def shPres (e : Enc) : Shape := ⟨e.mods < 2 && e.noB && e.vc == 0 && predDst e.vd, [span e.va 2]⟩

/-! ### Group 5 (R240, R243, R245, R247, R250, R255, R257) -/

/-- Operation and type pairs of an atomic (R241). -/
def atomPair (op : Nat) (t : ETy) : Bool :=
  if op ≤ 3 then intTypes.contains t
  else if op ≤ 8 then (intTypes ++ bitTypes).contains t
  else if op = 9 then [ETy.n32, .n64].contains t
  else op ≤ 11 && [ETy.f32, .f64].contains t

def Enc.aOp (e : Enc) : Nat := e.m 57 54
def Enc.aOrd (e : Enc) : Nat := e.m 53 52
def Enc.aScope (e : Enc) : Nat := e.m 51 49
def Enc.aMode (e : Enc) : Nat := e.vc / 64
def Enc.aStor (e : Enc) : Nat := e.vc % 64

def shAtom (fetch : Bool) (e : Enc) : Shape :=
  match e.ty with
  | some t =>
    let cas := e.aOp == 8
    ⟨atomPair e.aOp t && e.aMode < 3 && e.aScope != 0 && e.xmod == 0 && (!cas || !e.bImm)
       && ordOk fetch true fetch e.aOrd e.aScope e.aStor && (fetch || e.vd == 0),
     (if fetch then [span e.vd t.regs] else []) ++ (if e.aMode = 1 then [span e.va 2] else [span e.va 1])
       ++ e.bSpan (if cas then 2 * t.regs else t.regs)⟩
  | none => ⟨false, []⟩

def Enc.fScope (e : Enc) : Nat := e.m 53 51
def Enc.fStor (e : Enc) : Nat := e.vc % 64

def shFence (e : Enc) : Shape :=
  ⟨e.m 62 56 == 0 && e.m 55 54 != 0 && e.m 50 49 == 0 && 1 ≤ e.fScope && e.fScope < 6 && e.fStor != 0 && e.vc < 64 && e.noB
     && e.va == 0 && e.vd == 0, []⟩

def shXfence (e : Enc) : Shape :=
  ⟨e.m 62 60 < 6 && e.m 59 57 < 6 && e.m 62 60 != e.m 59 57 && e.m 56 54 == 0 && e.m 50 49 == 0 && 1 ≤ e.fScope
     && e.fScope < 6 && e.fStor != 0 && e.vc < 64 && e.noB && e.va == 0 && e.vd == 0, []⟩

def shCpa (e : Enc) : Shape :=
  let am := e.m 59 58
  let g := e.mb 57
  ⟨e.m 54 49 == 0 && e.xmod == 0 && (g || e.noB) && (am != 3 || e.va == 0) && (2 ≤ am || e.vc == 0),
   [span e.vd 1] ++ addrSpan am e.va ++ (if g then e.bSpan 1 else [])⟩

def shCpseal (e : Enc) : Shape :=
  ⟨e.mods < 2 && e.noB && e.va == 0 && e.vc == 0 && (e.mods == 1 || e.vd == 0), if e.mods == 1 then [span e.vd 1] else []⟩

def shCpwait (e : Enc) : Shape :=
  ⟨e.mods < 2 && !e.ib && !e.isL && e.vd == 0 && e.vc == 0 && (if e.mods == 1 then e.va == 0 else e.va < 15 && e.vb == 0),
   if e.mods == 1 then [span e.vb 1] else []⟩

def shXfer (e : Enc) : Shape := ⟨e.mods == 0 && e.noB && predDst e.vd && e.vc < 8, [span e.va 2]⟩
def shXstat (e : Enc) : Shape := ⟨e.mods == 0 && e.noB && e.va == 0 && e.vc < 8, [span e.vd 2]⟩

/-- GINIT (with the unit bit), GARRIVE, GEXPECT and GWAIT. -/
def shGauge (unit : Bool) (e : Enc) : Shape :=
  ⟨(e.mods == 0 || (unit && e.mods == 1)) && e.vd == 0 && e.vc == 0 && e.xmod == 0, [span e.va 1] ++ e.bSpan 1⟩

def shGread (e : Enc) : Shape :=
  ⟨e.mods < 4 && e.noB && e.vc == 0, [span e.va 1, span e.vd (if e.mods == 3 then 4 else 1)]⟩

def shGfree (e : Enc) : Shape := ⟨e.mods == 0 && e.noB && e.vc == 0 && e.vd == 0, [span e.va 1]⟩

/-! ### Groups 6 and 7 (R265, R426) -/

/-- A displacement operand: with IB = 0 and no literal, vb must be 0 (R265). -/
def Enc.dispOk (e : Enc) : Bool := (e.bImm || e.vb == 0) && e.xmod == 0

/-- A gauge register where the g bit is set, else vc 0. -/
def gSpan (g : Bool) (vc : Nat) : List Span := if g then [span vc 1] else []

def shMma (sparse : Bool) (e : Enc) : Shape :=
  let g := e.mb 57
  ⟨e.m 53 49 == 0 && !e.ib && (g || e.vc == 0) && e.va % 8 == 0 && (sparse || e.vd == 0), [span e.vb 1] ++ gSpan g e.vc⟩

def shBld (e : Enc) : Shape :=
  let g := e.mb 58
  let am := e.m 60 59
  if e.mb 57 then
    ⟨e.va == 0 && e.vb == 0 && !e.bImm && e.vc == 0 && !g && !e.mb 61 && e.m 56 49 == 0, [span e.vd 1]⟩
  else
    ⟨e.dispOk && (g || e.vc == 0) && (am != 3 || e.va == 0) && (2 ≤ am || e.m 56 49 == 0),
     [span e.vd 1] ++ addrSpan am e.va ++ gSpan g e.vc⟩

def shAzero (e : Enc) : Shape :=
  ⟨e.m 57 49 == 0 && e.noB && e.vc == 0 && e.va == 0 && e.vd == 0, []⟩

def shArd (e : Enc) : Shape :=
  ⟨e.m 59 49 == 0 && e.va == 0, [span e.vd 4, span e.vc 2] ++ e.bSpan 1⟩

/-- ASTORE and ASTZ. -/
def shAstore (e : Enc) : Shape :=
  let g := e.mb 50
  ⟨e.m 62 60 < 7 && e.m 59 57 < 5 && !e.mb 49 && e.xmod == 0 && (g || e.vc == 0) && (e.mb 54 || e.vd == 0),
   (if e.mb 54 then [span e.vd 2] else []) ++ [span e.va 2] ++ e.bSpan 1 ++ gSpan g e.vc⟩

def shCvtq (e : Enc) : Shape :=
  let g := e.mb 49
  ⟨e.m 58 56 < 5 && e.m 55 53 < 5 && e.dispOk && (g || e.vc == 0), [span e.vd 2, span e.va 2] ++ gSpan g e.vc⟩

def shDq (e : Enc) : Shape :=
  let g := e.mb 58
  let sp := e.mb 57
  let am := e.m 60 59
  ⟨e.m 62 61 < 3 && !e.ib && e.xmod == 0 && (!e.isL || sp) && (g || e.vc == 0) && (am != 3 || e.va == 0)
     && (2 ≤ am || e.m 56 49 == 0),
   [span e.vd 1] ++ addrSpan am e.va ++ (if e.isL then [] else [span e.vb (if sp then 1 else 2)]) ++ gSpan g e.vc⟩

def shTchk (e : Enc) : Shape :=
  let am := e.m 60 59
  ⟨e.m 62 61 == 0 && !e.mb 57 && e.dispOk && predDst e.vd && (am != 3 || e.va == 0) && (2 ≤ am || e.m 56 49 == 0),
   addrSpan am e.va ++ [span e.vc 1]⟩

def shCeopen (e : Enc) : Shape := ⟨e.m 60 49 == 0 && e.noB && e.vd == 0 && e.vc == 0, [span e.va 2]⟩

def shCerun (e : Enc) : Shape :=
  ⟨e.m 59 49 == 0 && e.noB && e.va == 0 && predDst e.vd && (e.mb 60 || e.vc == 0), gSpan (e.mb 60) e.vc⟩

def shCesplit (e : Enc) : Shape := ⟨e.m 60 49 == 0 && e.vd == 0 && e.vc == 0, [span e.va 2] ++ e.bSpan 1⟩

/-- CESAVE and CELOAD. -/
def shCesave (e : Enc) : Shape := ⟨e.m 60 49 == 0 && e.dispOk && e.vd == 0 && e.vc == 0, [span e.va 2]⟩

def shCestat (e : Enc) : Shape := ⟨e.m 60 49 == 0 && e.noB && e.va == 0 && e.vc == 0, [span e.vd 4]⟩
def shCeclose (e : Enc) : Shape := ⟨e.m 60 49 == 0 && e.noB && e.va == 0 && e.vc == 0 && e.vd == 0, []⟩
def shBinit (e : Enc) : Shape := ⟨e.mods == 0 && e.dispOk && e.vd == 0 && e.vc == 0, [span e.va 2]⟩
def shBapp (e : Enc) : Shape := ⟨e.mods == 0 && e.vd == 0 && e.vc == 0, [span e.va 1] ++ e.bSpan 1⟩

def shBreplay (e : Enc) : Shape :=
  ⟨e.m 61 49 == 0 && e.noB && e.va == 0 && e.vd == 0 && (e.mb 62 || e.vc == 0), gSpan (e.mb 62) e.vc⟩

def shBstat (e : Enc) : Shape := ⟨e.mods == 0 && e.noB && e.va == 0 && e.vc == 0, [span e.vd 2]⟩

def shGpass (e : Enc) : Shape :=
  let g := e.mb 59
  ⟨e.m 58 49 == 0 && e.xmod == 0 && (g || e.vc == 0), [span e.vd 2, span e.va 2] ++ e.bSpan 1 ++ gSpan g e.vc⟩

end Sys2Proof
end

