-- ==== Sys2Proof/Config.lean ====
section
/-! DEFINITION. What is fixed for the machine, and the free values: constants without a body, so that no proof can see a
value the spec leaves open. Each is named in a log entry (notes/assumptions). -/

namespace Sys2Proof.Config

/-- Fibres of a course (R23). -/
def width : Nat := 32
/-- Cores, clusters and basins of the package (R5). -/
def cores : Nat := 1536
def clusters : Nat := 384
def basins : Nat := 48
/-- Fibre slots of a core (R339). -/
def slotsPerCore : Nat := 2048
/-- Scratchpad bytes of a core (R104). -/
def scratchBytes : Nat := 262144
/-- Bytes of one HBM stack and of the package (R5, R363). -/
def stackBytes : Nat := 48 * 2 ^ 30
def hbmBytes : Nat := 48 * stackBytes
/-- Active and pending gangs of a core (R342). -/
def activeGangs : Nat := 8
def pendingGangs : Nat := 56
/-- Entries of a cluster's reservation table (R262). -/
def reservation : Nat := 64
/-- Channel states and cursor states of a core (R249, R289). -/
def channelStates : Nat := 8
def cursorStates : Nat := 4
/-- Records a queue's ring holds (R326). -/
def ringRecords : Nat := 256
/-- The base of the physical interleave windows (R363). -/
def win4k : Nat := 0x100000000000
def win2m : Nat := 0x200000000000
/-- 64 microseconds, 32 microseconds, 50 microseconds and 1 millisecond in 600 MHz clocks, the clock in which the model
counts every block's timeouts (R3, R4). -/
def clocks64us : Nat := 38400
def clocks32us : Nat := 19200
def clocks50us : Nat := 30000
def clocks1ms : Nat := 600000

/-- A free value that depends on operands: a tag for the rule, then the operands. -/
opaque freeOf : Nat → Nat → Nat → BitVec 64

/-- The memory key of a function that has no world (R417, log entry 9). -/
opaque noWorldKey : Nat → List (BitVec 8)

/-- The 256-bit root in the fuses of the H-die (R416). -/
opaque fusedRoot : List (BitVec 8)

/-- KMAC256 of NIST SP 800-185: key, message, output bits, customisation string (R416, R421, R424). -/
opaque kmac256 : List (BitVec 8) → List (BitVec 8) → Nat → String → List (BitVec 8)

/-- AES-256-XTS (R420, R421): under a key, a data unit number and the number of a 16-byte block in it, a permutation of the block, whose
inverse decrypts. -/
opaque xts : List (BitVec 8) → Nat → Nat → (n : Nat) → Equiv.Perm (List.Vector (BitVec 8) n)

/-- AES-256-GCM (R427): under a key and a nonce, a permutation of the payloads of a length, whose inverse decrypts, and the tag of a
ciphertext. The nonce of a packet, which the rule does not give, comes from its sender, its message and its offset (log entry 70). -/
opaque gcm : List (BitVec 8) → Nat → (n : Nat) → Equiv.Perm (List.Vector (BitVec 8) n)
opaque gcmTag : List (BitVec 8) → Nat → List (BitVec 8) → List (BitVec 8)
opaque gcmNonce : Nat → Nat → Nat → Nat

/-- SHA3-256 (R428, R429). -/
opaque sha3 : List (BitVec 8) → List (BitVec 8)

/-- ML-DSA-44: the public key of a seed, and a signature by it (R429). -/
opaque mldsaPublic : List (BitVec 8) → List (BitVec 8)
opaque mldsaSign : List (BitVec 8) → List (BitVec 8) → List (BitVec 8)

/-- The part of an SPDM answer whose form SPDM itself gives: the request's code of `Dev.answer`, and the function (R428). -/
opaque spdmBody : Nat → Nat → List (BitVec 8)

/-- Bamvor's certificate of world 0's public key (R429). -/
opaque bamvorCertificate : List (BitVec 8) → List (BitVec 8)

/-- The bytes of a world record as a measurement: tenant, period, state code (R417, R429). -/
opaque worldRecord : Nat → Nat → Nat → List (BitVec 8)

/-- The value that extends MS3: fuse configuration and the excluded dies (R429). -/
opaque fuseValue : List Nat → List (BitVec 8)

end Sys2Proof.Config
end

