-- ==== Sys2Proof/Machine/State.lean ====
section
/-! DEFINITION. The state of the machine as plain data: `Dev` holds what only the part's own management and its hosts
change, `Mach` holds what instructions and engines work on, and the rest is the model's own. -/

namespace Sys2Proof.Machine

/-- Why the machine stops. -/
inductive Fault where
  /-- Raised by `step` when module power is off and nothing is on the agenda (R436): nothing can happen until a POWER_ON.
  Safe: the part does nothing either. -/
  | poweredOff
  /-- Raised by `step` when a start has halted and nothing is on the agenda (R431). Safe: the halted part only answers on
  its management interface. -/
  | startHalted
  deriving DecidableEq, Repr

/-- What the model has no meaning for. -/
inductive Refusal where
  /-- Raised by an arm of `exec` for an instruction without a meaning yet. Safe. -/
  | notModelled (mnemonic : String)
  /-- Raised by the meaning of an instruction form when no gang is issuing: an instruction acts only through the gang
  that issues it (R26). Safe: no such event exists. -/
  | noIssuingGang
  /-- Raised by the meaning of a step of the part when the move that names it carries another step's operands, or none:
  such a move describes no event. Safe: no such event exists. -/
  | noOperands
  deriving DecidableEq, Repr

/-! ### Memory -/

/-- Bytes by address, in the canonical form of `Memory.wf`; an address not listed reads 0 (log entry 4). -/
abbrev Memory := List Host.Cell

/-- The spaces that hold bytes: the linear HBM address q (R363), translated host addresses (R394), downstream addresses
(R396), scratchpad by core (R104), the accumulators, status words and registers that the chip window shows (R114), and bytes
behind a fabric address, which the part holds only as copies (R101, R120). -/
inductive Space where
  | hbm | host | pmem | scr | acc | status | reg | fab
  deriving DecidableEq, Repr

/-- A byte's place. On-chip spaces put the core above the offset: scratchpad core × 2^18, accumulators core × 2^16, status
words core × 2^5, registers core × 2^21. A fabric byte is named by node × 2^72, rkey × 2^40 and offset. -/
structure Loc where
  space : Space
  addr : Nat
  deriving DecidableEq, Repr

/-- The storage classes (R117). -/
inductive Cls where
  | s | g | n | h | f | p
  deriving DecidableEq, Repr

/-- The world and compartment under which a line is filled or written (R420). -/
structure Key where
  world : Nat
  comp : Nat
  deriving DecidableEq, Repr

/-- One byte held in a cache (R101, R420): in the L1 of core `unit`, or in the L2 slice of cluster `unit`. -/
structure Copy where
  unit : Nat
  loc : Loc
  val : Byte
  dirty : Bool
  cls : Cls
  key : Key
  deriving DecidableEq, Repr

/-! ### Fibres and gangs -/

/-- Why a fibre is parked (R358). -/
inductive ParkReason where
  | none | switch | translation | object | springFull | svc | trap | bkpt | preempt | slot
  deriving DecidableEq, Repr

/-- Where a store goes. -/
inductive StoreKind where
  /-- Bytes in the cached spaces or on the chip, lowest first. -/
  | bytes (cells : List (Loc × Byte))
  /-- A kind-01 store: node, rkey, offset, bytes (R136, R407). -/
  | fabric (node : Nat) (rkey : Nat) (off : Nat) (data : List Byte)
  deriving DecidableEq, Repr

/-- One store in a fibre's store queue (R122). -/
structure StoreEntry where
  kind : StoreKind
  cls : Cls
  key : Key
  /-- Agent scope at which an RLX store is performed; 0 for a plain store (R121). -/
  scope : Nat
  /-- A release store with its storage scope (R125). -/
  release : Option Nat
  /-- The slot and offset of a store through a short pointer (R96). -/
  object : Option (Nat × Nat)
  /-- The stamp of its instruction, and the slots of the lower lanes of that instruction whose bytes overlap: their stores
  leave first (R107, R235). -/
  instr : Nat
  behind : List Nat
  /-- A name, single-copy atomic over its 16 bytes (R95). -/
  name : Bool
  /-- The host frames it writes, each with the host I/O page that ATS translated (R395). -/
  hostAt : List (Nat × Nat)
  deriving DecidableEq, Repr

/-- What a long-latency result writes. -/
inductive PendDst where
  | reg (k : Nat)
  | pred (p : Nat)
  deriving DecidableEq, Repr

/-- A long-latency result not yet written (R156): `eng` for groups 6 and 7, `instr` the stamp of its instruction. -/
structure Pend where
  dst : PendDst
  val : Word
  eng : Bool
  instr : Nat
  deriving DecidableEq, Repr

/-- What a re-executing lane still carries from its park (R87, R88, R376). -/
structure Carry where
  /-- The trap the lane takes when it needs the slot again: NAME_FAULT or FETCH_ERROR. -/
  name : Option (Nat × Nat)
  /-- The page whose translation fault system software ended with an error. -/
  errorPage : Option Nat
  deriving DecidableEq, Repr

/-- A fibre (R20) with what the part keeps for it. -/
structure Fibre where
  slot : Nat
  regs : List Word
  preds : BitVec 16
  /-- Rounding stream (R59). -/
  stream : DWord
  stores : List StoreEntry
  pend : List Pend
  /-- Number of the next batch to be sealed (R247). -/
  nextBatch : Word
  /-- Copy errors recorded against the fibre (R248). -/
  copyErrs : Nat
  /-- Unfinished batches and open copies that its image has shown beyond those the part knew of (R359). -/
  moreBatches : Int
  moreOpen : Int
  /-- Fabric errors recorded, and the node of the earliest (R138). -/
  fabErrs : Nat
  fabNode : Nat
  masked : Bool
  inHandler : Bool
  tinfo : DWord
  /-- Inside a BREAKPOINT handler: the resume field of the BKPT, and of the instruction after it (R224). -/
  brk : Option (Nat × Nat)
  /-- The core's clock when a pre-emption was latched (R352). -/
  latched : Option Nat
  carry : Carry
  /-- The fibre has exited and only drains its store queue (R223). -/
  exited : Bool
  /-- The number under which what an exited fibre posted goes on; no slot has it. -/
  ghost : Nat
  deriving DecidableEq, Repr

/-- Where a gang stands in its course of issue. -/
inductive GangState where
  | ready
  /-- Held at a wait that R148 lists; the instruction, or the clause's waits, are tested again (R143, R148). `own` marks a
  condition of the gang's own choice (R41). -/
  | held (own : Bool)
  /-- An issue hold that is no stop of R148: the instruction is tried again, and the gang is neither exchanged nor pre-empted
  at it. -/
  | stalled
  /-- Waits at a clause header after REGROUP until the bound (R29). -/
  | regroup (deadline : Nat)
  | parked (reason : ParkReason)
  deriving DecidableEq, Repr

/-- Where a gang stands in the core's sets (R342). -/
inductive Place where
  | active | pending | offCore
  deriving DecidableEq, Repr

/-- What a parked gang waits on. -/
inductive Wake where
  | none
  /-- A fault record's token (R374). -/
  | fault (token : Nat)
  /-- A slot of the context, until it is resident (R85). -/
  | object (slot : Nat)
  /-- A slot whose size is wanted (R92). -/
  | lookup (slot : Nat)
  /-- Ring tokens still to be answered (R355). -/
  | ring
  /-- The outstanding requests of a kind-01 load or atomic (R160), and the lanes of it that park once no lane has trapped (R15). -/
  | fabric (ids : List Nat) (later : BitVec 32)
  /-- A GWAIT (R112): slot, gauge and generation of each lane; whether the wait has ended; slots whose gauge became invalid
  before it did. -/
  | gauge (waits : List (Nat × Nat × Nat)) (ended : Bool) (bad : List Nat)
  deriving DecidableEq, Repr

/-- The operands a gang keeps in the array's latch (R275). -/
structure KeptA where
  afmt : Nat
  block : Nat
  scale : Nat
  asp : Bool
  mask : BitVec 32
  /-- Per active lane: A registers, scale registers, A bitmap registers. -/
  rows : List (Nat × List Word × List Word × List Word)
  /-- Written to the owner's context image because another gang needed the latch. -/
  spilled : Bool
  deriving DecidableEq, Repr

/-- A gang (R26): fibres of one course at one program counter. -/
structure Gang where
  id : Nat
  course : Nat
  mask : BitVec 32
  hdr : Nat
  idx : Nat
  /-- The clause has begun: its checks and waits are done, and `header` is its header word. -/
  begun : Bool
  header : Nat
  state : GangState
  place : Place
  wake : Wake
  /-- Clocks waited in place, and issued since it became active (R342). -/
  waited : Nat
  issued : Nat
  readySince : Nat
  passedOver : Nat
  /-- Entries still to be written into the request ring: kind, code, and the vd field of an SVC or the %tinfo of a
  forwarded trap (R225, R351). -/
  ringWait : Option (Nat × Nat × Nat)
  /-- When it asked for them: the ring takes the gangs of a context in that order. -/
  ringAt : Nat
  /-- The park of an S bit has not ended (R159). -/
  sPark : Bool
  /-- The page of a clause fetch that system software ended with an error (R376). -/
  fetchError : Option Nat
  kept : Option KeptA
  deriving DecidableEq, Repr

/-- A fibre waiting in a spring bin: v0 to v7 as placed and its spawn count (R35, R59). -/
structure BinFibre where
  regs : List Word
  count : Nat
  deriving DecidableEq, Repr

/-- A spring bin (R35). -/
structure SpringBin where
  n : Nat
  key : Nat
  fibres : List BinFibre
  ready : Bool
  deadline : Nat
  /-- Clocks left on the timer while the crew is pre-empted (R361). -/
  remaining : Nat
  rank : Nat
  deriving DecidableEq, Repr

/-! ### Engines -/

/-- One coordinate stream of a cursor (R289, R290). -/
structure CurStream where
  enc : Nat
  base : Nat
  start : Nat
  stop : Nat
  skip : Nat
  floor0 : Nat
  unit : Nat
  floor : Nat
  ord : Nat
  deriving DecidableEq, Repr

/-- A cursor (R293). -/
structure Cursor where
  n : Nat
  /-- The fibres whose instruction posted it, for XFENCE (R134). -/
  by_ : List Nat
  state : Nat
  /-- The descriptor's kind-00 address, and the descriptor as it was read. -/
  desc : Nat
  raw : BitVec 512
  entry : Nat
  tag : Word
  merge : Bool
  a : CurStream
  b : CurStream
  fstream : Bool
  rep : Bool
  gerr : Bool
  emitted : Nat
  gauge : Option Nat
  /-- The offending value of a FAULT, and the previous coordinate. -/
  offending : Word
  previous : Word
  /-- A translation fault still being served, by its token; an object it waits for, and whether that ended in an error. -/
  wait : List Nat
  errorPage : Option Nat
  want : Option Nat
  lost : Bool
  deriving DecidableEq, Repr

/-- A channel (R249, R255): state 0 IDLE, 1 RUNNING, 2 WAITING, 3 ERROR. -/
structure Channel where
  n : Nat
  /-- The fibres whose instruction posted it, for XFENCE (R134). -/
  by_ : List Nat
  state : Nat
  record : Nat
  /-- The record as the engine read it, while it moves. -/
  body : Option (BitVec 512)
  /-- Bytes moved and written, and bytes for which packets have left (R256). -/
  moved : Nat
  sent : Nat
  err : Nat
  /-- Status to finish the current record with, once known. -/
  status : Nat
  /-- Bytes of the record that may leave, or be asked for, so far (R408); of a push, the tokens that grant some of them, each as the
  clock at which it lapses and its bytes not yet used (R410). -/
  granted : Nat
  grants : List (Nat × Nat)
  /-- The message of a record of class F; 0 where none is open. -/
  msg : Nat
  /-- The lowest offset of a packet that its receiver has refused: nothing from it on counts as moved (R256). -/
  gap : Option Nat
  /-- The rkey of the record's kind-01 side, as its window entry stood at the record's issue (R401). -/
  rkey : Nat
  /-- The slot that the channel waits for, and whether its lookup or fetch ended in an error (R252, R253). -/
  want : Option Nat
  lost : Bool
  wait : List Nat
  errorPage : Option Nat
  order : Nat
  deriving DecidableEq, Repr

/-- The binning context (R296, R299): state 1 READY, 2 REPLAYING, 3 ERROR. -/
structure Binning where
  /-- The fibres whose BREPLAY posted the replay, for XFENCE (R134). -/
  by_ : List Nat
  desc : BitVec 256
  state : Nat
  code : Nat
  pairs : List (Nat × Word)
  /-- Replay in progress: the next region, and the pairs received before it started. -/
  region : Nat
  limit : Nat
  gauge : Option Nat
  wait : List Nat
  errorPage : Option Nat
  want : Option Nat
  lost : Bool
  deriving DecidableEq, Repr

/-- A run of bytes that lie together after translation. -/
structure Run where
  loc : Loc
  len : Nat
  cls : Cls
  /-- Fabric source: node, rkey, offset. -/
  fab : Option (Nat × Nat × Nat)
  /-- The host I/O page of bytes in host memory, by which ATS found them (R394); 0 elsewhere. -/
  hostPage : Nat
  deriving DecidableEq, Repr

/-- A checked range of memory that an engine will read or write, with the slot and offset it was named by. -/
structure Area where
  runs : List Run
  object : Option (Nat × Nat)
  deriving DecidableEq, Repr

/-- A copy issued by a CPA (R246): `exec` names the execution that issued it. -/
structure CpaCopy where
  id : Nat
  exec : Nat
  slot : Nat
  /-- Sealed batch number, or none while the copy is in the open set (R247). -/
  batch : Option Word
  dst : Nat
  size : Nat
  src : List Run
  object : Option (Nat × Nat)
  gauge : Option Nat
  done : Bool
  err : Bool
  deriving DecidableEq, Repr

/-- A GPASS in progress (R426). -/
structure GpassOp where
  id : Nat
  slot : Nat
  /-- The fibres that posted it, for XFENCE (R134). -/
  by_ : List Nat
  src : List Run
  dst : List Run
  len : Nat
  at_ : Nat
  /-- Offset of the first byte within each object, for the unit number (R421), and where each side's tags lie. -/
  srcOff : Nat
  dstOff : Nat
  srcTags : List Run
  dstTags : List Run
  /-- What the last unit of each side holds beyond the range: its tag covers it (R421). -/
  srcRest : List Run
  dstRest : List Run
  /-- Slot and offset by which each side was named. -/
  srcObject : Option (Nat × Nat)
  dstObject : Option (Nat × Nat)
  skey : Nat
  dkey : Nat
  scomp : Nat
  dcomp : Nat
  gauge : Option Nat
  failed : Bool
  deriving DecidableEq, Repr

/-- An accumulator tile's status and owner (R267). -/
structure Tile where
  core : Nat
  n : Nat
  crew : Nat
  sat : Nat
  stopped : Bool
  pair : Bool
  int : Bool
  bound : Bool
  steps : Nat
  step : Nat
  deriving DecidableEq, Repr

/-- A stationary slot (R266): state 0 loading, 1 loaded, else the trap code of the failed load. -/
structure StatSlot where
  core : Nat
  n : Nat
  crew : Nat
  pair : Bool
  fmt : Nat
  block : Nat
  scale : Nat
  k : Nat
  codes : List Byte
  scales : List Byte
  state : Nat
  deriving DecidableEq, Repr

/-- What a matrix post does (R262). `int` is the tile's kind at the post's issue. -/
inductive PostOp where
  /-- Format word, modifiers sat, ftzi, ftzo, the A operands, and the voted B bitmap. -/
  | mma (fmt : Nat) (sat ftzi ftzo : Bool) (a : KeptA) (bbm : List Word)
  /-- Descriptor word and image. For ciphertext: key id, first unit, places of the tags; key id 0 is CIPHER_USE. -/
  | bld (desc : Word) (src : Area) (cipher : Bool) (keyId unit : Nat) (tags : List Run)
  | bldFree
  | azero (int free : Bool)
  | astore (int : Bool) (otype rnd : Nat) (ftzo sat : Bool) (amax : Option Area) (rows : List Area)
  | astz (int : Bool) (otype rnd : Nat) (ftzo sat : Bool) (amax : Option Area) (cap : Nat) (dst : Area)
  | cvtq (int : Bool) (fmt block qtype rnd : Nat) (amax : Option Area) (dst : Area)
  /-- The results, ready when the tile has been checked. -/
  | dq (data : List Byte) (dst : Area)
  deriving DecidableEq, Repr

/-- An entry of the reservation table (R262, R263). -/
structure Post where
  id : Nat
  crew : Nat
  gang : Nat
  /-- The gang's fibres at the post, for the `mx` wait (R142, R264) and XFENCE (R134). -/
  lanes : List Nat
  /-- Slot of the lowest active lane, for gauge errors and rounding streams, and its stream at issue. -/
  slot : Nat
  stream : DWord
  core : Nat
  acc : Option Nat
  sslot : Option Nat
  pair : Bool
  prio : Nat
  entered : Nat
  aged : Bool
  started : Bool
  stopped : Bool
  /-- Its writes across the fabric have left and are awaited. -/
  worked : Bool
  failed : Bool
  step : Nat
  gauge : Option Nat
  op : PostOp
  deriving DecidableEq, Repr

/-- A crew (R19, R339). -/
structure Crew where
  id : Nat
  launch : Nat
  ctx : Nat
  idx : Nat
  core : Nat
  slotBase : Nat
  limit : Nat
  nregs : Nat
  scrBase : Nat
  scrSize : Nat
  image : Nat
  fibres : List Fibre
  gangs : List Gang
  bins : List SpringBin
  spawned : Nat
  cursors : List Cursor
  channels : List Channel
  binning : Option Binning
  copies : List CpaCopy
  gpasses : List GpassOp
  /-- Pre-emption requested with a reason (R360), and in effect for every gang. -/
  preempt : Nat
  preempted : Bool
  /-- A gang is held for the debugger with stop-all set (R362). -/
  stopAll : Bool
  /-- The launch has been ended: the crew's gangs stop as for pre-emption and its engine work is abandoned (R357). -/
  stopped : Bool
  deriving DecidableEq, Repr

/-! ### Contexts -/

/-- A range entry (R364). -/
structure Range where
  base : Nat
  limit : Nat
  target : Nat
  cls : Nat
  cipher : Bool
  perm : Nat
  keyId : Nat
  placement : Nat
  deriving DecidableEq, Repr

/-- A slot of the Object Residency Table (R77). -/
structure Slot where
  n : Nat
  state : Nat
  ident : DWord
  size : Nat
  base : Nat
  home : Nat
  cls : Nat
  keyId : Nat
  ro : Bool
  cipher : Bool
  dirty : Bool
  lastSerial : Nat
  fetches : Nat
  /-- Resident extents of a large object: extent number and address (R84). -/
  extents : List (Nat × Nat)
  /-- A directory lookup is due (R85, R92). -/
  lookup : Bool
  /-- The extent that the fetch in flight brings, or that a fetch brings once a lookup or eviction has ended (R85). -/
  fetching : Option Nat
  mapAddr : Nat
  /-- Pool space reserved for the fetch in flight, before it asks for tokens: of its bytes, and of the extent map (R88, R89). -/
  room : Option (Nat × Nat)
  /-- Offsets written since the last write-back (R96). -/
  written : List Nat
  /-- The lanes counted in waiters, as crew and fibre slot: parked on the slot, or woken and not yet re-executed, which
  pins the copy (R77, R91). -/
  parked : List (Nat × Nat)
  touched : Nat
  /-- Its copy is being evicted to reclaim the slot (R82). -/
  reclaim : Bool
  /-- A lookup or fetch waiting on fault records. -/
  wait : List Nat
  errorPage : Option Nat
  deriving DecidableEq, Repr

/-- The part's reading of a context header (R353), and what it keeps for the context. -/
structure Ctx where
  /-- Physical address of the header. -/
  addr : Nat
  fn : Nat
  /-- The fields stand since a record began while none was unretired. -/
  loaded : Bool
  malformed : Bool
  ortMalformed : Bool
  ort : BitVec 512
  imageBase : Nat
  imageLimit : Nat
  ring : BitVec 256
  root : Nat
  ranges : List Range
  rangesMalformed : Bool
  fabric : BitVec 512
  eventRing : BitVec 256
  comp : Nat
  /-- Last launch serial assigned (R80). -/
  serial : Nat
  slots : List Slot
  /-- Areas of the resident pool in use: start and length (R88). -/
  pool : List (Nat × Nat)
  /-- Held by the pre-emption register (R390). -/
  held : Bool
  /-- While a lane or an engine translates through the context: who it is, 0 for none in particular (R379). -/
  asker : Nat
  deriving DecidableEq, Repr

/-- A translation held in a cluster's translation cache (R372): the page's first address and size. -/
structure Tlb where
  cluster : Nat
  ctx : Nat
  page : Nat
  size : Nat
  frame : Nat
  cls : Nat
  cipher : Bool
  perm : Nat
  keyId : Nat
  /-- The level of the leaf it came from (R374). -/
  level : Nat
  deriving DecidableEq, Repr

/-- A host page that ATS has translated (R394). -/
structure Ats where
  fn : Nat
  page : Nat
  frame : Nat
  read : Bool
  write : Bool
  deriving DecidableEq, Repr

/-- An outstanding fault record (R374). -/
structure FaultRec where
  token : Nat
  ctx : Nat
  fn : Nat
  va : Nat
  req : Nat
  cause : Nat
  access : Nat
  level : Nat
  core : Nat
  joined : List Requester
  written : Bool
  deriving DecidableEq, Repr

/-- An outstanding entry of a request ring (R355, R356). -/
structure RingReq where
  token : Nat
  ctx : Nat
  crew : Nat
  gang : Nat
  kind : Nat
  slot : Nat
  vd : Nat
  /-- The entry's address, and its number in the ring. -/
  entry : Nat
  order : Nat
  deriving DecidableEq, Repr

/-- An invalidation in progress (R378, R379). -/
structure Inval where
  fn : Nat
  desc : BitVec 256
  ok : Bool
  deriving DecidableEq, Repr

/-! ### Dispatch -/

/-- State of the record at the head of a queue (R331, R337). -/
inductive Head where
  | waiting | ready | running | retired
  deriving DecidableEq, Repr

/-- A work queue (R326, R327). -/
structure Queue where
  q : Nat
  enabled : Bool
  ctx : Nat
  fn : Nat
  prio : Nat
  ring : List (BitVec 512)
  serials : List Nat
  mirrors : Nat × Nat
  head : Head
  /-- The record has begun: its context's header is read (R353). -/
  begun : Bool
  readyAt : Nat
  accepted : Nat
  completed : Nat
  refused : Nat
  refusals : Nat
  reason : Nat
  partialSet : Bool
  lost : Bool
  lostseq : Nat
  /-- Completion status to write when the record has retired. -/
  status : Nat
  attempt : Nat
  clocks : Nat
  /-- Priority gained by aging (R337), and whether its coresident head bars other admissions (R340). -/
  aged : Nat
  blocking : Bool
  /-- The function's cap as it stood when the record reached the head (R336). -/
  cap : Nat
  /-- Records at the front of the ring that complete KILLED because their function was reset (R434). -/
  killing : Nat
  /-- Records at the front of the ring whose LAUNCH records complete KILLED because their function's launches were ended
  (R394, R417). -/
  ending : Nat
  deriving DecidableEq, Repr

/-- A launch being run (R31, R329, R343). -/
structure Launch where
  id : Nat
  q : Nat
  ctx : Nat
  record : BitVec 512
  serial : Nat
  attempt : Nat
  admittedAt : Option Nat
  prio : Nat
  nextCrew : Nat
  /-- The cores that its crews of this attempt were placed on (R344). -/
  cores : List Nat
  retired : Nat
  killed : Bool
  failed : Bool
  deriving DecidableEq, Repr

/-! ### Fabric -/

/-- An outgoing fabric request not yet answered (R136, R138, R406). -/
inductive OutKind where
  /-- A lane's load: destination register, type code, the S bit, and the scopes of an acquire. -/
  | load (vd : Nat) (type : Nat) (s : Bool) (acq : Option (Nat × Nat))
  /-- A combined atomic: the lanes with their operands in home-lane order (R131, R415), and as for a load. -/
  | atomic (fetch : Bool) (op type : Nat) (lanes : List (Nat × Nat × Nat)) (vd : Nat) (s : Bool) (acq : Option (Nat × Nat))
  /-- A word of memory that an atomic with fabric lanes names too: it is performed once every response is there, so that a
  remote error finds it unchanged (R138, R242). -/
  | word (cls : Cls) (scope : Nat) (locs : List Loc) (object : Option (Nat × Nat)) (op type : Nat)
      (lanes : List (Nat × Nat × Nat)) (vd : Nat) (s : Bool) (acq : Option (Nat × Nat))
  | store
  /-- Bytes of a resident copy written back to a home of class F, in the highest grant class (R89, R96). -/
  | writeback (ctx slot : Nat)
  /-- A packet of a channel's record: its message, the message's length where it travels unscheduled (R408), and its grant class. -/
  | packet (ch msg total prio : Nat)
  /-- A read or write of a matrix post. -/
  | post (id : Nat)
  /-- A read of tile bytes that a gang waits for at its instruction (R286, R287). -/
  | tile
  deriving DecidableEq, Repr

structure FabOut where
  id : Nat
  crew : Nat
  gang : Nat
  slot : Nat
  node : Nat
  rkey : Nat
  off : Nat
  len : Nat
  kind : OutKind
  /-- The core and the function it was sent for. -/
  core : Nat
  fn : Nat
  /-- How far the bytes of a load may be kept as copies (R101, R121): 1 in the L1 and the L2 slice, 2 in the L2 slice, 0 not
  at all. -/
  fill : Nat
  /-- The bytes of a store or packet. -/
  data : List Byte
  /-- How many of them may leave so far (R408). -/
  allowed : Nat
  /-- The payload and its tag as they travel (R427). -/
  payload : List Byte
  tag : List Byte
  /-- The response, kept until the whole instruction has its responses: an error, or the bytes. -/
  answer : Option (Bool × List Byte)
  deriving DecidableEq, Repr

/-- An incoming message that the Weir schedules (R408 to R412). -/
structure InMsg where
  id : Nat
  node : Nat
  msg : Nat
  ctx : Nat
  queue : Nat
  region : Nat
  rkey : Nat
  prio : Nat
  total : Nat
  granted : Nat
  placed : Nat
  /-- Bytes already placed, as offset and length of each packet. -/
  packets : List (Nat × Nat)
  order : Nat
  expired : Nat
  held : Bool
  orphan : Bool
  /-- A final flagged write kept back until the rest is placed (R137, R254). -/
  deferred : Option Packet
  /-- The pull it answers: crew and channel, or the context and slot of an ORU fetch (R89). -/
  pull : Option (Nat × Nat)
  oru : Option (Nat × Nat)
  deriving DecidableEq, Repr

/-- An outstanding pull token (R408, R410). -/
structure Token where
  id : Nat
  msg : Nat
  bytes : Nat
  deadline : Nat
  used : Nat
  /-- Some of its bytes were dropped at the receiver (R413). -/
  dropped : Bool
  deriving DecidableEq, Repr

/-- A persistent write-back waiting for its downstream device (R139, R397): the fibre whose PFENCE sent it. -/
structure PersistOut where
  id : Nat
  crew : Nat
  slot : Nat
  port : Nat
  cells : List (Nat × Byte)
  sent : Nat
  failed : Bool
  deriving DecidableEq, Repr

/-! ### The machine that programs and engines work on -/

/-- A history of the part's packets and revocations is not kept: each field is present state. -/
structure Mach where
  /-- The bytes of the stacks as they stand there: those of a world other than 0 are ciphertext (R420). -/
  hbm : Memory
  host : Memory
  pmem : Memory
  /-- The bytes in the persistence domain of the downstream devices (R139). -/
  durable : Memory
  /-- Downstream addresses whose 16 bytes a name was stored over since they were last durable (R95, R140). -/
  pnames : List Nat
  scratch : Memory
  /-- The context that last held each 128-byte scratchpad line (R437). -/
  scratchCtx : List (Nat × Nat)
  /-- Scratchpad addresses of the slots that GINIT has made gauges and nothing has freed (R109), by core × 2^18 + offset. -/
  gauges : List Nat
  /-- Accumulator words by core × 2^14 + tile × 2^12 + row × 128 + column; 0 where not listed. -/
  accs : List (Nat × Word)
  l1 : List Copy
  l2 : List Copy
  tiles : List Tile
  sslots : List StatSlot
  posts : List Post
  crews : List Crew
  ctxs : List Ctx
  tlb : List Tlb
  /-- What the hosts' ATS answers, and what the part's translation cache holds of it (R394). -/
  hostMaps : List Ats
  ats : List Ats
  faults : List FaultRec
  rings : List RingReq
  invals : List Inval
  queues : List Queue
  launches : List Launch
  fabOut : List FabOut
  inMsgs : List InMsg
  tokens : List Token
  /-- By open message that this part sends, its node and number, the last notice to its receiver (R412): the message is abandoned, or it
  resumes after so many acknowledged bytes. -/
  notices : List (Nat × Nat × Option Nat)
  /-- Peer contexts the Weir holds, and packets in the miss buffer (R413). -/
  peers : List Nat
  missed : List Packet
  persist : List PersistOut
  /-- Interrupts raised: function and MSI-X vector (R389). -/
  irqs : List (Nat × Nat)
  /-- By core, the clocks that its cycle counter is ahead of `dclock` (R34). -/
  clocks : List (Nat × Nat)
  /-- Clock of the dispatcher, and of the X-die and Weir blocks (R4). -/
  dclock : Nat
  /-- The translation-cache entries that some askers do not use while an invalidation is in progress: asker and page (R379). -/
  afresh : List (Nat × Nat)
  /-- Messages that the receiver has closed or released: node and message (R406). -/
  closed : List (Nat × Nat)
  /-- 8-byte words of HBM that a host has written as zeros, and by function the share as it stood when one of its records last
  reached a head (R336). -/
  zeroWords : List Nat
  shares : List (Nat × Nat)
  /-- The bytes that the last host read returned (R324, R387 to R389). -/
  hostRead : List Byte
  /-- The function the dispatcher serves in its round with the admissions made for it, and by function the queue it served
  last (R338). -/
  lastServed : Nat × Nat
  lastQueue : List (Nat × Nat)
  /-- Next fault token and ring token. -/
  nextToken : Nat
  nextId : Nat
  deriving DecidableEq, Repr

/-! ### Device state -/

/-- A boot word (R432). -/
structure BootWord where
  good : Nat
  fails : Nat
  way : Nat
  done : Bool
  attempting : Bool
  deriving DecidableEq, Repr

/-- State of a tenant world (R417). -/
inductive WorldState where
  | none | open | closing
  deriving DecidableEq, Repr

/-- What the management core keeps for a function (R389, R392, R417, R428). -/
structure FnRec where
  fn : Nat
  tdisp : TdispState
  world : WorldState
  tenant : Nat
  period : Nat
  secret : Option (BitVec 256)
  session : Bool
  /-- By link, whether the function's own IDE stream is in its secure state (R392, R393). -/
  ideSecure : BitVec 4
  /-- A key exchange has opened a session that FINISH completes (R428). -/
  keyExchange : Bool
  /-- The responder's last answer on the function's DOE mailbox. -/
  reply : List Byte
  /-- A scrub accepted and not yet executed: whether the world's session asked, and the ranges (R430). -/
  scrub : Option (Bool × List (Nat × Nat))
  deriving DecidableEq, Repr

/-- An ATS Invalidate Request whose completion has not been sent (R395): the pages, the frames they had, and the clock of its
receipt. -/
structure AtsInval where
  fn : Nat
  page : Nat
  count : Nat
  frames : List Nat
  at_ : Nat
  deriving DecidableEq, Repr

/-- What only the management of the part and its hosts change. No instruction form writes any of it. -/
structure Dev where
  boot : List BootWord
  /-- The step of the start, 7 once all have ended; whether it has begun; the steps found failed at this start (R433). -/
  bootStep : Nat
  started : Bool
  failedSteps : List Nat
  halted : Bool
  powered : Bool
  /-- The node number in the boot store, and as read at boot step 4 (%device). -/
  nodeStore : Nat
  node : Nat
  /-- Held in package reset (R399). -/
  inReset : Bool
  cap : Nat
  halvedCap : Bool
  withholding : Bool
  ms : List (List Byte)
  fns : List FnRec
  queueTable : Nat
  fnTable : Nat
  faultTable : Nat
  apertures : List (BitVec 128)
  msix : List (Nat × BitVec 384)
  retiredStacks : List Nat
  deadCores : List Nat
  deadAppCores : List Nat
  /-- X-dies that a boot step excluded or that have failed: their links and ports stay down (R344, R431). -/
  deadXDies : List Nat
  hostLinks : List Bool
  linkIde : List Bool
  /-- The link that carries the requests of hosts that come next. -/
  link : Nat
  ports : List Bool
  downPorts : List Bool
  downCapacity : List Nat
  /-- 64-byte lines of class-P addresses whose reads the device answers with poison or an error (R397). -/
  poison : List Nat
  atsInval : List AtsInval
  deriving DecidableEq, Repr

/-- What the part or the outside does next. -/
inductive Move where
  | event (i : Instr) (a : Arg)
  /-- The gang issues its next instruction (R28). -/
  | issue (g : GangRef)
  /-- A line's clean copy is brought into a cache: level 1 or 2, unit, a place in it, class, key (R121). -/
  | fill (level : Nat) (unit : Nat) (loc : Loc) (cls : Cls) (key : Key)
  /-- A line leaves a cache: its dirty bytes go one level on (R121). -/
  | spill (level : Nat) (unit : Nat) (loc : Loc)
  /-- A host maps a page for ATS, or unmaps it (R394). -/
  | hostMap (entry : Ats) (present : Bool)
  /-- A host's requests come over another link (R386, R392). -/
  | onLink (link : BitVec 2)
  /-- A host reads some bytes of a function's register page (R389). -/
  | registerRead (fn : BitVec 7) (off n : Nat)
  /-- A downstream device poisons a line, or mends it (R397). -/
  | poison (line : Nat) (on : Bool)
  /-- While an invalidation is in progress, an asker uses a page's old translation or walks afresh (R379). -/
  | walkAfresh (asker page : Nat) (on : Bool)
  /-- The application cores' operating system has the management core extend a measurement register (R429). -/
  | measure (index : BitVec 5) (value : List Byte)
  /-- Clocks pass on every counter. -/
  | time (n : Nat)
  deriving DecidableEq, Repr

structure State where
  dev : Dev
  m : Mach
  /-- The moves that come next, first one first. -/
  agenda : List Move
  /-- The gang whose instruction `exec` runs. -/
  cur : Option GangRef
  /-- The operands of the step that `exec` runs. -/
  arg : Arg
  /-- The gang that issued last, by crew and gang, in the fixed order of an empty agenda (log entry 2). -/
  turn : Nat × Nat
  deriving DecidableEq, Repr

/-! ### Reset -/

def FnRec.reset (fn : Nat) : FnRec :=
  { fn := fn, tdisp := .unlocked, world := if fn = 0 then .open else .none, tenant := 0, period := 0
    secret := none, session := false, ideSecure := 0, keyExchange := false, reply := [], scrub := none }

def BootWord.reset : BootWord := ⟨0, 0, 0, false, false⟩

/-- Memory, caches, engines, queues and the rest as power-on leaves them (R345, R434, R437; log entries 3 and 4). -/
def Mach.reset : Mach :=
  { hbm := [], host := [], pmem := [], durable := [], pnames := [], scratch := [], scratchCtx := [], gauges := [], accs := []
    l1 := [], l2 := [], tiles := [], sslots := [], posts := [], crews := [], ctxs := [], tlb := [], hostMaps := [], ats := []
    faults := [], rings := [], invals := [], queues := [], launches := [], fabOut := [], inMsgs := [], tokens := [], notices := []
    peers := [], missed := [], persist := [], irqs := [], clocks := [], dclock := 0, afresh := [], closed := [], zeroWords := [], shares := []
    hostRead := [], lastServed := (0, 0)
    lastQueue := [], nextToken := 1, nextId := 1 }

/-- The management state as power-on leaves it; the boot store keeps its first-ever zeros (log entry 3). -/
def Dev.reset : Dev :=
  { boot := List.replicate 6 .reset, bootStep := 1, started := false, failedSteps := [], halted := false, powered := true
    nodeStore := 0, node := 0, inReset := false, cap := 15000, halvedCap := false, withholding := false
    ms := List.replicate 32 (List.replicate 32 0), fns := [], queueTable := 0, fnTable := 0, faultTable := 0
    apertures := List.replicate 96 0, msix := [], retiredStacks := [], deadCores := [], deadAppCores := [], deadXDies := []
    hostLinks := List.replicate 4 false, linkIde := List.replicate 4 false, link := 0
    ports := List.replicate 64 false, downPorts := List.replicate 4 false, downCapacity := List.replicate 4 0, poison := []
    atsInval := [] }

/-- The machine right after power-on (R434): nothing queued, nothing on the agenda, boot step 1 to come (R431). -/
def State.reset : State := { dev := .reset, m := .reset, agenda := [], cur := none, arg := .none, turn := (0, 0) }

end Sys2Proof.Machine
end

