-- ==== Sys2Proof/Machine/Memory.lean ====
section
/-! DEFINITION. Bytes and words of memory in its canonical form, the HBM under its keys (R420), the physical HBM windows
(R363), and the caches of a core and a cluster with the points of coherence (R101, R120 to R126). -/

namespace Sys2Proof.Machine

/-! ### Memory -/

/-- The byte at an address; one not listed reads 0 (log entry 4). -/
def Memory.read : Memory → Nat → Byte
  | [], _ => 0
  | c :: t, a => if c.1 = a then c.2 else Memory.read t a

/-- A byte written, keeping the canonical form: writing 0 removes the entry. -/
def Memory.write : Memory → Nat → Byte → Memory
  | [], a, b => if b = 0 then [] else [(a, b)]
  | c :: t, a, b =>
    if a < c.1 then (if b = 0 then c :: t else (a, b) :: c :: t)
    else if a = c.1 then (if b = 0 then t else (a, b) :: t)
    else c :: Memory.write t a b

/-- Every address above `lo`, strictly rising, and no entry 0. -/
def Memory.above : Nat → Memory → Bool
  | _, [] => true
  | lo, c :: t => decide (lo ≤ c.1) && c.2 != 0 && Memory.above (c.1 + 1) t

/-- The canonical form of a memory. -/
def Memory.wf (m : Memory) : Bool := Memory.above 0 m

/-- `n` bytes from an address, lowest first. -/
def Memory.bytes (m : Memory) (a n : Nat) : List Byte := (List.range n).map fun i => m.read (a + i)

/-- Bytes written from an address, lowest first. -/
def Memory.writeBytes (m : Memory) : Nat → List Byte → Memory
  | _, [] => m
  | a, b :: t => Memory.writeBytes (m.write a b) (a + 1) t

/-- Bytes as a number, little-endian (R47). -/
def leNat : List Byte → Nat
  | [] => 0
  | b :: t => b.toNat + 256 * leNat t

/-- The `n` bytes of a number, little-endian. -/
def leBytes : Nat → Nat → List Byte
  | 0, _ => []
  | n + 1, v => BitVec.ofNat 8 v :: leBytes n (v / 256)

/-- Words kept by index; 0 where not listed. -/
def wordAt : List (Nat × Word) → Nat → Word
  | [], _ => 0
  | c :: t, a => if c.1 = a then c.2 else wordAt t a

def setWordAt : List (Nat × Word) → Nat → Word → List (Nat × Word)
  | [], a, b => if b = 0 then [] else [(a, b)]
  | c :: t, a, b =>
    if a < c.1 then (if b = 0 then c :: t else (a, b) :: c :: t)
    else if a = c.1 then (if b = 0 then t else (a, b) :: t)
    else c :: setWordAt t a b

/-- The value of a key in a list of pairs. -/
def lookupD {α : Type} (l : List (Nat × α)) (k : Nat) (d : α) : α :=
  match l.find? fun p => p.1 == k with
  | some p => p.2
  | none => d

/-- An item put in the place of the first that a test names, or at the end. -/
def putBy {α : Type} (p : α → Bool) (x : α) : List α → List α
  | [] => [x]
  | y :: t => if p y then x :: t else y :: putBy p x t

/-- A key's value replaced. -/
def assign {α : Type} (l : List (Nat × α)) (k : Nat) (v : α) : List (Nat × α) :=
  putBy (fun p => p.1 == k) (k, v) l

/-! ### Keys (R416) -/

def keyString : String := "Shatex key tree"

/-- A tenant key; it comes from the root in the fuses. -/
def tenantKey (tenant : Nat) : List Byte := Config.kmac256 Config.fusedRoot (0x54 :: leBytes 8 tenant) 256 keyString

/-- A period key, from a tenant key or, for the fabric, from a fabric secret. -/
def periodKey (level1 : List Byte) (period : Nat) : List Byte := Config.kmac256 level1 (0x50 :: leBytes 4 period) 256 keyString

/-- A purpose key by purpose, compartment and key id, one byte each. -/
def purposeKey (level2 : List Byte) (purpose comp kid : Nat) : List Byte :=
  Config.kmac256 level2 (leBytes 1 purpose ++ leBytes 1 comp ++ leBytes 1 kid) 256 keyString

/-- The number of a world of a tenant and period; world 0 is the physical function's (R417, R420). -/
def worldOf (tenant period : Nat) : Nat := 1 + tenant * 2 ^ 32 + period

/-- The number that stands for the world of a function without one. -/
def noWorld (fn : Nat) : Nat := worldOf (2 ^ 64 + fn) 0

/-- The memory key of a world and compartment: purpose 1, key id 0 (R416). -/
def Key.memory (k : Key) : List Byte :=
  let tenant := (k.world - 1) / 2 ^ 32
  if 2 ^ 64 ≤ tenant then Config.noWorldKey (tenant - 2 ^ 64)
  else purposeKey (periodKey (tenantKey tenant) ((k.world - 1) % 2 ^ 32)) 1 k.comp 0

/-- The 16-byte blocks of a data unit mapped one by one, from block `j`; the number bounds them. -/
def blocks (f : Nat → List Byte → List Byte) : Nat → Nat → List Byte → List Byte
  | 0, _, _ => []
  | n + 1, j, l => f j (l.take 16) ++ blocks f n (j + 1) (l.drop 16)

/-- One block of a data unit encrypted and decrypted. -/
def blockEncrypt (key : List Byte) (u j : Nat) (plain : List Byte) : List Byte := (Config.xts key u j plain.length ⟨plain, rfl⟩).1
def blockDecrypt (key : List Byte) (u j : Nat) (cipher : List Byte) : List Byte :=
  ((Config.xts key u j cipher.length).symm ⟨cipher, rfl⟩).1

/-- A data unit, or the first blocks of one, encrypted and decrypted under its number (R420, R421). -/
def unitEncrypt (key : List Byte) (u : Nat) (plain : List Byte) : List Byte := blocks (blockEncrypt key u) ((plain.length + 15) / 16) 0 plain
def unitDecrypt (key : List Byte) (u : Nat) (cipher : List Byte) : List Byte := blocks (blockDecrypt key u) ((cipher.length + 15) / 16) 0 cipher

/-! ### HBM -/

/-- The linear address of a physical HBM address in any of the three windows (R363). -/
def hbmLinear (pa : Nat) : Option Nat :=
  if pa < Config.hbmBytes then some pa
  else if Config.win4k ≤ pa ∧ pa < Config.win4k + Config.hbmBytes then
    let q := pa - Config.win4k
    some (q / 4096 % 48 * Config.stackBytes + q / 4096 / 48 * 4096 + q % 4096)
  else if Config.win2m ≤ pa ∧ pa < Config.win2m + Config.hbmBytes then
    let q := pa - Config.win2m
    some (q / 2 ^ 21 % 48 * Config.stackBytes + q / 2 ^ 21 / 48 * 2 ^ 21 + q % 2 ^ 21)
  else none

/-- The stack, and so the home basin, of a linear address (R102, R363). -/
def hbmStack (q : Nat) : Nat := q / Config.stackBytes

def Key.zero : Key := ⟨0, 0⟩

/-- A line as its stack holds it. -/
def Mach.stackLine (m : Mach) (line : Nat) : List Byte := m.hbm.bytes (128 * line) 128

/-- A line as the memory-side cache holds it under a key: decrypted with its linear address divided by 16 as the tweak; the lines of
world 0 pass unencrypted (R420). -/
def Mach.plainLine (m : Mach) (k : Key) (line : Nat) : List Byte :=
  if k.world = 0 then m.stackLine line else unitDecrypt k.memory (128 * line / 16) (m.stackLine line)

/-- An HBM byte read under a key (R420). -/
def Mach.hbmRead (m : Mach) (k : Key) (q : Nat) : Byte :=
  if k.world = 0 then m.hbm.read q else (m.plainLine k (q / 128)).getD (q % 128) 0

/-- An HBM byte written under a key: its line is read and written back under that key (R420). -/
def Mach.hbmWrite (m : Mach) (k : Key) (q : Nat) (b : Byte) : Mach :=
  if k.world = 0 then { m with hbm := m.hbm.write q b }
  else
    let line := q / 128
    { m with hbm := m.hbm.writeBytes (128 * line) (unitEncrypt k.memory (128 * line / 16) ((m.plainLine k line).set (q % 128) b)) }

/-! ### Places -/

/-- A register line reached through the chip window or a copy (R114, R116): core × 2^21 + slot × 1024 + 4k + byte. -/
def Mach.regRead (m : Mach) (a : Nat) : Byte :=
  let core := a / 2 ^ 21
  let slot := a % 2 ^ 21 / 1024
  let k := a % 1024 / 4
  match m.crews.find? fun c => c.core == core && c.slotBase ≤ slot && slot < c.slotBase + c.limit with
  | some c =>
    match c.fibres.find? fun f => f.slot + c.slotBase == slot with
    | some f => BitVec.ofNat 8 ((f.regs.getD k 0).toNat / 256 ^ (a % 4))
    | none => 0
  | none => 0

/-- One byte of a word replaced. -/
def setByte (w : Word) (i : Nat) (b : Byte) : Word :=
  BitVec.ofNat 32 (w.toNat - w.toNat / 256 ^ i % 256 * 256 ^ i + b.toNat * 256 ^ i)

/-- Offset of the register lines in a crew image of a fibre limit (R359). -/
def linesOffset (limit : Nat) : Nat := (0xB000 + 128 * limit + 4095) / 4096 * 4096

/-- A register byte of a fibre written; while its crew is pre-empted the register line in the crew image takes it too (R359). -/
def Mach.regWrite (m : Mach) (key : Key) (a : Nat) (b : Byte) : Mach :=
  let core := a / 2 ^ 21
  let slot := a % 2 ^ 21 / 1024
  let k := a % 1024 / 4
  let away := m.crews.find? fun c => c.preempted && c.core == core && c.slotBase ≤ slot && slot < c.slotBase + c.limit
  let m := match away with
    | some c => m.hbmWrite key (c.image + linesOffset c.limit + 4 * c.nregs * (slot - c.slotBase) + a % 1024) b
    | none => m
  { m with crews := m.crews.map fun c =>
      if c.core == core && c.slotBase ≤ slot && slot < c.slotBase + c.limit then
        { c with fibres := c.fibres.map fun f =>
            if f.slot + c.slotBase == slot then { f with regs := f.regs.modify k fun w => setByte w (a % 4) b } else f }
      else c }

/-- Index in `accs` of a tile element (R266). -/
def accIndex (core acc row col : Nat) : Nat := core * 2 ^ 14 + acc * 2 ^ 12 + row * 128 + col

/-- A tile's status word (R267); `busy` is computed from the reservation table. -/
def Tile.word (t : Tile) (busy : Bool) : Nat :=
  t.step + 2 ^ 8 * t.steps + 2 ^ 27 * b2n t.bound + 2 ^ 28 * b2n t.int + 2 ^ 29 * b2n t.pair + 2 ^ 30 * b2n t.stopped
    + 2 ^ 31 * b2n busy + 2 ^ 32 * t.sat

def Tile.none (core n : Nat) : Tile := ⟨core, n, 0, 0, false, false, false, false, 0, 0⟩

def Mach.tile (m : Mach) (core n : Nat) : Tile :=
  (m.tiles.find? fun t => t.core == core && t.n == n).getD (Tile.none core n)

def Mach.setTile (m : Mach) (t : Tile) : Mach :=
  { m with tiles := putBy (fun u => u.core == t.core && u.n == t.n) t m.tiles }

/-- Whether a post of the reservation table names the tile: on its own core, or on its partner's in pair mode (R277). -/
def Mach.tileBusy (m : Mach) (core n : Nat) : Bool :=
  m.posts.any fun p => p.acc == some n && (p.core == core || (p.pair && Nat.xor p.core 1 == core))

def Mach.statusWord (m : Mach) (core n : Nat) : Nat := (m.tile core n).word (m.tileBusy core n)

/-- The byte held at a place's home (R120), read under a key. -/
def Mach.homeRead (m : Mach) (k : Key) (l : Loc) : Byte :=
  match l.space with
  | .hbm => m.hbmRead k l.addr
  | .host => m.host.read l.addr
  | .pmem => m.pmem.read l.addr
  | .scr => m.scratch.read l.addr
  | .acc => BitVec.ofNat 8 ((wordAt m.accs (l.addr / 4)).toNat / 256 ^ (l.addr % 4))
  | .status => BitVec.ofNat 8 (m.statusWord (l.addr / 32) (l.addr % 32 / 8) / 256 ^ (l.addr % 8))
  | .reg => m.regRead l.addr
  | .fab => 0

/-- A scratchpad byte written. The last byte of a gauge holds its valid bit and its reserved bits: storing 0 in valid has the
effect of GFREE, and the reserved bits are stored as 0 (R109, R113). -/
def Mach.scratchWrite (m : Mach) (a : Nat) (b : Byte) : Mach :=
  let g := a / 16 * 16
  if a % 16 = 15 ∧ m.gauges.contains g then
    if b.toNat < 128 then
      { m with scratch := m.scratch.writeBytes g (List.replicate 16 0), gauges := m.gauges.filter fun x => x != g }
    else { m with scratch := m.scratch.write a (b &&& 0xF0) }
  else { m with scratch := m.scratch.write a b }

/-- A byte written at a place's home. -/
def Mach.homeWrite (m : Mach) (k : Key) (l : Loc) (b : Byte) : Mach :=
  match l.space with
  | .hbm => m.hbmWrite k l.addr b
  | .host => { m with host := m.host.write l.addr b }
  | .pmem => { m with pmem := m.pmem.write l.addr b }
  | .scr => m.scratchWrite l.addr b
  | .acc => { m with accs := setWordAt m.accs (l.addr / 4) (setByte (wordAt m.accs (l.addr / 4)) (l.addr % 4) b) }
  | .status | .fab => m
  | .reg => m.regWrite k l.addr b

/-! ### Caches -/

/-- Spaces that the L1 and the L2 slice hold (R101); scratchpad and the chip window are never cached (R102, R117). -/
def Loc.cached (l : Loc) : Bool :=
  match l.space with
  | .hbm | .host | .pmem | .fab => true
  | _ => false

/-- The place of a byte behind a fabric address. -/
def fabLoc (node rkey off : Nat) : Loc := ⟨.fab, (node * 2 ^ 32 + rkey) * 2 ^ 40 + off⟩

/-- Whether two places lie in one line of 128 bytes (R101). -/
def Loc.sameLine (a b : Loc) : Bool := a.space == b.space && a.addr / 128 == b.addr / 128

/-- The places of a line. -/
def Loc.line (l : Loc) : List Loc := (List.range 128).map fun i => ⟨l.space, l.addr / 128 * 128 + i⟩

def copyOf (l : List Copy) (unit : Nat) (loc : Loc) : Option Copy := l.find? fun c => c.unit == unit && c.loc == loc

def dropCopy (l : List Copy) (unit : Nat) (loc : Loc) : List Copy := l.filter fun c => !(c.unit == unit && c.loc == loc)

/-- A dirty L2 byte written to its home, and the copy dropped. No cache holds a byte of the chip (R102, R117). -/
def Mach.spillL2 (m : Mach) (cluster : Nat) (loc : Loc) : Mach :=
  match copyOf m.l2 cluster loc with
  | none => m
  | some c =>
    let m' := { m with l2 := dropCopy m.l2 cluster loc }
    if c.dirty && loc.cached then m'.homeWrite c.key loc c.val else m'

/-- The bytes of a line that a unit holds. -/
def heldOf (l : List Copy) (unit : Nat) (loc : Loc) : List Loc :=
  (l.filter fun c => c.unit == unit && c.loc.sameLine loc).map (·.loc)

/-- A line leaves an L2 slice whole, in one event, so that no access ever meets half of a write (R129). -/
def Mach.spillLine2 (m : Mach) (cluster : Nat) (loc : Loc) : Mach :=
  (heldOf m.l2 cluster loc).foldl (fun m l => m.spillL2 cluster l) m

/-- Whether a unit holds a line of a place under another key than an access's: the access never hits it (R420). -/
def foreign (l : List Copy) (unit : Nat) (k : Key) (loc : Loc) : Bool :=
  l.any fun c => c.unit == unit && c.loc.sameLine loc && c.key != k

/-- A line that an L2 slice holds under another key is written back before an access under this one (R420). -/
def Mach.ownL2 (m : Mach) (cluster : Nat) (k : Key) (loc : Loc) : Mach :=
  if foreign m.l2 cluster k loc then m.spillLine2 cluster loc else m

/-- A byte put into the L2 slice. -/
def Mach.putL2 (m : Mach) (c : Copy) : Mach :=
  let m' := m.ownL2 c.unit c.key c.loc
  { m' with l2 := c :: dropCopy m'.l2 c.unit c.loc }

/-- A dirty L1 byte moved to the cluster's L2 slice, and the copy dropped. -/
def Mach.spillL1 (m : Mach) (core : Nat) (loc : Loc) : Mach :=
  match copyOf m.l1 core loc with
  | none => m
  | some c =>
    let m' := { m with l1 := dropCopy m.l1 core loc }
    if c.dirty then m'.putL2 { c with unit := core / 4 } else m'

/-- A line leaves an L1 whole, in one event (R129). -/
def Mach.spillLine1 (m : Mach) (core : Nat) (loc : Loc) : Mach :=
  (heldOf m.l1 core loc).foldl (fun m l => m.spillL1 core l) m

/-- A line that an L1 holds under another key is written back before an access under this one (R420). -/
def Mach.ownL1 (m : Mach) (core : Nat) (k : Key) (loc : Loc) : Mach :=
  if foreign m.l1 core k loc then m.spillLine1 core loc else m

def Mach.putL1 (m : Mach) (c : Copy) : Mach :=
  let m' := m.ownL1 c.unit c.key c.loc
  { m' with l1 := c :: dropCopy m'.l1 c.unit c.loc }

/-- The point of an agent scope: 1 the L1, 2 the L2 slice, 3 home (R120; the memory-side cache is one with home). -/
def pointOf (scope : Nat) : Nat := if scope ≤ 1 then 1 else if scope = 2 then 2 else 3

/-- The line of a byte leaves the caches below a point, so that an access is performed at the point (R121). -/
def Mach.raise (m : Mach) (core pt : Nat) (loc : Loc) : Mach :=
  if !loc.cached || pt ≤ 1 then m
  else
    let m1 := m.spillLine1 core loc
    if pt = 2 || loc.space == .fab then m1 else m1.spillLine2 (core / 4) loc

/-- What a read by a core sees in the L2 slice or beyond it: a line under another key is first written back (R420). -/
def Mach.peek2 (m : Mach) (core pt : Nat) (k : Key) (loc : Loc) : Byte :=
  if 2 < pt then m.homeRead k loc
  else
    let m' := m.ownL2 (core / 4) k loc
    match copyOf m'.l2 (core / 4) loc with
    | some c => c.val
    | none => m'.homeRead k loc

/-- What a read by a core sees at or above a point, without changing anything. -/
def Mach.peek (m : Mach) (core pt : Nat) (k : Key) (loc : Loc) : Byte :=
  if !loc.cached then m.homeRead k loc
  else if 1 < pt then m.peek2 core pt k loc
  else
    let m' := m.ownL1 core k loc
    match copyOf m'.l1 core loc with
    | some c => c.val
    | none => m'.peek2 core pt k loc

/-- Clean copies that a core could read of some lines are dropped where they were brought in for another class: an access of
a class is served only by copies that its own acquires discard (R126). -/
def Mach.reclass (m : Mach) (core : Nat) (cls : Cls) (locs : List Loc) : Mach :=
  let stale := fun (unit : Nat) (c : Copy) => c.unit == unit && !c.dirty && c.cls != cls && locs.any c.loc.sameLine
  { m with l1 := m.l1.filter fun c => !stale core c, l2 := m.l2.filter fun c => !stale (core / 4) c }

/-- The bytes of a vector access of a class brought to the point of a scope (R121, R123): the lines below the point go first.
Nothing happens to places that no cache holds. -/
def Mach.raiseAll (m : Mach) (core scope : Nat) (cls : Cls) (locs : List Loc) : Mach :=
  if locs.all fun l => !l.cached then m
  else (if scope ≤ 1 then m else locs.foldl (fun m l => m.raise core (pointOf scope) l) m).reclass core cls locs

/-- A byte of a vector store performed at the point of a scope (R121): in the L1 for a plain store. -/
def Mach.performByte (m : Mach) (core scope : Nat) (cls : Cls) (k : Key) (loc : Loc) (b : Byte) : Mach :=
  if !loc.cached then m.homeWrite k loc b
  else
    match pointOf scope with
    | 1 => m.putL1 ⟨core, loc, b, true, cls, k⟩
    | 2 => (m.raise core 2 loc).putL2 ⟨core / 4, loc, b, true, cls, k⟩
    | _ => (m.raise core 3 loc).homeWrite k loc b

def Cls.bit : Cls → Nat
  | .s => 0 | .g => 1 | .n => 2 | .h => 3 | .f => 4 | .p => 5

/-- Whether a storage scope names a class (R118). -/
def storHas (stor : Nat) (c : Cls) : Bool := bitOf stor c.bit

/-- Whether a request writes fabric bytes for a fibre: a vector store or an atomic. -/
def FabOut.isWrite (o : FabOut) : Bool :=
  match o.kind with
  | .store | .atomic .. => true
  | _ => false

/-- Whether a request covers a fabric byte. -/
def FabOut.covers (o : FabOut) (loc : Loc) : Bool :=
  loc.space == .fab && decide ((fabLoc o.node o.rkey o.off).addr ≤ loc.addr)
    && decide (loc.addr < (fabLoc o.node o.rkey o.off).addr + o.len)

/-- Whether a write of the cluster to a fabric byte is on its way to the byte's owner: its copy in the L2 slice then stays
as a dirty one does (R125, R126, R136). -/
def Mach.onItsWay (m : Mach) (cluster : Nat) (loc : Loc) : Bool :=
  m.fabOut.any fun o => o.isWrite && o.core / 4 == cluster && o.covers loc

/-- Bytes of loads in flight of a cluster, where they cover one of some fabric bytes, are kept in no cache: a newer value, or
an acquire, has come in between (R123, R126). -/
def Mach.noFill (m : Mach) (cluster : Nat) (hit : FabOut → Bool) : Mach :=
  { m with fabOut := m.fabOut.map fun o => if o.fill != 0 && o.core / 4 == cluster && hit o then { o with fill := 0 } else o }

/-- Step 2 of a release (R125): the lines with dirty bytes of the core, and at bas and above those of its cluster, are performed at
the point of the scope and leave the caches below it, clean bytes too (R129). The model writes back every dirty byte, which R125
permits (log entry 13). -/
def Mach.writeBack (m : Mach) (core scope : Nat) : Mach :=
  if scope ≤ 1 then m
  else
    let m1 := ((m.l1.filter fun c => c.unit == core && c.dirty).map (·.loc)).foldl (fun m l => m.spillLine1 core l) m
    if scope = 2 then m1
    else ((m1.l2.filter fun c => c.unit == core / 4 && c.dirty).map (·.loc)).foldl (fun m l => m.spillLine2 (core / 4) l) m1

/-- The discard of an acquire (R126): clean copies below the point, of the classes its storage scope names. -/
def Mach.discard (m : Mach) (core scope stor : Nat) : Mach :=
  let m1 := if storHas stor .f && 2 ≤ scope then m.noFill (core / 4) fun _ => true else m
  { m1 with
    l1 := if scope ≤ 1 then m.l1 else m.l1.filter fun c => c.unit != core || c.dirty || !storHas stor c.cls
    l2 := if scope ≤ 2 then m.l2
      else m.l2.filter fun c => c.unit != core / 4 || c.dirty || m.onItsWay c.unit c.loc || !storHas stor c.cls }

/-- A byte that the part itself writes for a program to find: at home, with every cached copy of it gone, and of its line the clean
ones (R129). -/
def Mach.partWrite (m : Mach) (k : Key) (loc : Loc) (b : Byte) : Mach :=
  let stays := fun (c : Copy) => !c.loc.sameLine loc || (c.dirty && c.loc != loc)
  ({ m with l1 := m.l1.filter stays, l2 := m.l2.filter stays }).homeWrite k loc b

def Mach.partWriteBytes (m : Mach) (k : Key) (sp : Space) : Nat → List Byte → Mach
  | _, [] => m
  | a, b :: t => Mach.partWriteBytes (m.partWrite k ⟨sp, a⟩ b) k sp (a + 1) t

/-- Every dirty copy of every core and cluster written back (R334). -/
def Mach.writeBackAll (m : Mach) : Mach :=
  let m1 := ((m.l1.filter (·.dirty)).map fun c => (c.unit, c.loc)).foldl (fun m p => m.spillLine1 p.1 p.2) m
  ((m1.l2.filter (·.dirty)).map fun c => (c.unit, c.loc)).foldl (fun m p => m.spillLine2 p.1 p.2) m1

end Sys2Proof.Machine
end

