-- ==== Sys2Proof/Machine/Translate.lean ====
section
/-! DEFINITION. Translation: range entries, the page table, host and downstream addresses (R363 to R373, R394, R396), the
chip window (R114, R115), buffer records (R167, R168), and the checks of one address in the order of R231. -/

namespace Sys2Proof.Machine

/-! ### Functions, worlds and contexts -/

def Dev.fnRec (d : Dev) (fn : Nat) : FnRec := (d.fns.find? fun r => r.fn == fn).getD (.reset fn)

def Dev.setFn (d : Dev) (r : FnRec) : Dev := { d with fns := putBy (fun x => x.fn == r.fn) r d.fns }

/-- Whether a link's traffic of a function has a stream in its secure state: the function's own, or the link's (R392, R393; log
entry 35). -/
def Dev.secureOn (d : Dev) (fn link : Nat) : Bool := (d.fnRec fn).ideSecure.getLsbD link || d.linkIde.getD link false

/-- The part answers a function's requests on a link that has trained (R386), and those of a virtual function in RUN only where
its stream is secure (R392). -/
def Dev.answers (d : Dev) (fn : Nat) : Bool :=
  decide (fn ≤ 96) && d.hostLinks.getD d.link false && ((d.fnRec fn).tdisp != .run || d.secureOn fn d.link)

/-- The 16 application cores run once boot step 6 has started them, as long as one is in service (R2, R431). -/
def Dev.appUp (d : Dev) : Bool :=
  d.powered && !d.halted && !d.inReset && decide (6 < d.bootStep) && (List.range 16).any fun c => !d.deadAppCores.contains c

/-- Whether a packet for a node has a port to leave on (R398). -/
def Dev.canSend (d : Dev) (node : Nat) : Bool := if 128 ≤ node then d.ports.getD (node - 128) false else d.ports.contains true

/-- Whether the part's own requests to hosts have a link to leave on (R386). -/
def Dev.hostUp (d : Dev) : Bool := d.hostLinks.contains true

/-- The name of a function's world: 0 for the PF, else from tenant and period, which select its keys (R416, R417); a function
without a world has no key of any tenant. -/
def Dev.world (d : Dev) (fn : Nat) : Nat :=
  let r := d.fnRec fn
  if fn = 0 then 0 else if r.world = .none then noWorld fn else worldOf r.tenant r.period

/-- The key under which a context's own accesses reach HBM (R420). -/
def Ctx.key (x : Ctx) (d : Dev) : Key := ⟨d.world x.fn, x.comp⟩

/-- The key under which the part reads what system software wrote for a function: its world, compartment 0 (R420). -/
def Dev.fnKey (d : Dev) (fn : Nat) : Key := ⟨d.world fn, 0⟩

def Ctx.blank (addr fn : Nat) : Ctx :=
  { addr := addr, fn := fn, loaded := false, malformed := false, ortMalformed := false, ort := 0, imageBase := 0, imageLimit := 0
    ring := 0, root := 0, ranges := [], rangesMalformed := false, fabric := 0, eventRing := 0, comp := 0, serial := 0
    slots := [], pool := [], held := false, asker := 0 }

def Mach.ctx (m : Mach) (addr : Nat) : Ctx := (m.ctxs.find? fun x => x.addr == addr).getD (Ctx.blank addr 0)

def Mach.setCtx (m : Mach) (x : Ctx) : Mach := { m with ctxs := putBy (fun y => y.addr == x.addr) x m.ctxs }

/-- A little-endian value at a physical HBM address, read at dev (R353, R372); 0 outside the windows. -/
def Mach.physNat (m : Mach) (k : Key) (pa n : Nat) : Nat :=
  leNat ((List.range n).map fun i => match hbmLinear (pa + i) with | some q => m.hbmRead k q | none => 0)

def Mach.physWrite (m : Mach) (k : Key) : Nat → List Byte → Mach
  | _, [] => m
  | pa, b :: t =>
    Mach.physWrite (match hbmLinear pa with | some q => m.partWrite k ⟨.hbm, q⟩ b | none => m) k (pa + 1) t

/-! ### Translation -/

/-- A translated address with its attributes, how many bytes from it on lie together, and where its range entry starts (R365,
R422). -/
structure Xlate where
  loc : Loc
  room : Nat
  cls : Cls
  cipher : Bool
  keyId : Nat
  start : Option Nat
  /-- The host I/O page, for class H (R394). -/
  hostPage : Nat
  deriving DecidableEq, Repr

inductive XRes where
  | ok (x : Xlate)
  /-- Cause and level of R373, R374. -/
  | fault (cause level : Nat)
  /-- Offset in the chip window (R367). -/
  | window (off : Nat)
  deriving DecidableEq, Repr

/-- Whether the permissions given cover those needed: read 1, write 2, execute 4 (R371). -/
def permits (perm access : Nat) : Bool := perm &&& access == access

def pageOf (a : Nat) : Nat := a / 4096

/-- A host I/O address through ATS (R394): none where the host answers no mapping, or not this access, or no link is there to
ask it on (R386; log entry 66). A fetch of clause bytes reads. -/
def Mach.atsXlate (m : Mach) (d : Dev) (fn ha access : Nat) : Option Nat :=
  if !d.hostUp then none
  else
    match (m.ats ++ m.hostMaps).find? fun a =>
        a.fn == fn && a.page == pageOf ha && (!(permits access 1 || permits access 4) || a.read) && (!permits access 2 || a.write) with
    | some a => some (a.frame * 4096 + ha % 4096)
    | none => none

/-- The frame that ATS gives a host I/O page now, for a write or a read: an access that has not been sent yet translates again (R395). -/
def Mach.hostFrame (m : Mach) (fn page : Nat) (write : Bool) : Option Nat :=
  ((m.ats ++ m.hostMaps).find? fun a => a.fn == fn && a.page == page && if write then a.write else a.read).map (·.frame)

/-- An address in the space of a class code, 1 G, 3 H or 5 P (R364, R369, R394, R396). -/
def Mach.intoSpace (m : Mach) (d : Dev) (x : Ctx) (cls pa access level : Nat) (cipher : Bool) (keyId : Nat)
    (start : Option Nat) : XRes :=
  if cls = 1 then
    match hbmLinear pa with
    | some q => .ok ⟨⟨.hbm, q⟩, 4096 - pa % 4096, .g, cipher, keyId, start, 0⟩
    | none => .fault 3 level
  else if cls = 3 then
    match m.atsXlate d x.fn pa access with
    | some a => .ok ⟨⟨.host, a⟩, 4096 - pa % 4096, .h, cipher, keyId, start, pageOf pa⟩
    | none => .fault (if permits access 2 && (m.atsXlate d x.fn pa 2).isNone then 2 else 1) 0
  else
    let port := pa / 2 ^ 46 % 4
    let cap := d.downCapacity.getD port 0
    if pa < 2 ^ 48 ∧ pa % 2 ^ 46 < cap then
      .ok ⟨⟨.pmem, pa⟩, min (4096 - pa % 4096) (cap - pa % 2 ^ 46), .p, cipher, keyId, start, 0⟩
    else .fault 3 level

/-- Index of a level (R368). -/
def walkIndex (level va : Nat) : Nat := va / 2 ^ (12 + 9 * level) % 512

/-- A page found by a walk or in a translation cache. -/
structure Leaf where
  page : Nat
  size : Nat
  frame : Nat
  cls : Nat
  cipher : Bool
  perm : Nat
  keyId : Nat
  level : Nat
  deriving DecidableEq, Repr

inductive WalkRes where
  | leaf (l : Leaf)
  | fault (cause level : Nat)
  deriving DecidableEq, Repr

/-- The fields of a page table entry (R369). -/
def pteKind (e : Nat) : Nat := e / 2 ^ 62
def pteContig (e : Nat) : Bool := bitOf e 61
def pteFrame (e : Nat) : Nat := bitsOf e 47 12 * 4096
def pteClass (e : Nat) : Nat := bitsOf e 59 57

/-- A leaf at a level, the group of a contiguous hint included (R369, R370). -/
def Mach.walkLeaf (m : Mach) (k : Key) (table level va e : Nat) : WalkRes :=
  let sz := 2 ^ (12 + 9 * level)
  let okClass := pteClass e = 1 ∨ pteClass e = 3 ∨ pteClass e = 5
  if bitOf e 48 ∨ bitsOf e 11 3 ≠ 0 ∨ 3 ≤ level ∨ ¬ okClass ∨ pteFrame e % sz ≠ 0 ∨ (pteContig e ∧ level = 1) then
    .fault 3 level
  else if pteContig e then
    let n := if level = 0 then 16 else 64
    let e0 := m.physNat k (table + 8 * (walkIndex level va / n * n)) 8
    if pteKind e0 ≠ 2 ∨ !pteContig e0 ∨ pteFrame e0 % (sz * n) ≠ 0 ∨ bitOf e0 48 ∨ bitsOf e0 11 3 ≠ 0
        ∨ ¬ (pteClass e0 = 1 ∨ pteClass e0 = 3 ∨ pteClass e0 = 5) then .fault 3 level
    else .leaf ⟨va / (sz * n) * (sz * n), sz * n, pteFrame e0, pteClass e0, bitOf e0 60, e0 % 8, bitsOf e0 56 49, level⟩
  else .leaf ⟨va / sz * sz, sz, pteFrame e, pteClass e, bitOf e 60, e % 8, bitsOf e 56 49, level⟩

/-- The walk (R368, R369): the levels still to read, highest first. A table on a retired stack is TABLE_ERROR (R373). -/
def Mach.walk (m : Mach) (d : Dev) (k : Key) (va : Nat) : Nat → List Nat → WalkRes
  | _, [] => .fault 3 0
  | table, level :: rest =>
    match hbmLinear table with
    | none => .fault 3 level
    | some q =>
      if d.retiredStacks.contains (hbmStack q) then .fault 4 level
      else
        let e := m.physNat k (table + 8 * walkIndex level va) 8
        if pteKind e = 0 then .fault (if pteContig e ∨ bitOf e 48 ∨ bitsOf e 11 3 ≠ 0 then 3 else 1) level
        else if pteKind e = 1 then
          if level = 0 ∨ bitsOf e 61 48 ≠ 0 ∨ e % 4096 ≠ 0 then .fault 3 level
          else Mach.walk m d k va (pteFrame e) rest
        else if pteKind e = 2 then m.walkLeaf k table level va e
        else .fault 3 level

/-- Fields of an invalidation descriptor (R378). -/
def invCompl (w : Nat) : Nat := bitsOf w 255 192
def invVa (w : Nat) : Nat := bitsOf w 191 128
def invPages (w : Nat) : Nat := bitsOf w 127 64
def invCtx (w : Nat) : Nat := 4096 * bitsOf w 63 19
def invTag (w : Nat) : Nat := bitsOf w 18 3

/-- Whether an invalidation names a translation. -/
def Tlb.hitBy (t : Tlb) (w : Nat) : Bool :=
  t.ctx == invCtx w && (invPages w == 0 || (decide (t.page < invVa w + 4096 * invPages w) && decide (invVa w < t.page + t.size)))

/-- Whether an asker walks afresh although the cache still holds a translation: only while an invalidation of it is in progress
(R379). -/
def Mach.passesOver (m : Mach) (asker : Nat) (t : Tlb) : Bool :=
  m.afresh.contains (asker, t.page) && m.invals.any fun v => v.ok && t.hitBy v.desc.toNat

/-- The leaf for an address: from the cluster's translation cache, or by a walk (R372). -/
def Mach.findLeaf (m : Mach) (d : Dev) (x : Ctx) (cluster va : Nat) : WalkRes :=
  match m.tlb.find? fun t =>
      t.cluster == cluster && t.ctx == x.addr && t.page ≤ va && va < t.page + t.size && !m.passesOver x.asker t with
  | some t => .leaf ⟨t.page, t.size, t.frame, t.cls, t.cipher, t.perm, t.keyId, t.level⟩
  | none => if x.root = 0 then .fault 1 7 else m.walk d (d.fnKey x.fn) va x.root [4, 3, 2, 1, 0]

/-- The placement window of a class-G range entry (R364). -/
def windowBase (placement : Nat) : Nat := if placement = 0 then 0 else if placement = 1 then Config.win4k else Config.win2m

/-- Translation of a device virtual address (R365 to R371). -/
def Mach.translate (m : Mach) (d : Dev) (x : Ctx) (cluster va access : Nat) : XRes :=
  if va < 4096 then .fault 1 7
  else
    match x.ranges.find? fun r => r.base ≤ va && va < r.limit with
    | some r =>
      if !permits r.perm access then .fault 2 7
      else if r.cls = 6 then .window (va - r.base)
      else m.intoSpace d x r.cls (r.target + (va - r.base) + if r.cls = 1 then windowBase r.placement else 0) access 7 r.cipher
        r.keyId (some r.base)
    | none =>
      match m.findLeaf d x cluster va with
      | .fault c l => .fault c l
      | .leaf l =>
        if !permits l.perm access then .fault 2 l.level
        else m.intoSpace d x l.cls (l.frame + (va - l.page)) access l.level l.cipher l.keyId none

/-- The lowest entry of some classes that holds a whole range with read and write permission; `same`: at equal addresses. -/
def Ctx.holder (x : Ctx) (classes : List Nat) (same : Bool) (a len : Nat) : Option Range :=
  x.ranges.find? fun r =>
    classes.contains r.cls && permits r.perm 3 && decide (r.base ≤ a) && decide (a + len ≤ r.limit)
      && (!same || (r.placement == 0 && r.target == r.base))

/-- A context reached through one entry alone, that which holds a range (R76, R354). -/
def Ctx.via (x : Ctx) (classes : List Nat) (a len : Nat) : Ctx :=
  match x.holder classes false a len with
  | some r => { x with ranges := [r], root := 0 }
  | none => x

/-! ### The chip window -/

/-- Whether a context may reach a place: on the chip, only what a crew of the context owns (R115, R437). -/
def Mach.owns (m : Mach) (ctx : Nat) (l : Loc) : Bool :=
  let tileOf := fun (core n : Nat) => (m.tile core n).bound && m.crews.any fun c => c.id == (m.tile core n).crew && c.ctx == ctx
  match l.space with
  | .scr =>
    let b := l.addr % 2 ^ 18
    m.crews.any fun c => c.ctx == ctx && c.core == l.addr / 2 ^ 18 && c.scrBase ≤ b && b < c.scrBase + c.scrSize
  | .acc => tileOf (l.addr / 2 ^ 16) (l.addr % 2 ^ 16 / 0x4000)
  | .status => tileOf (l.addr / 32) (l.addr % 32 / 8)
  | .reg =>
    let slot := l.addr % 2 ^ 21 / 1024
    m.crews.any fun c => c.ctx == ctx && c.core == l.addr / 2 ^ 21 && c.slotBase ≤ slot && slot < c.slotBase + c.limit
      && l.addr % 1024 < 4 * c.nregs
  | _ => true

/-- The place of a chip-window access whose every byte a crew of the context owns, or none where R115 refuses it: `write` for a store
or copy write, `engine` for the copy engine. -/
def Mach.windowLoc (m : Mach) (ctx off len : Nat) (write engine : Bool) : Option Loc :=
  let core := off / 2 ^ 22
  let o := off % 2 ^ 22
  let own := fun (l : Loc) => if (List.range len).all fun i => m.owns ctx ⟨l.space, l.addr + i⟩ then some l else none
  if o + len ≤ 0x40000 then own ⟨.scr, core * 2 ^ 18 + o⟩
  else if 0x100000 ≤ o ∧ o + len ≤ 0x110000 then own ⟨.acc, core * 2 ^ 16 + (o - 0x100000)⟩
  else if 0x110000 ≤ o ∧ o + len ≤ 0x110020 ∧ !write then own ⟨.status, core * 2 ^ 5 + (o - 0x110000)⟩
  else if 0x200000 ≤ o ∧ o + len ≤ 0x400000 ∧ write ∧ engine then own ⟨.reg, core * 2 ^ 21 + (o - 0x200000)⟩
  else none

/-! ### Ranges of bytes -/

inductive RunRes where
  | ok (runs : List Run)
  | fault (va cause level : Nat)
  /-- A chip-window access that R115 refuses. -/
  | window
  deriving DecidableEq, Repr

/-- The pieces of a kind-00 range, each within one page of the range and one page of the space it lies in: `pieces` bounds the
walk. -/
def Mach.runs (m : Mach) (d : Dev) (x : Ctx) (cluster access : Nat) (engine : Bool) : Nat → Nat → Nat → RunRes
  | 0, _, _ => .ok []
  | pieces + 1, va, len =>
    if len = 0 then .ok []
    else
      let n := min len (4096 - va % 4096)
      match m.translate d x cluster va access with
      | .fault c l => .fault va c l
      | .window off =>
        match m.windowLoc x.addr off n (permits access 2) engine with
        | none => .window
        | some loc =>
          match Mach.runs m d x cluster access engine pieces (va + n) (len - n) with
          | .ok r => .ok (⟨loc, n, .s, none, 0⟩ :: r)
          | e => e
      | .ok t =>
        let n := min n t.room
        match Mach.runs m d x cluster access engine pieces (va + n) (len - n) with
        | .ok r => .ok (⟨t.loc, n, t.cls, none, t.hostPage⟩ :: r)
        | e => e

/-- Pages a range touches. -/
def pagesOf (va len : Nat) : Nat := (va % 4096 + len + 4095) / 4096

def Mach.rangeRuns (m : Mach) (d : Dev) (x : Ctx) (cluster va len access : Nat) (engine : Bool) : RunRes :=
  m.runs d x cluster access engine (2 * pagesOf va len + 2) va len

/-- The places of the bytes of runs, lowest first. -/
def runLocs (l : List Run) : List Loc := l.flatMap fun r => (List.range r.len).map fun i => ⟨r.loc.space, r.loc.addr + i⟩

/-- A run of host bytes at the frame that its page has now. -/
def Run.again (m : Mach) (fn : Nat) (write : Bool) (r : Run) : Run :=
  if r.loc.space = .host then
    match m.hostFrame fn r.hostPage write with
    | some f => { r with loc := ⟨.host, f * 4096 + r.loc.addr % 4096⟩ }
    | none => r
  else r

/-- Whether a run's page has no such frame any more: its access waits until the host maps the page again (log entry 81). -/
def Mach.staleRun (m : Mach) (fn : Nat) (write : Bool) (r : Run) : Bool :=
  r.loc.space == .host && m.hostFrame fn r.hostPage write != some (r.loc.addr / 4096)

def Area.again (m : Mach) (fn : Nat) (write : Bool) (a : Area) : Area := { a with runs := a.runs.map (Run.again m fn write) }

/-- What a post reads, and what it writes. -/
def PostOp.reads : PostOp → List Run
  | .bld _ src _ _ _ tags => src.runs ++ tags
  | _ => []

def PostOp.writes : PostOp → List Run
  | .astore _ _ _ _ _ amax rows => (rows.flatMap Area.runs) ++ (amax.map Area.runs).getD []
  | .astz _ _ _ _ _ amax _ dst | .cvtq _ _ _ _ _ amax dst => dst.runs ++ (amax.map Area.runs).getD []
  | .dq _ dst => dst.runs
  | _ => []

/-- A post's host bytes translated again. -/
def PostOp.again (m : Mach) (fn : Nat) (o : PostOp) : PostOp :=
  let w := Area.again m fn true
  match o with
  | .bld desc src cipher keyId unit tags => .bld desc (src.again m fn false) cipher keyId unit (tags.map (Run.again m fn false))
  | .astore int otype rnd ftzo sat amax rows => .astore int otype rnd ftzo sat (amax.map w) (rows.map w)
  | .astz int otype rnd ftzo sat amax cap dst => .astz int otype rnd ftzo sat (amax.map w) cap (w dst)
  | .cvtq int fmt block qtype rnd amax dst => .cvtq int fmt block qtype rnd (amax.map w) (w dst)
  | .dq data dst => .dq data (w dst)
  | .mma .. | .bldFree | .azero .. => o

/-- Whether a context may still reach every place of some runs: an engine that found them at its instruction's issue looks again before
it reads or writes them (R115, R437). -/
def Mach.ownsRuns (m : Mach) (ctx : Nat) (l : List Run) : Bool := (runLocs l).all (m.owns ctx)

/-- The places that a post still reads or writes. -/
def PostOp.places (o : PostOp) : List Run := o.reads ++ o.writes

/-- The first `n` bytes after `k` of a list of runs. -/
def sliceRuns : List Run → Nat → Nat → List Run
  | [], _, _ => []
  | r :: t, k, n =>
    if n = 0 then []
    else if r.len ≤ k then sliceRuns t (k - r.len) n
    else
      let take := min n (r.len - k)
      { r with loc := ⟨r.loc.space, r.loc.addr + k⟩, len := take, fab := r.fab.map fun p => (p.1, p.2.1, p.2.2 + k) }
        :: sliceRuns t 0 (n - take)

/-- Whether a place is gone: a byte of a retired stack (R363). -/
def Dev.lost (d : Dev) (l : Loc) : Bool := l.space == .hbm && d.retiredStacks.contains (hbmStack l.addr)

/-- Whether a place cannot be read: a byte of a retired stack, of a port whose link is down, or one that the device answers with
poison or an error (R363, R397). -/
def Dev.unreadable (d : Dev) (l : Loc) : Bool :=
  match l.space with
  | .hbm => d.retiredStacks.contains (hbmStack l.addr)
  | .pmem => !d.downPorts.getD (l.addr / 2 ^ 46 % 4) false || d.poison.contains (l.addr / 64)
  | _ => false

/-! ### Records -/

/-- Kind of the base that a record's class needs (R167). -/
def recordKind (cls : Nat) : Option Nat :=
  if cls = 1 ∨ cls = 3 ∨ cls = 5 then some 0 else if cls = 4 then some 1 else if cls = 2 then some 2 else none

/-- Whether a record meets R167. -/
def recordOk (r : Nat) : Bool :=
  bitsOf r 255 192 == 0 && bitsOf r 127 105 == 0 && bitsOf r 63 16 == 0 && bitsOf r 7 5 == 0
    && recordKind (r % 8) == some (bitsOf r 191 190)

/-! ### One lane's address -/

/-- What an access needs. -/
structure Want where
  width : Nat
  /-- Read 1, write 2. -/
  access : Nat
  /-- Alignment required at step 3 of R231; 1 for none. -/
  align : Nat
  /-- The access may not name the chip window (R115). -/
  noWindow : Bool
  engine : Bool
  /-- A read that meets an uncorrectable memory error is a trap (R346); a write to a retired stack always is (R363). -/
  report : Bool
  deriving DecidableEq, Repr

/-- An access that has passed its checks. -/
structure Acc where
  runs : List Run
  cls : Cls
  cipher : Bool
  keyId : Nat
  /-- Device virtual address of the first byte, and the start of its object where one is known (R422). -/
  va : Nat
  start : Option Nat
  size : Nat
  /-- Slot and offset of an access through a short pointer. -/
  object : Option (Nat × Nat)
  /-- Node, rkey and offset of a kind-01 access. -/
  fab : Option (Nat × Nat × Nat)
  deriving DecidableEq, Repr

/-- An access of no bytes. -/
def Acc.none : Acc := ⟨[], .g, false, 0, 0, Option.none, 0, Option.none, Option.none⟩

inductive LaneRes where
  /-- The rank of the check in the order of R231, the trap code, and an address or word that the trap reports. -/
  | trap (rank code info : Nat)
  | fault (va cause level access : Nat)
  /-- An object that is not there: the slot, and the extent touched. -/
  | object (slot extent : Nat)
  /-- A slot whose size is wanted and not known (R92). -/
  | lookup (slot : Nat)
  | ok (a : Acc)
  deriving DecidableEq, Repr

def Ctx.slot (x : Ctx) (n : Nat) : Option Slot := x.slots.find? fun s => s.n == n && s.state != 0

/-- log2 of the slot count (R76). -/
def Ctx.slotLog (x : Ctx) : Nat := bitsOf x.ort.toNat 31 27

/-- The bound slot that a short pointer names: none at or beyond the slot count (R75, R239). -/
def Ctx.named (x : Ctx) (n : Nat) : Option Slot := if n < 2 ^ x.slotLog then x.slot n else none

/-- Objects over 64 MiB of class H or F are reached extent by extent (R84). -/
def Slot.large (s : Slot) : Bool := decide (2 ^ 26 < s.size) && s.cls != 0

def kindOf (a : Nat) : Nat := a / 2 ^ 62 % 4
def slotOf (a : Nat) : Nat := a / 2 ^ 40 % 2 ^ 22
def offsetOf (a : Nat) : Nat := a % 2 ^ 40
def nodeOf (a : Nat) : Nat := a / 2 ^ 54 % 256
def windowOf (a : Nat) : Nat := a / 2 ^ 40 % 2 ^ 14

/-- What a window entry gives. -/
inductive RkeyRes where
  | ok (rkey : Nat)
  /-- The entry or the descriptor does not allow the access. -/
  | bad
  /-- The entry's own address does not translate (R373), or cannot be read (R363, R397). -/
  | fault (va cause level : Nat)
  | unreadable
  deriving DecidableEq, Repr

/-- The rkey of a window entry of the context (R401), when the entry and the descriptor allow it. -/
def Mach.rkeyOf (m : Mach) (d : Dev) (x : Ctx) (cluster w : Nat) : RkeyRes :=
  let f := x.fabric.toNat
  if !bitOf f 0 ∨ 2 ^ bitsOf f 15 12 ≤ w then .bad
  else
    match m.rangeRuns d x cluster (bitsOf f 447 384 + 8 * w) 8 1 false with
    | .ok r =>
      if (runLocs r).any d.unreadable then .unreadable
      else
        let e := leNat ((runLocs r).map (m.homeRead (x.key d)))
        if bitOf e 63 then .ok (e % 2 ^ 32) else .bad
    | .window => .bad
    | .fault va c l => .fault va c l

/-- A translated range as the last step of a lane's checks, with the errors a re-execution carries (R376). -/
def Mach.finish (m : Mach) (d : Dev) (x : Ctx) (cluster : Nat) (w : Want) (errorPage : Option Nat) (va : Nat) (cls : Option Cls)
    (object : Option (Nat × Nat)) (attr : Option (Bool × Nat)) (start : Option Nat) (size : Nat) : LaneRes :=
  match m.rangeRuns d x cluster va w.width w.access w.engine with
  | .fault fva c l => if errorPage == some (pageOf fva) then .trap 50 12 0 else .fault fva c l w.access
  | .window => .trap 51 11 0
  | .ok runs =>
    if w.noWindow && runs.any (fun r => r.loc.space != .hbm && r.loc.space != .host && r.loc.space != .pmem) then .trap 51 11 0
    else if (permits w.access 2 && (runLocs runs).any d.lost) || (w.report && permits w.access 1 && (runLocs runs).any d.unreadable) then
      .trap 52 13 0
    else
      let t := m.translate d x cluster va w.access
      let (c, ci, ky, st) := match t with
        | .ok t => (t.cls, t.cipher, t.keyId, t.start)
        | _ => (Cls.s, false, 0, none)
      let (ci, ky) := attr.getD (ci, ky)
      .ok ⟨runs, cls.getD c, ci, ky, va, if start.isSome then start else st, size, object, none⟩

/-- Bytes of an object as its home stores it: with the tags of a ciphertext object behind it (R421). -/
def Slot.stored (s : Slot) : Nat := if s.cipher then (s.size + 511) / 512 * 520 else s.size

/-- Where a resident copy holds an offset of its object (R84). -/
def Slot.at_ (s : Slot) (off : Nat) : Option Nat :=
  if s.large then (s.extents.find? fun e => e.1 == off / 2 ^ 21).map fun e => e.2 + off % 2 ^ 21 else some (s.base + off)

/-- Two checked pieces of one range as one. -/
def LaneRes.append (a b : LaneRes) : LaneRes :=
  match a, b with
  | .ok x, .ok y => .ok { x with runs := x.runs ++ y.runs }
  | .ok _, r => r
  | r, _ => r

/-- Steps 2 to 5 of R231 for one address (R75, R84, R85, R234, R401, R415). A lane whose own lookup or fetch failed, and which finds the
slot RESIDENT by a later fetch when it re-executes, completes against that copy; in every other state it traps (log entry 82). -/
def Mach.deref (m : Mach) (d : Dev) (x : Ctx) (cluster : Nat) (carry : Carry) (w : Want) (a : Nat)
    (attr : Option (Bool × Nat)) (start : Option Nat) : LaneRes :=
  if kindOf a = 0 then
    if a / 2 ^ 57 % 32 ≠ 0 then .trap 20 4 0
    else if a % w.align ≠ 0 then .trap 30 5 0
    else m.finish d x cluster w carry.errorPage a none none attr start 0
  else if kindOf a = 1 then
    if 192 ≤ nodeOf a then .trap 20 4 0
    else
      match m.rkeyOf d x cluster (windowOf a) with
      | .bad => .trap 20 4 0
      | .unreadable => .trap 20 13 0
      | .fault va c l => if carry.errorPage == some (pageOf va) then .trap 20 12 0 else .fault va c l 1
      | .ok rk =>
        if a % w.align ≠ 0 then .trap 30 5 0
        else .ok ⟨[⟨fabLoc (nodeOf a) rk (offsetOf a), w.width, .f, some (nodeOf a, rk, offsetOf a), 0⟩], .f, (attr.getD (false, 0)).1, (attr.getD (false, 0)).2,
          a, start, 0, none, some (nodeOf a, rk, offsetOf a)⟩
  else if kindOf a = 3 then .trap 21 20 0
  else
    match x.named (slotOf a) with
    | none => .trap 22 16 0
    | some s =>
      if a % w.align ≠ 0 then .trap 30 5 0
      else if s.state = 1 then
        match carry.name with
        | some (n, code) => if n = s.n then .trap 42 code 0 else .object s.n (offsetOf a / 2 ^ 21)
        | none => .object s.n (offsetOf a / 2 ^ 21)
      else if s.size < offsetOf a + w.width then .trap 40 18 0
      else if permits w.access 2 && s.ro then .trap 41 19 0
      else if s.state ≠ 4 then
        match carry.name with
        | some (n, code) => if n = s.n then .trap 42 code 0 else .object s.n (offsetOf a / 2 ^ 21)
        | none => .object s.n (offsetOf a / 2 ^ 21)
      else
        let absent := fun (off : Nat) =>
          match carry.name with
          | some (n, code) => if n = s.n then LaneRes.trap 42 code 0 else .object s.n (off / 2 ^ 21)
          | none => .object s.n (off / 2 ^ 21)
        let part := fun (off len : Nat) =>
          match s.at_ off with
          | none => absent off
          | some va =>
            m.finish d x cluster { w with width := len } carry.errorPage va (some .n) (some (s.n, offsetOf a))
              (some (s.cipher, s.keyId)) (if s.large then none else some s.base) s.size
        let first := 2 ^ 21 - offsetOf a % 2 ^ 21
        if s.large ∧ first < w.width then (part (offsetOf a) first).append (part (offsetOf a + first) (w.width - first))
        else part (offsetOf a) w.width

end Sys2Proof.Machine
end

