-- ==== Sys2Proof/Machine/Gangs.lean ====
section
/-! DEFINITION. Operations over fibres, lanes and gangs: registers and predicates, the gang that issues, splitting, parking and
waking gangs (R26, R358), going on to the next instruction (R145, R159), pending results (R156), fault records (R374) and the
slots that lanes touch (R85). -/

namespace Sys2Proof.Machine

/-! ### Registers -/

/-- Register k; a register the window does not hold reads 0 (no instruction reads one, R21). -/
def Fibre.reg (f : Fibre) (k : Nat) : Nat := (f.regs.getD k 0).toNat

/-- `n` registers from k as one value, the first lowest (R47). -/
def Fibre.val (f : Fibre) (k : Nat) : Nat → Nat
  | 0 => 0
  | n + 1 => f.reg k + 2 ^ 32 * Fibre.val f (k + 1) n

def Fibre.setReg (f : Fibre) (k v : Nat) : Fibre := { f with regs := f.regs.set k (BitVec.ofNat 32 v) }

/-- `n` registers from k written with one value. -/
def Fibre.setVal (f : Fibre) : Nat → Nat → Nat → Fibre
  | _, 0, _ => f
  | k, n + 1, v => Fibre.setVal (f.setReg k v) (k + 1) n (v / 2 ^ 32)

/-- A predicate; p15 reads 1 (R20). -/
def Fibre.pred (f : Fibre) (p : Nat) : Bool := p == 15 || f.preds.getLsbD p

/-- p0 to p14 written; p15 is no destination (R175). -/
def Fibre.setPred (f : Fibre) (p : Nat) (v : Bool) : Fibre :=
  { f with preds := if p < 15 then (if v then f.preds ||| ((1 : BitVec 16) <<< p) else f.preds &&& ~~~((1 : BitVec 16) <<< p)) else f.preds }

/-- The home lane and the course of a fibre (R23). -/
def Fibre.lane (f : Fibre) : Nat := f.slot % 32
def Fibre.course (f : Fibre) : Nat := f.slot / 32

/-- Whether the guard makes a lane active (R152). -/
def guardOn (e : Enc) (f : Fibre) : Bool := e.guard == 15 || (f.pred e.guard != e.neg)

/-! ### Crews, gangs and lanes -/

def Mach.crew (m : Mach) (id : Nat) : Option Crew := m.crews.find? fun c => c.id == id

def Mach.updCrew (m : Mach) (id : Nat) (h : Crew → Crew) : Mach :=
  { m with crews := m.crews.map fun c => if c.id == id then h c else c }

def Crew.gang (c : Crew) (id : Nat) : Option Gang := c.gangs.find? fun g => g.id == id

def Crew.updGang (c : Crew) (id : Nat) (h : Gang → Gang) : Crew :=
  { c with gangs := c.gangs.map fun g => if g.id == id then h g else g }

def Crew.updFibre (c : Crew) (slot : Nat) (h : Fibre → Fibre) : Crew :=
  { c with fibres := c.fibres.map fun f => if f.slot == slot && !f.exited then h f else f }

def Mach.updGang (m : Mach) (crew gang : Nat) (h : Gang → Gang) : Mach := m.updCrew crew fun c => c.updGang gang h

def Mach.updFibre (m : Mach) (crew slot : Nat) (h : Fibre → Fibre) : Mach := m.updCrew crew fun c => c.updFibre slot h

def Crew.fibre (c : Crew) (slot : Nat) : Option Fibre := c.fibres.find? fun f => f.slot == slot && !f.exited

/-- A pre-emption of the crew, or the end of its launch, is asked for (R357, R360). -/
def Crew.stopping (c : Crew) : Bool := c.preempt != 0 || c.stopped

/-- The fibres of a gang in home-lane order. -/
def Crew.lanes (c : Crew) (g : Gang) : List Fibre :=
  (List.range 32).filterMap fun l => if g.mask.getLsbD l then c.fibre (32 * g.course + l) else none

/-- The mask of a list of fibres. -/
def maskOf (l : List Fibre) : BitVec 32 := l.foldl (fun b f => b ||| (1 <<< f.lane)) 0

/-- Whether a fibre is one of the lanes of a mask. -/
def inMask (mask : BitVec 32) (f : Fibre) : Bool := mask.getLsbD f.lane

/-- The lanes of a mask changed. -/
def Crew.mapLanes (c : Crew) (course : Nat) (mask : BitVec 32) (h : Fibre → Fibre) : Crew :=
  { c with fibres := c.fibres.map fun f => if !f.exited && f.course == course && inMask mask f then h f else f }

/-- A core's cycle counter (R34): 64 bits, every counter advancing with the clocks that pass (R4). -/
def Mach.clock (m : Mach) (core : Nat) : Nat := (m.dclock + lookupD m.clocks core 0) % 2 ^ 64

/-- Clocks that a core's counter gains by what it issues. -/
def Mach.tick (m : Mach) (core n : Nat) : Mach :=
  if n = 0 then m else { m with clocks := assign m.clocks core (lookupD m.clocks core 0 + n) }

/-- Who issues: the crew, the gang, its context and launch. -/
structure Env where
  d : Dev
  c : Crew
  g : Gang
  x : Ctx
  l : Launch
  deriving DecidableEq, Repr

def Env.key (E : Env) : Key := E.x.key E.d

/-- Who translates through a context (R379): a lane by its crew and slot, an engine by its crew and a number of its own. -/
def laneAsker (crew slot : Nat) : Nat := crew * 2 ^ 32 + slot + 1
def engineAsker (crew kind n : Nat) : Nat := crew * 2 ^ 32 + kind * 2 ^ 24 + n + 1

/-- The context with one of its askers named. -/
def Ctx.askedBy (x : Ctx) (asker : Nat) : Ctx := { x with asker := asker }

/-- The context as a lane of the crew translates through it. -/
def Env.xOf (E : Env) (f : Fibre) : Ctx := E.x.askedBy (laneAsker E.c.id f.slot)
def Env.cluster (E : Env) : Nat := E.c.core / 4
def Env.lanes (E : Env) : List Fibre := E.c.lanes E.g

/-- The active lanes of an instruction, in home-lane order (R152). -/
def Env.act (E : Env) (e : Enc) : List Fibre := E.lanes.filter (guardOn e)

def Launch.blank : Launch :=
  { id := 0, q := 0, ctx := 0, record := 0, serial := 0, attempt := 0, admittedAt := none, prio := 0, nextCrew := 0
    cores := [], retired := 0, killed := false, failed := false }

def Mach.launch (m : Mach) (id : Nat) : Launch := (m.launches.find? fun l => l.id == id).getD .blank

/-- A field of a launch record (R329). -/
def Launch.field (l : Launch) (hi lo : Nat) : Nat := bitsOf l.record.toNat hi lo

/-- The gang that issues, with what belongs to it; none when it does not exist. -/
def Mach.env (m : Mach) (d : Dev) (r : GangRef) : Option Env :=
  match m.crew r.crew with
  | none => none
  | some c =>
    match c.gang r.gang with
    | none => none
    | some g => some ⟨d, c, g, m.ctx c.ctx, m.launch c.launch⟩

/-- The meaning of an instruction form, run for the gang that issues it. No instruction form changes `Dev`. -/
def isa (F : Env → Mach → Mach) (s : State) : Host.Outcome State Fault Refusal :=
  match s.cur with
  | none => .refused .noIssuingGang
  | some r =>
    match s.m.env s.dev r with
    | none => .refused .noIssuingGang
    | some E => .next { s with m := F E s.m }

/-! ### Gangs: next instruction, split, park -/

def headerCount (h : Nat) : Nat := h % 16 + 1
def headerBody (h : Nat) : Nat := bitsOf h 9 4

/-- The header of the next clause in memory (R141). -/
def nextClause (hdr h : Nat) : Nat := hdr + 8 + 4 * (headerBody h + headerBody h % 2)

/-- A gang sent to a clause header. -/
def Gang.jump (g : Gang) (hdr : Nat) : Gang := { g with hdr := hdr, idx := 0, begun := false, header := 0 }

/-- A gang at its next instruction: the next of the clause, or the next clause's header (R145). -/
def Gang.bump (g : Gang) : Gang :=
  if headerCount g.header ≤ g.idx + 1 then g.jump (nextClause g.hdr g.header) else { g with idx := g.idx + 1 }

/-- Whether a long-latency result of one of a gang's fibres is pending. -/
def Crew.resultsPending (c : Crew) (g : Gang) : Bool := (c.lanes g).any fun f => !f.pend.isEmpty

/-- The park of an S bit: until no long-latency result of any of the gang's fibres is pending (R159). The gang leaves the core's
sets (R358). -/
def Crew.switchPark (c : Crew) (gang : Nat) (s : Bool) : Crew :=
  match c.gang gang with
  | none => c
  | some g =>
    if s && c.resultsPending g then c.updGang gang fun g => { g with state := .parked .switch, place := .offCore, sPark := true }
    else c

/-- The gang goes on after an instruction that completed. -/
def Crew.advance (c : Crew) (gang : Nat) (e : Enc) : Crew :=
  (c.updGang gang fun g => { g.bump with state := .ready, wake := .none, waited := 0, sPark := false }).switchPark gang e.s

def Mach.advance (m : Mach) (E : Env) (e : Enc) : Mach := m.updCrew E.c.id fun c => c.advance E.g.id e

/-- How many gangs of a core stand in one of its sets. -/
def Mach.placed (m : Mach) (core : Nat) (p : Place) : Nat :=
  (((m.crews.filter fun c => c.core == core).flatMap (·.gangs)).filter fun g => g.place == p).length

/-- Where a gang that is ready stands first: in the pending set, or off its core without a place there (R342, R358). -/
def Mach.placeFor (m : Mach) (core : Nat) : Place :=
  if m.placed core .pending < Config.pendingGangs then .pending else .offCore

/-- The lanes of a mask made a gang of their own at the same place, ready as from now (R342); the gang itself when they are all of it.
Answers the number of the gang that then holds them (R26). Of a gang that keeps A in the latch (R275) the part that stays keeps it,
and the one split off does not (log entry 68). -/
def Mach.splitOff (m : Mach) (crew gang : Nat) (mask : BitVec 32) : Mach × Nat :=
  match m.crew crew with
  | none => (m, gang)
  | some c =>
    match c.gang gang with
    | none => (m, gang)
    | some g =>
      if g.mask &&& ~~~mask = 0 then (m, gang)
      else
        let n : Gang := { g with id := m.nextId, mask := g.mask &&& mask, kept := none, place := m.placeFor c.core, issued := 0, waited := 0, readySince := m.clock c.core, passedOver := 0 }
        ({ m.updCrew crew (fun c => { c.updGang gang (fun g => { g with mask := g.mask &&& ~~~mask }) with
              gangs := (c.updGang gang (fun g => { g with mask := g.mask &&& ~~~mask })).gangs ++ [n] }) with
            nextId := m.nextId + 1 }, m.nextId)

/-- A gang parked with a reason (R358): it leaves the active and pending sets. -/
def Mach.parkGang (m : Mach) (crew gang : Nat) (reason : ParkReason) (wake : Wake) : Mach :=
  m.updGang crew gang fun g => { g with state := .parked reason, wake := wake, place := .offCore, waited := 0 }

/-- The lanes of a mask leave the gang and park at the instruction (R15, R26). -/
def Mach.parkLanes (m : Mach) (crew gang : Nat) (mask : BitVec 32) (reason : ParkReason) (wake : Wake) : Mach :=
  let r := m.splitOff crew gang mask
  r.1.parkGang crew r.2 reason wake

/-- A gang held at its instruction, which it tests again (R148). -/
def Mach.hold (m : Mach) (crew gang : Nat) (own : Bool) : Mach := m.updGang crew gang fun g => { g with state := .held own }

/-- A gang that cannot issue its instruction yet, at no stop of R148: it tries again. -/
def Mach.stall (m : Mach) (crew gang : Nat) : Mach := m.updGang crew gang fun g => { g with state := .stalled }

/-- A gang made ready again: it re-enters the pending set (R358). One whose S bit still awaits results stays parked for them
(R159). -/
def Mach.wakeGang (m : Mach) (crew gang : Nat) : Mach :=
  match m.crew crew with
  | none => m
  | some c =>
    m.updGang crew gang fun g =>
      if g.sPark && c.resultsPending g then { g with state := .parked .switch, wake := .none, place := .offCore, waited := 0 }
      else
        { g with
          state := .ready, wake := .none, waited := 0, readySince := m.clock c.core, passedOver := 0, sPark := false
          place := if g.place = .offCore then m.placeFor c.core else g.place }

/-- A stopped gang asks for ring entries (R225, R351): the ring takes the gangs of a context in the order in which they asked. -/
def Mach.askRing (m : Mach) (crew gang : Nat) (req : Nat × Nat × Nat) : Mach :=
  { m.updGang crew gang fun g => { g with ringWait := some req, ringAt := m.nextId } with nextId := m.nextId + 1 }

/-- A number for what a pending result is written to: a register, or a predicate above the registers. -/
def PendDst.code : PendDst → Nat
  | .reg k => k
  | .pred k => 256 + k

/-- Every pending long-latency result of a fibre written (R160). -/
def Fibre.land1 (f : Fibre) (p : Pend) : Fibre :=
  match p.dst with
  | .reg k => { f with regs := f.regs.set k p.val }
  | .pred k => f.setPred k (p.val != 0)

def Fibre.landAll (f : Fibre) : Fibre := { f.pend.foldl Fibre.land1 f with pend := [] }

/-- A long-latency result of `n` registers (R156), one entry a register. -/
def Fibre.pendVal (f : Fibre) (eng : Bool) (instr : Nat) : Nat → Nat → Nat → Fibre
  | _, 0, _ => f
  | k, n + 1, v =>
    Fibre.pendVal { f with pend := f.pend ++ [⟨.reg k, BitVec.ofNat 32 v, eng, instr⟩] } eng instr (k + 1) n (v / 2 ^ 32)

def Fibre.pendPred (f : Fibre) (eng : Bool) (instr : Nat) (p : Nat) (v : Bool) : Fibre :=
  { f with pend := f.pend ++ [⟨.pred p, if v then 1 else 0, eng, instr⟩] }

/-! ### Interrupts and fault records -/

def Mach.raiseIrq (m : Mach) (fn vec : Nat) : Mach :=
  if m.irqs.contains (fn, vec) then m else { m with irqs := m.irqs ++ [(fn, vec)] }

/-- The requester code of R374. -/
def requesterCode : Requester → Nat
  | .lane .. => 0 | .channel .. => 1 | .post .. => 2 | .cursor .. => 3 | .binning .. => 4 | .fabric .. => 5 | .fetch .. => 6
  | .oru .. => 7

/-- The 32 bytes of a fault record (R374). -/
def FaultRec.word (r : FaultRec) (seq : Nat) : Nat :=
  seq % 2 ^ 32 + r.token % 2 ^ 32 * 2 ^ 64 + r.core * 2 ^ 111 + r.level * 2 ^ 122 + r.access * 2 ^ 125 + r.cause * 2 ^ 128
    + r.req * 2 ^ 136 + r.fn * 2 ^ 140 + bitsOf r.ctx 56 12 * 2 ^ 147 + r.va * 2 ^ 192

/-- Physical address of a function's fault queue descriptor (R375, R389). -/
def Dev.faultDesc (d : Dev) (fn : Nat) : Nat := d.faultTable + 32 * fn

/-- Bytes written at a fault queue's place: physical HBM, or host memory by ATS (R354). -/
def Mach.faultQueueWrite (m : Mach) (d : Dev) (fn : Nat) (host : Bool) (a : Nat) (bytes : List Byte) : Mach :=
  if host then
    match m.atsXlate d fn a 2 with
    | some ha => { m with host := m.host.writeBytes ha bytes }
    | none => m
  else m.physWrite (d.fnKey fn) a bytes

/-- The oldest unwritten fault record of a function written into its queue when there is room (R374, R375): its descriptor stands in the
table of R389, `prod` passes `cons`, and the function's fault interrupt is raised. A queue in host memory waits for its page to be
mapped (log entry 80). -/
def Mach.writeFault (m : Mach) (d : Dev) (fn : Nat) : Mach :=
  match m.faults.find? fun r => r.fn == fn && !r.written with
  | none => m
  | some r =>
    let desc := m.physNat (d.fnKey 0) (d.faultDesc fn) 32
    let n := desc % 32
    let prod := bitsOf desc 159 128
    let cons := bitsOf desc 191 160
    let host := bitOf desc 5
    let a := bitsOf desc 255 192 + 32 * (prod % 2 ^ n)
    if n < 6 ∨ 16 < n ∨ (prod + 2 ^ 32 - cons) % 2 ^ 32 ≥ 2 ^ n ∨ (host ∧ (m.atsXlate d fn a 2).isNone) then m
    else
      let seq := (prod + 1) % 2 ^ 32
      let m1 := m.faultQueueWrite d fn host a (leBytes 32 (r.word seq))
      let m2 := m1.physWrite (d.fnKey 0) (d.faultDesc fn + 16) (leBytes 4 seq)
      ({ m2 with faults := m2.faults.map (fun q => if q.token == r.token then { q with written := true } else q) } : Mach).raiseIrq fn 0

/-- A failed walk: it joins the outstanding record of its page, or makes one (R374). Answers the record's token. -/
def Mach.raiseFault (m : Mach) (d : Dev) (x : Ctx) (core : Nat) (req : Requester) (va cause level access : Nat) : Mach × Nat :=
  match m.faults.find? fun r => r.ctx == x.addr && pageOf r.va == pageOf va with
  | some r =>
    ({ m with faults := m.faults.map fun q => if q.token == r.token then { q with joined := q.joined ++ [req] } else q }, r.token)
  | none =>
    let r : FaultRec :=
      { token := m.nextToken, ctx := x.addr, fn := x.fn, va := va, req := requesterCode req, cause := cause, access := access
        level := level, core := core, joined := [req], written := false }
    (({ m with faults := m.faults ++ [r], nextToken := (m.nextToken + 1) % 2 ^ 32 }).writeFault d x.fn, m.nextToken)

/-! ### Slots of the ORT -/

/-- The 64 bytes of a slot's ORT entry (R77). -/
def Slot.word (s : Slot) : Nat :=
  s.fetches % 2 ^ 32 + s.parked.length * 2 ^ 32 + s.ident.toNat * 2 ^ 64 + s.base * 2 ^ 128 + s.size * 2 ^ 192
    + s.state * 2 ^ 280 + b2n s.dirty * 2 ^ 283 + b2n s.cipher * 2 ^ 284 + b2n s.ro * 2 ^ 285 + s.cls * 2 ^ 286
    + s.keyId * 2 ^ 288 + s.home * 2 ^ 320 + s.lastSerial * 2 ^ 384 + s.mapAddr * 2 ^ 448

/-- Bytes written by the part at a device virtual address of a context, at home (R76, R353). -/
def Mach.vaWrite (m : Mach) (d : Dev) (x : Ctx) (va : Nat) (bytes : List Byte) : Mach :=
  match m.rangeRuns d x 0 va bytes.length 2 false with
  | .ok r => ((runLocs r).zip bytes).foldl (fun m p => m.partWrite (x.key d) p.1 p.2) m
  | _ => m

/-- Whether bytes at a device virtual address can be written: a ring whose page of host memory is not mapped just then waits, so that
every entry below `prod` stands whole (R354, R380; log entry 80). -/
def Mach.ringOpen (m : Mach) (d : Dev) (x : Ctx) (a n : Nat) : Bool :=
  match m.rangeRuns d x 0 a n 2 false with
  | .ok _ => true
  | _ => false

/-- A value read by the part at a device virtual address, at home; none when it does not translate. -/
def Mach.vaNat (m : Mach) (d : Dev) (x : Ctx) (va n : Nat) : Option Nat :=
  match m.rangeRuns d x 0 va n 1 false with
  | .ok r => if (runLocs r).any d.unreadable then none else some (leNat ((runLocs r).map (m.homeRead (x.key d))))
  | _ => none

/-- Whether the Object Residency Table has a slot of a number: its count is 2^slots (R76). -/
def Ctx.holdsSlot (x : Ctx) (n : Nat) : Bool := decide (n < 2 ^ x.slotLog)

/-- A slot's new state, shown in its ORT entry in memory, which is reached through the one entry that holds the ORT (R76, R77); one past
a lowered count has no entry. The part never reads the entries back: it keeps the slots itself (log entry 53). -/
def Mach.setSlot (m : Mach) (d : Dev) (ctx : Nat) (s : Slot) : Mach :=
  let x := m.ctx ctx
  let x' := { x with slots := putBy (fun t => t.n == s.n) s x.slots }
  let base := bitsOf x.ort.toNat 191 128
  if x.holdsSlot s.n then (m.setCtx x').vaWrite d (x'.via [1] base (64 * 2 ^ x.slotLog)) (base + 64 * s.n) (leBytes 64 s.word)
  else m.setCtx x'

/-- A touch of a slot that is not resident asks for what it needs (R85): a lookup while UNRESOLVED and a fetch after it; a fetch
at once when ABSENT or when the extent of a large object is absent; a fetch once an eviction has ended. A class-G object is used in place at once (R88, R90). -/
def Slot.touch (s : Slot) (extent : Nat) : Slot :=
  if s.state = 1 then { s with lookup := true, fetching := some extent }
  else if s.state = 2 ∧ s.cls = 0 ∧ kindOf s.home = 0 then { s with state := 4, base := s.home % 2 ^ 57, fetching := none }
  else if s.large ∧ s.stored ≤ extent * 2 ^ 21 then s
  else if s.state = 2 ∨ (s.state = 4 ∧ s.large ∧ (s.extents.find? fun e => e.1 == extent).isNone) then
    { s with state := 3, fetching := some extent }
  else if s.state = 5 then { s with fetching := some extent }
  else s

/-- Lanes join a slot's waiters (R77, R85). -/
def Mach.waitSlot (m : Mach) (d : Dev) (ctx slot extent : Nat) (who : List (Nat × Nat)) : Mach :=
  match (m.ctx ctx).slot slot with
  | none => m
  | some s => m.setSlot d ctx { s.touch extent with parked := s.parked ++ who.filter fun w => !s.parked.contains w }

/-- Lanes that want only a slot's size join its waiters (R92). -/
def Mach.waitSize (m : Mach) (d : Dev) (ctx slot : Nat) (who : Nat × Nat) : Mach :=
  match (m.ctx ctx).slot slot with
  | none => m
  | some s => m.setSlot d ctx { s with lookup := true, parked := if s.parked.contains who then s.parked else s.parked ++ [who] }

/-- Gangs of a context parked on a slot made ready: all, or those that want only its size (R85, R92). -/
def Mach.wakeObject (m : Mach) (ctx slot : Nat) (sizeOnly : Bool) : Mach :=
  ((m.crews.filter fun c => c.ctx == ctx).flatMap fun c =>
      (c.gangs.filter fun g => (!sizeOnly && g.wake == .object slot) || g.wake == .lookup slot).map fun g => (c.id, g.id)).foldl
    (fun m p => m.wakeGang p.1 p.2) m

/-- Lanes that have re-executed leave the waiters and the pin of every slot (R91). -/
def Mach.unpin (m : Mach) (d : Dev) (ctx crew : Nat) (slots : List Nat) : Mach :=
  let x := m.ctx ctx
  (x.slots.filter fun s => s.parked.any fun p => p.1 == crew && slots.contains p.2).foldl
    (fun m s => m.setSlot d ctx { s with parked := s.parked.filter fun p => !(p.1 == crew && slots.contains p.2) }) m

end Sys2Proof.Machine
end

