-- ==== Sys2Proof/Machine/GaugeWords.lean ====
section
/-! DEFINITION. The words of a gauge and their events (R109, R110), and what gangs that wait for gauges see of them (R112). -/

namespace Sys2Proof.Machine

structure Gauge where
  valid : Bool
  unit : Bool
  ovr : Bool
  err : Bool
  reload : Nat
  gen : Nat
  count : Nat
  target : Nat
  deriving DecidableEq, Repr

def Gauge.ofNat (n : Nat) : Gauge :=
  ⟨bitOf n 127, bitOf n 126, bitOf n 125, bitOf n 124, bitsOf n 119 96, bitsOf n 95 64, bitsOf n 63 32, n % 2 ^ 32⟩

def Gauge.toNat (g : Gauge) : Nat :=
  b2n g.valid * 2 ^ 127 + b2n g.unit * 2 ^ 126 + b2n g.ovr * 2 ^ 125 + b2n g.err * 2 ^ 124 + g.reload % 2 ^ 24 * 2 ^ 96
    + g.gen % 2 ^ 32 * 2 ^ 64 + g.count % 2 ^ 32 * 2 ^ 32 + g.target % 2 ^ 32

/-- Complete (R110). -/
def Gauge.complete (g : Gauge) : Gauge :=
  if g.target ≠ 0 ∧ g.target ≤ g.count then
    { g with ovr := g.ovr || decide (g.target < g.count), gen := (g.gen + 1) % 2 ^ 32, count := 0, target := g.reload }
  else g

/-- An arrival of n (R110). -/
def Gauge.arrive (g : Gauge) (n : Nat) (err : Bool) : Gauge :=
  ({ g with err := g.err || err, count := (g.count + n) % 2 ^ 32 } : Gauge).complete

/-- GEXPECT m (R110). -/
def Gauge.expect (g : Gauge) (m : Nat) : Gauge :=
  (if 0xFFFFFFFF < g.target + m then { g with target := 0xFFFFFFFF, ovr := true } else { g with target := g.target + m }).complete

/-- Whether a wait for generation `n` ends (R112). -/
def Gauge.reached (g : Gauge) (n : Nat) : Bool := decide (0 ≤ toSigned 32 (g.gen + 2 ^ 32 - n % 2 ^ 32))

/-- The gauge at a scratchpad place, core × 2^18 + offset. -/
def Mach.gauge (m : Mach) (a : Nat) : Gauge := .ofNat (leNat (m.scratch.bytes a 16))

def Mach.setGauge (m : Mach) (a : Nat) (g : Gauge) : Mach := { m with scratch := m.scratch.writeBytes a (leBytes 16 g.toNat) }

/-- What a gauge has shown a waiting gang once another step has been made (R112, R258): the wait ends when every lane's test holds,
and a lane whose gauge is then not valid takes its trap. -/
def Mach.lookGauges (m : Mach) (w : Wake) : Wake :=
  match w with
  | .gauge ws ended bad =>
    if ended then w
    else
      let lost := ws.filter fun p => !(m.gauge p.2.1).valid
      if lost = [] && bad = [] && ws.all (fun p => (m.gauge p.2.1).reached p.2.2) then .gauge ws true []
      else .gauge ws false (bad ++ (lost.map (·.1)).filter fun s => !bad.contains s)
  | _ => w

/-- Every waiting gang looks at its gauges, after every step and after every store to the scratchpad. -/
def Mach.pollGauges (m : Mach) : Mach :=
  { m with crews := m.crews.map fun c => { c with gangs := c.gangs.map fun g => { g with wake := m.lookGauges g.wake } } }

end Sys2Proof.Machine
end

