-- ==== Sys2Proof/Machine/Stores.lean ====
section
/-! DEFINITION. Store queues and what leaves them (R122, R136, R407), the write-back of resident copies (R96), releases
(R125), and the steps REGISTER_RESULT_WRITE and STORE_DRAIN. -/

namespace Sys2Proof.Machine

/-! ### Fabric payloads (R427) -/

/-- The fabric key takes the world's fabric secret in place of the tenant key. -/
def Dev.fabricKey (d : Dev) (fn : Nat) : List Byte :=
  let level1 := match (d.fnRec fn).secret with
    | some s => leBytes 32 s.toNat
    | none => tenantKey (d.fnRec fn).tenant
  purposeKey (periodKey level1 (d.fnRec fn).period) 4 0 0

/-- A payload encrypted, with its tag, and one decrypted where its tag holds. -/
def payloadSeal (key : List Byte) (nonce : Nat) (plain : List Byte) : List Byte × List Byte :=
  let c := (Config.gcm key nonce plain.length ⟨plain, rfl⟩).1
  (c, (Config.gcmTag key nonce c).takeD 16 0)

def payloadOpen (key : List Byte) (nonce : Nat) (cipher tag : List Byte) : Option (List Byte) :=
  if (Config.gcmTag key nonce cipher).takeD 16 0 = tag then some ((Config.gcm key nonce cipher.length).symm ⟨cipher, rfl⟩).1 else none

/-- The message that a request belongs to: a record's, or one of its own (R406). -/
def FabOut.msg (o : FabOut) : Nat :=
  match o.kind with
  | .packet _ msg _ _ => msg
  | _ => o.id

/-- The grant class that a request travels in (R89, R409): 7 for the ORU, the record's own for a packet, 4 for a vector access. -/
def FabOut.prio (o : FabOut) : Nat :=
  match o.kind with
  | .packet _ _ _ prio => prio
  | .writeback .. => 7
  | _ => 4

/-- What a request carries in the clear: its bytes, or an atomic's operands and expected values. -/
def FabOut.plain (o : FabOut) : List Byte :=
  match o.kind with
  | .atomic _ _ _ lanes .. => lanes.flatMap fun l => leBytes 8 l.2.1 ++ leBytes 8 l.2.2
  | _ => o.data

/-- A request as it travels: in the clear for world 0, else under the fabric key of its function's world. -/
def FabOut.sealed (d : Dev) (o : FabOut) : FabOut :=
  if o.fn = 0 then { o with payload := o.plain, tag := [] }
  else
    let w := payloadSeal (d.fabricKey o.fn) (Config.gcmNonce d.node o.msg o.off) o.plain
    { o with payload := w.1, tag := w.2 }

/-- The bytes of a response, which outside world 0 comes as ciphertext with its tag behind; none where the tag fails. -/
def FabOut.opened (d : Dev) (o : FabOut) (data : List Byte) : Option (List Byte) :=
  if o.fn = 0 then some data
  else payloadOpen (d.fabricKey o.fn) (Config.gcmNonce o.node o.msg o.off) (data.take (data.length - 16)) (data.drop (data.length - 16))

/-! ### Fabric requests of a fibre -/

/-- The fibres that a request belongs to: all lanes of a combined atomic. -/
def FabOut.slots (o : FabOut) : List Nat :=
  match o.kind with
  | .atomic _ _ _ lanes _ _ _ => lanes.map (·.1)
  | .word _ _ _ _ _ _ lanes _ _ _ => lanes.map (·.1)
  | _ => [o.slot]

/-- Whether a fabric write of one of the fibres is still to be acknowledged (R136, R138). -/
def Mach.unacked (m : Mach) (crew : Nat) (slots : List Nat) : Bool :=
  m.fabOut.any fun o => o.isWrite && o.crew == crew && o.slots.any slots.contains

/-- Whether a request overlaps some bytes. -/
def FabOut.meets (o : FabOut) (node rkey off len : Nat) : Bool :=
  o.node == node && o.rkey == rkey && decide (o.off < off + len) && decide (off < o.off + o.len)

/-- Whether an overlapping fabric write of the cluster is still to be acknowledged (R407). The writes of a cluster to one byte
leave one after the other, so that their owner sees them in the order in which the L1 and the L2 slice do (R122, R123; log entry 65). -/
def Mach.fabOverlap (m : Mach) (cluster node rkey off len : Nat) : Bool :=
  m.fabOut.any fun o => o.isWrite && o.core / 4 == cluster && o.meets node rkey off len

/-- Core and function that a request is sent for: of its crew, or of the context whose copy is written back. -/
def Mach.sentFor (m : Mach) (crew : Nat) (kind : OutKind) : Nat × Nat :=
  match kind, m.crew crew with
  | .writeback ctx _, _ => (0, (m.ctx ctx).fn)
  | _, some c => (c.core, (m.ctx c.ctx).fn)
  | _, none => (0, 0)

/-- A request leaves. Of a write-back of the ORU the first 16 KiB need no token (R89, R408); the bytes of every other are granted
already. -/
def Mach.sendFab (m : Mach) (d : Dev) (crew gang slot node rkey off : Nat) (data : List Byte) (len : Nat) (kind : OutKind) : Mach :=
  let f := m.sentFor crew kind
  let allowed := match kind with | .writeback .. => min len 16384 | _ => len
  { m with
    fabOut := m.fabOut ++ [FabOut.sealed d ⟨m.nextId, crew, gang, slot, node, rkey, off, len, kind, f.1, f.2, 0, data, allowed, [], [], none⟩]
    nextId := m.nextId + 1 }

/-! ### Fabric bytes held as copies (R101, R120) -/

/-- The bytes of some places where one unit holds them all under a key. -/
def held (l : List Copy) (unit : Nat) (k : Key) : List Loc → Option (List Byte)
  | [] => some []
  | loc :: t =>
    match copyOf l unit loc with
    | some c => if c.key = k then (held l unit k t).map (c.val :: ·) else none
    | none => none

/-- The copies that serve a read of fabric bytes at a scope, where a cache below their owner holds all of them: the bytes of one read
come from one cache (R129). -/
def Mach.fabCopies (m : Mach) (core scope : Nat) (k : Key) (locs : List Loc) : Option (List Byte) :=
  match pointOf scope with
  | 1 => (held m.l1 core k locs).or (held m.l2 (core / 4) k locs)
  | 2 => held m.l2 (core / 4) k locs
  | _ => none

/-- The lines of some fabric bytes dropped, for a core: from the L1, and from the L2 slice but for bytes that a write on its way still
needs there. -/
def Mach.fabDrop (m : Mach) (core : Nat) (locs : List Loc) : Mach :=
  { m with
    l1 := m.l1.filter fun c => !(c.unit == core && locs.any c.loc.sameLine)
    l2 := m.l2.filter fun c => !(c.unit == core / 4 && locs.any c.loc.sameLine) || m.onItsWay c.unit c.loc }

/-- Bytes behind a fabric address put into the caches of a core, down to a level. -/
def Mach.fabPut (m : Mach) (core level : Nat) (k : Key) (cells : List (Loc × Byte)) : Mach :=
  cells.foldl (fun m p =>
    let m1 := m.putL2 ⟨core / 4, p.1, p.2, false, .f, k⟩
    if level = 1 then m1.putL1 ⟨core, p.1, p.2, false, .f, k⟩ else m1) m

/-- The places of some bytes behind a fabric address. -/
def fabLocs (node rkey off len : Nat) : List Loc := (List.range len).map fun i => fabLoc node rkey (off + i)

/-- A store across the fabric performed in the L1 and the L2 slice, and on its way to the bytes' owner (R120, R122, R136). -/
def Mach.fabStore (m : Mach) (d : Dev) (c : Crew) (slot node rkey off : Nat) (k : Key) (data : List Byte) : Mach :=
  let locs := fabLocs node rkey off data.length
  ((m.noFill (c.core / 4) fun o => o.meets node rkey off data.length).fabPut c.core 1 k (locs.zip data)).sendFab d c.id 0 slot node
    rkey off data data.length .store

/-! ### Resident copies -/

/-- Bytes written through a short pointer, for the write-back (R96). An object of home class G is its own home. -/
def Mach.noteWritten (m : Mach) (d : Dev) (ctx slot off len : Nat) : Mach :=
  match (m.ctx ctx).slot slot with
  | none => m
  | some s =>
    if s.cls = 0 then m
    else
      m.setSlot d ctx
        { s with dirty := true, written := s.written ++ ((List.range len).map (off + ·)).filter fun o => !s.written.contains o }

/-- Neighbouring bytes gathered into runs, each a first offset and its bytes. -/
def contig : List (Nat × Byte) → List (Nat × List Byte)
  | [] => []
  | (o, b) :: t =>
    match contig t with
    | (o', bs) :: r => if o' = o + 1 then (o, b :: bs) :: r else (o, [b]) :: (o', bs) :: r
    | [] => [(o, [b])]

/-- The bytes of a slot still to be written to its home, by offset, lowest first. -/
def Mach.dirtyBytes (m : Mach) (d : Dev) (x : Ctx) (s : Slot) : List (Nat × Byte) :=
  (s.written.insertionSort (· ≤ ·)).filterMap fun o =>
    (s.at_ o).bind fun va => (m.vaNat d x va 1).map fun v => (o, BitVec.ofNat 8 v)

/-- Where the copy's written bytes lie, the first place that does not translate: address, cause and level. -/
def Mach.unreached (m : Mach) (d : Dev) (x : Ctx) (s : Slot) : Option (Nat × Nat × Nat) :=
  (s.written.filterMap s.at_).findSome? fun va =>
    match m.translate d x 0 va 1 with
    | .fault c l => some (va, c, l)
    | _ => none

/-- A write-back of a slot waits for the answer to a translation fault; after an error there the bytes stay written (R374; log entry
6). -/
def Mach.awaitPage (m : Mach) (d : Dev) (ctx : Nat) (s : Slot) (va cause level access : Nat) : Mach × Bool :=
  if s.errorPage == some (pageOf va) then (m, true)
  else if s.wait != [] then (m, false)
  else
    let r := m.raiseFault d (m.ctx ctx) 0 (.oru ctx s.n) va cause level access
    (r.1.setSlot d ctx { s with wait := [r.2] }, false)

/-- The written bytes of a slot sent to its home (R90 step 3, R96): a home in host memory is written at once where it
translates, a home across the fabric by stores in grant class 7 that are acknowledged, of which the first 16 KiB need no token (R89,
R408). False where a translation fault, of the copy or of the home, must be answered first. `who` is the fibre whose release it is. -/
def Mach.writeBackSlot (m : Mach) (d : Dev) (ctx n : Nat) (who : Nat × Nat) : Mach × Bool :=
  let x := m.ctx ctx
  match x.slot n with
  | none => (m, true)
  | some s =>
    if s.written = [] ∨ s.cls = 0 ∨ s.ro then (m, true)
    else
      let bytes := m.dirtyBytes d x s
      let clean := { s with written := [], dirty := false }
      match m.unreached d x s with
      | some (va, c, l) => m.awaitPage d ctx s va c l 1
      | none =>
        if s.cls = 1 then
          match bytes.findSome? fun p =>
              match m.translate d x 0 (s.home + p.1) 2 with
              | .fault c l => some (s.home + p.1, c, l)
              | _ => none with
          | some (va, c, l) => m.awaitPage d ctx s va c l 2
          | none =>
            let m1 := (contig bytes).foldl (fun m p => m.vaWrite d x (s.home + p.1) p.2) m
            (m1.setSlot d ctx clean, true)
        else
          match m.rkeyOf d x 0 (windowOf s.home) with
          | .bad | .unreadable => (m, true)
          | .fault va c l => m.awaitPage d ctx s va c l 1
          | .ok rk =>
            let m1 := (contig bytes).foldl
              (fun m p => m.sendFab d who.1 0 who.2 (nodeOf s.home) rk (offsetOf s.home + p.1) p.2 p.2.length (.writeback ctx n)) m
            (m1.setSlot d ctx clean, true)

/-! ### Releases -/

/-- Slots of a function's contexts whose copies hold bytes that their homes lack. -/
def Mach.owed (m : Mach) (fn : Nat) : List (Nat × Nat) :=
  (m.ctxs.filter fun x => x.fn == fn).flatMap fun x => (x.slots.filter fun s => s.written != [] && s.cls != 0).map fun s => (x.addr, s.n)

/-- The written bytes of some slots sent to their homes. -/
def Mach.homeSlots (m : Mach) (d : Dev) (l : List (Nat × Nat)) (who : Nat × Nat) : Mach × Bool :=
  if l != [] then
    l.foldl (fun (p : Mach × Bool) n => let q := p.1.writeBackSlot d n.1 n.2 who; (q.1, p.2 && q.2)) (m.writeBackAll, true)
  else (m, true)

/-- The written bytes of one context's resident copies at their homes (R379); false while a home is still to answer. -/
def Mach.homeContext (m : Mach) (d : Dev) (fn ctx : Nat) : Mach × Bool :=
  let r := m.homeSlots d ((m.owed fn).filter fun p => p.1 == ctx) (0, 0)
  (r.1, r.2 && !r.1.fabOut.any fun o => match o.kind with | .writeback c _ => c == ctx | _ => false)

/-- The written bytes of every resident copy of a function at their homes (R96, R134); false while a home is still to answer. -/
def Mach.homeObjects (m : Mach) (d : Dev) (fn : Nat) (who : Nat × Nat) : Mach × Bool :=
  let r := m.homeSlots d (m.owed fn) who
  (r.1, r.2 && !r.1.fabOut.any fun o => o.fn == fn && match o.kind with | .writeback .. => true | _ => false)

/-- Steps 1 and 2 of a release (R125): every dirty copy of the core up to the point of the scope; at bas and above with F the
acknowledgements of fabric writes, whose point their owner is (R120, R136); at sys with N the resident copies' written bytes at
their homes (R96). The writes that its acquires have read may be those of any fibre that shares memory with it (R124): the
model takes every write of its function, which R125 permits (log entry 65). False while something is still awaited. Loads return their
values when they issue, so step 1 holds. -/
def Mach.release (m : Mach) (d : Dev) (ctx core scope stor : Nat) (who : Nat × Nat) : Mach × Bool :=
  let m1 := m.writeBack core scope
  let fn := (m1.ctx ctx).fn
  let r := if scope = 5 && storHas stor .n then m1.homeObjects d fn who else (m1, true)
  let fab := 3 ≤ scope && storHas stor .f && r.1.fabOut.any fun o => o.isWrite && o.fn == fn
  (r.1, r.2 && !fab)

/-! ### Store queues -/

/-- A whole object name stored in downstream memory is known to be one, of 16 bytes at once (R95, R140). -/
def Mach.noteName (m : Mach) (name : Bool) (cells : List (Loc × Byte)) : Mach :=
  match cells with
  | (⟨.pmem, a⟩, _) :: _ => if name && !m.pnames.contains a then { m with pnames := a :: m.pnames } else m
  | _ => m

/-- A queued store's host bytes at the frames that their pages have now (R395). -/
def StoreEntry.again (m : Mach) (fn : Nat) (e : StoreEntry) : StoreEntry :=
  let moved := fun (f : Nat) => match e.hostAt.find? fun p => p.1 == f with
    | some p => (m.hostFrame fn p.2 true).getD f
    | none => f
  if e.hostAt = [] then e
  else
    { e with
      hostAt := e.hostAt.map fun p => (moved p.1, p.2)
      kind := match e.kind with
        | .bytes cells => .bytes (cells.map fun p =>
            if p.1.space = .host then (⟨.host, moved (p.1.addr / 4096) * 4096 + p.1.addr % 4096⟩, p.2) else p)
        | k => k }

/-- A store performed (R121, R122): false where it must wait, for a busy tile (R115), an overlapping fabric store (R407), or a host page
that is no longer where it was when the store was queued (R395; log entry 81). One to bytes
of the chip window that no crew of its context owns any more writes nothing (R115, R437; log entry 69). -/
def Mach.performStore (m : Mach) (d : Dev) (c : Crew) (slot : Nat) (e : StoreEntry) : Mach × Bool :=
  match e.kind with
  | .bytes cells =>
    if !(cells.all fun p => m.owns c.ctx p.1) then (m, true)
    else if e.hostAt.any fun p => m.hostFrame (m.ctx c.ctx).fn p.2 true != some p.1 then (m, false)
    else if cells.any fun p => p.1.space == .acc && m.tileBusy (p.1.addr / 2 ^ 16) (p.1.addr % 2 ^ 16 / 0x4000) then (m, false)
    else
      let m0 := (cells.foldl (fun m p => m.performByte c.core e.scope e.cls e.key p.1 p.2) m).noteName e.name cells
      -- A store to a gauge's words is one event of the gauge (R113).
      let m1 := if cells.any fun p => p.1.space == .scr then m0.pollGauges else m0
      match e.object with
      | some (s, off) => (m1.noteWritten d c.ctx s off cells.length, true)
      | none => (m1, true)
  | .fabric node rk off data =>
    if m.fabOverlap (c.core / 4) node rk off data.length then (m, false)
    else (m.fabStore d c slot node rk off e.key data, true)

/-- Whether lower lanes of the store's instruction that write its bytes too still have their stores queued (R107, R235). -/
def Crew.behind (c : Crew) (e : StoreEntry) : Bool :=
  c.fibres.any fun f => e.behind.contains f.slot && f.stores.any fun q => q.instr == e.instr

/-- The store at the head of a queue performed: a release store after steps 1 and 2 of R125. -/
def Mach.drainEntry (m : Mach) (d : Dev) (c : Crew) (slot : Nat) (e : StoreEntry) : Mach × Bool :=
  if c.behind e then (m, false)
  else
    match e.release with
    | none => m.performStore d c slot e
    | some stor =>
      let r := m.release d c.ctx c.core e.scope (Nat.lor stor (2 ^ e.cls.bit)) (c.id, slot)
      if r.2 then r.1.performStore d c slot e else r

/-- What is left of a store once performed: a release at sys of class N completes when its own bytes too are at their home
(step 3 of R125, R96), as a release of no bytes that follows it in its place. -/
def StoreEntry.remains (e : StoreEntry) : Option StoreEntry :=
  match e.release, e.kind with
  | some _, .bytes (_ :: _) =>
    if e.scope = 5 ∧ e.cls = .n then some { e with kind := .bytes [], object := none, behind := [] } else none
  | _, _ => none

/-- The fibre of a slot whose queue drains first: an exited one before the live one. -/
def Crew.drainer (c : Crew) (slot : Nat) : Option Fibre :=
  match c.fibres.find? fun f => f.slot == slot && f.exited with
  | some f => some f
  | none => c.fibres.find? fun f => f.slot == slot

/-- The first fibre of a slot, live or exited, loses the store at the head of its queue, or keeps what remains of it. -/
def popFirst (slot : Nat) (exited : Bool) : List Fibre → List Fibre
  | [] => []
  | f :: t =>
    if f.slot == slot && f.exited == exited then
      { f with stores := (f.stores.head?.bind StoreEntry.remains).toList ++ f.stores.tail } :: t
    else f :: popFirst slot exited t

def Crew.popStore (c : Crew) (slot : Nat) (exited : Bool) : Crew :=
  { c with fibres := (popFirst slot exited c.fibres).filter fun f => !(f.exited && f.stores.isEmpty) }

/-- One store leaves a queue; false where none can. -/
def Mach.drainOne (m : Mach) (d : Dev) (crew slot : Nat) : Mach × Bool :=
  match m.crew crew with
  | none => (m, false)
  | some c =>
    match c.drainer slot with
    | none => (m, false)
    | some f =>
      match f.stores with
      | [] => (m, false)
      | e :: _ =>
        let r := m.drainEntry d c (if f.exited then f.ghost else slot) e
        if r.2 then (r.1.updCrew crew fun c => c.popStore slot f.exited, true) else r

/-- A live fibre's queue drained as far as it goes; the number bounds its entries. -/
def Mach.drainSome (m : Mach) (d : Dev) (crew slot : Nat) : Nat → Mach
  | 0 => m
  | n + 1 =>
    let r := m.drainOne d crew slot
    if r.2 then Mach.drainSome r.1 d crew slot n else r.1

/-- The queues of some fibres drained in turn (a queue may drain at any time, R122). -/
def Mach.drainAll (m : Mach) (d : Dev) (crew : Nat) (fs : List Fibre) : Mach :=
  fs.foldl (fun m f => m.drainSome d crew f.slot (2 * f.stores.length + 8)) m

/-- Whether the queues of all of some slots are empty. -/
def Mach.drained (m : Mach) (crew : Nat) (slots : List Nat) : Bool :=
  match m.crew crew with
  | none => true
  | some c => slots.all fun s => match c.fibre s with | some f => f.stores.isEmpty | none => true

/-- A release made by an instruction for some of its lanes (R125): their queues drain, then the release. -/
def Mach.releaseNow (m : Mach) (d : Dev) (c : Crew) (fs : List Fibre) (scope stor : Nat) : Mach × Bool :=
  let m1 := m.drainAll d c.id fs
  if !m1.drained c.id (fs.map (·.slot)) then (m1, false)
  else m1.release d c.ctx c.core scope stor (c.id, (fs.head?.map (·.slot)).getD 0)

/-! ### Steps -/

/-- A gang parked by an S bit goes on once its fibres' results are all written (R159). -/
def Mach.wakeSwitch (m : Mach) (crew : Nat) : Mach :=
  match m.crew crew with
  | none => m
  | some c =>
    (c.gangs.filter fun g => g.state == .parked .switch && (c.lanes g).all fun f => f.pend.isEmpty).foldl
      (fun m g => m.wakeGang crew g.id) m

/-- The k-th pending result of a fibre written (R156, R157). -/
def resultWrite (crew slot k : Nat) (m : Mach) : Mach :=
  (m.updFibre crew slot fun f =>
    match f.pend[k]? with
    | none => f
    | some p => { f.land1 p with pend := f.pend.eraseIdx k }).wakeSwitch crew

/-- REGISTER_RESULT_WRITE (R156, R157, R159). -/
def execRegisterResultWrite (s : State) : Host.Outcome State Fault Refusal :=
  match s.arg with
  | .registerResultWrite crew slot k => .next { s with m := resultWrite crew slot k s.m }
  | _ => .refused .noOperands

/-- STORE_DRAIN (R122). -/
def execStoreDrain (s : State) : Host.Outcome State Fault Refusal :=
  match s.arg with
  | .storeDrain crew slot => .next { s with m := (s.m.drainOne s.dev crew slot).1 }
  | _ => .refused .noOperands

end Sys2Proof.Machine
end

