-- ==== Sys2Proof/Machine/Ops.lean ====
section
/-! DEFINITION. The operations that instructions share above those of gangs and stores: crew images (R359), taking a trap and
forwarding it (R347 to R351), the check before every instruction (R155), and resuming from a frame (R350). -/

namespace Sys2Proof.Machine

/-! ### Crew images -/

/-- Offset of a fibre slot's block in the crew image, and of its trap frame (R359). -/
def blockOffset (slot : Nat) : Nat := 0xB000 + 128 * slot
def frameOffset (slot : Nat) : Nat := blockOffset slot + 0x40

/-- Bytes of a crew image (R339). -/
def imageSize (limit nregs : Nat) : Nat := linesOffset limit + limit * nregs * 4

/-- The resume format of a program counter (R349). -/
def resumeWord (hdr idx : Nat) : Nat := idx * 2 ^ 60 + hdr % 2 ^ 57 / 8 * 8

/-- Bytes written into the crew image at its physical address (R353). -/
def Mach.imageWrite (m : Mach) (k : Key) (c : Crew) (off : Nat) (bytes : List Byte) : Mach :=
  m.partWriteBytes k .hbm (c.image + off) bytes

def Mach.imageNat (m : Mach) (k : Key) (c : Crew) (off n : Nat) : Nat :=
  leNat ((List.range n).map fun i => m.hbmRead k (c.image + off + i))

/-! ### Traps -/

/-- A field of the context header, read at its physical address (R353). -/
def Mach.headerNat (m : Mach) (d : Dev) (x : Ctx) (off n : Nat) : Nat := m.physNat (d.fnKey x.fn) (x.addr + off) n

/-- One fibre's trap frame (R349) written, v0:1, %tinfo and the mask set (R348). A pre-emption already asked for is latched
(R227). `brk` is where a BREAKPOINT resumes (R224). -/
def Mach.enterLane (m : Mach) (k : Key) (c : Crew) (f : Fibre) (hdr idx code : Nat) (gmask : BitVec 32) (info : Nat)
    (brk : Option (Nat × Nat)) : Mach :=
  let w := f.val 0 2 + info % 2 ^ 64 * 2 ^ 64 + resumeWord hdr idx * 2 ^ 128 + code * 2 ^ 192 + gmask.toNat * 2 ^ 224
  (m.imageWrite k c (frameOffset f.slot) (leBytes 64 w)).updFibre c.id f.slot fun f =>
    { f.setVal 0 2 (c.image + frameOffset f.slot) with
      tinfo := BitVec.ofNat 64 info, masked := true, inHandler := true, brk := brk
      latched := if c.stopping && f.latched.isNone then some (m.clock c.core) else f.latched }

/-- Taking a trap (R347, R348, R351): `mask` takes it at the gang's instruction; the other lanes go on at the next one as a
gang of their own. The takers' stores leave their queues first, so that the frame follows them. Long-latency results of earlier instructions land first (R160). With traps masked in a taking fibre, or
no handler, the trap is forwarded: the gang parks until its ring entry is answered. Otherwise frames, v0:1, %tinfo and masks
are written and the gang goes on at %tvec + 16 × code. -/
def takeTrap (E : Env) (m : Mach) (mask : BitVec 32) (code : Nat) (info : Fibre → Nat) : Mach :=
  match m.crew E.c.id with
  | none => m
  | some c0 =>
    match c0.gang E.g.id with
    | none => m
    | some g0 =>
      let m1 := m.updCrew c0.id fun c => c.mapLanes g0.course g0.mask Fibre.landAll
      let rest := g0.mask &&& ~~~mask
      let m2 := if rest = 0 then m1 else
        let r := m1.splitOff c0.id g0.id rest
        r.1.updGang c0.id r.2 fun g => { g.bump with state := .ready, wake := .none, waited := 0 }
      let taking := c0.lanes { g0 with mask := g0.mask &&& mask }
      let m3 := (m2.unpin E.d E.x.addr c0.id (taking.map (·.slot))).drainAll E.d c0.id taking
      match m3.crew c0.id with
      | none => m3
      | some c =>
        let takers := c.lanes { g0 with mask := g0.mask &&& mask }
        let tvec := m3.headerNat E.d E.x 0x40 8
        let m4 := m3.updCrew c0.id fun c => c.mapLanes g0.course (g0.mask &&& mask) fun f => { f with carry := ⟨none, none⟩ }
        if tvec = 0 ∨ takers.any (·.masked) then
          (m4.parkGang c0.id g0.id .trap .ring).askRing c0.id g0.id (2, code, (takers.head?.map info).getD 0 % 2 ^ 64)
        else
          let n := g0.bump
          let brk := if code = 40 then some (resumeWord g0.hdr g0.idx, resumeWord n.hdr n.idx) else none
          (takers.foldl (fun m f => m.enterLane E.key c f g0.hdr g0.idx code (g0.mask &&& mask) (info f) brk) m4).updGang c0.id g0.id
            fun g => { g.jump (tvec + 16 * code) with state := .ready, wake := .none, sPark := false }

/-- A trap of R146 or R155: every fibre of the gang takes it (R347). -/
def trapAll (E : Env) (m : Mach) (code info : Nat) : Mach := takeTrap E m E.g.mask code fun _ => info

/-- A trap of the active lanes, with the mask of those that failed the check in %tinfo[31:0] (R346). -/
def trapLanes (E : Env) (m : Mach) (e : Enc) (code : Nat) (failed : List Fibre) : Mach :=
  takeTrap E m (maskOf (E.act e)) code fun _ => (maskOf failed).toNat

/-- The check of R155 before an instruction's own meaning: a breach is ILLEGAL_OPERAND in every fibre of the gang, with the
first parcel in %tinfo[31:0]. -/
def checked (e : Enc) (sh : Shape) (F : Env → Mach → Mach) (E : Env) (m : Mach) : Mach :=
  if sh.fits e E.c.nregs then F E m else trapAll E m 2 e.parcel

/-! ### Returning from a trap -/

/-- A clause header read with execute permission (R371); none where it cannot be. -/
def Mach.headerAt (m : Mach) (d : Dev) (x : Ctx) (hdr : Nat) : Option Nat :=
  match m.rangeRuns d x 0 hdr 8 4 false with
  | .ok r => if (runLocs r).any d.unreadable then none else some (leNat ((runLocs r).map (m.homeRead (x.key d))))
  | _ => none

/-- What a look at a resume field finds. -/
inductive Resume where
  | ok
  /-- One of the three breaches of R350. -/
  | bad
  /-- The clause's header is not translated (R373), or cannot be read (R363). -/
  | fault (va cause level : Nat)
  | unreadable
  deriving DecidableEq, Repr

/-- A resume field's check (R350): reserved bits 0, a kind-00 header, and an index within its clause, whose header is read for an index
above 0. -/
def Mach.resumeCheck (m : Mach) (d : Dev) (x : Ctx) (cluster w : Nat) : Resume :=
  if bitsOf w 59 57 ≠ 0 ∨ w % 8 ≠ 0 then .bad
  else if w / 2 ^ 60 % 16 = 0 then .ok
  else
    match m.rangeRuns d x cluster (w % 2 ^ 57) 8 4 false with
    | .fault va c l => .fault va c l
    | .window => .unreadable
    | .ok r =>
      if (runLocs r).any d.unreadable then .unreadable
      else if w / 2 ^ 60 % 16 < headerCount (leNat ((runLocs r).map (m.homeRead (x.key d)))) then .ok else .bad

/-- Whether a resume field can be resumed at once. -/
def Mach.resumeOk (m : Mach) (d : Dev) (x : Ctx) (cluster w : Nat) : Bool := m.resumeCheck d x cluster w == .ok

/-- A gang put at a resume field: at an index above 0 the clause has begun, and its waits are not applied again (R143). A header that
cannot be read yet stands as 0 and is read before the gang issues there. -/
def Mach.resumeAt (m : Mach) (d : Dev) (x : Ctx) (g : Gang) (w : Nat) : Gang :=
  let hdr := w % 2 ^ 57
  let idx := w / 2 ^ 60 % 16
  if idx = 0 then g.jump hdr
  else { g with hdr := hdr, idx := idx, begun := true, header := (m.headerAt d x hdr).getD 0 }

/-- A gang inside a clause whose header is still to be read. -/
def Gang.unread (g : Gang) : Bool := g.begun && g.header == 0

/-- The distinct values that a function takes on the lanes, in order of the lowest lane, with the lanes of each. -/
def groupLanes (h : Fibre → Nat) : List Fibre → List (Nat × BitVec 32)
  | [] => []
  | f :: t =>
    let r := groupLanes h t
    match r.find? fun p => p.1 == h f with
    | some p => (p.1, p.2 ||| (1 <<< f.lane)) :: r.filter fun q => q.1 != h f
    | none => (h f, 1 <<< f.lane) :: r

/-- The gang split by value, each part changed by what its value asks (R26). -/
def Mach.regroup (m : Mach) (crew gang : Nat) (parts : List (Nat × BitVec 32)) (h : Nat → Gang → Gang) : Mach :=
  (parts.foldl (fun m p =>
    let r := m.splitOff crew gang p.2
    r.1.updGang crew r.2 (h p.1)) m)

end Sys2Proof.Machine
end

