-- ==== Sys2Proof/Machine/Flags.lean ====
section
/-! DEFINITION. The conditions and the carry that predicates record (R180, R183), and saturation (R179). -/

namespace Sys2Proof.Machine

/-- ICMP's conditions (R183). -/
def icmpHolds (cond : Nat) (a b : Int) : Bool :=
  match cond with
  | 0 => a == b
  | 1 => a != b
  | 2 => decide (a < b)
  | 3 => decide (a ≤ b)
  | 4 => decide (b < a)
  | _ => decide (b ≤ a)

/-- The carry out of an addition of `w` bits (R180). -/
def carryOut (w a b cin : Nat) : Bool := decide (2 ^ w ≤ a + b + cin)

/-- The ends of the range of an integer type (R177). -/
def minOf (t : ETy) : Int := if t.signed then -((2 ^ (t.bits - 1) : Nat) : Int) else 0
def maxOf (t : ETy) : Int := if t.signed then ((2 ^ (t.bits - 1) : Nat) : Int) - 1 else ((2 ^ t.bits : Nat) : Int) - 1

/-- The sat line of R179. -/
def clampInt (t : ETy) (x : Int) : Int := min (max x (minOf t)) (maxOf t)

end Sys2Proof.Machine
end

