-- ==== Sys2Proof/Machine/Operands.lean ====
section
/-! DEFINITION. The operand forms: registers, pairs and quads at a type, the b operand as register, immediate or literal
(R153, R173, R175), and the frame of an instruction that only works on registers and predicates (R172). -/

namespace Sys2Proof.Machine

/-- The type an instruction names; every meaning runs only where the code is one its entry accepts. -/
def tyOf (e : Enc) : ETy := e.ty.getD .b32

/-- An FP32 bit pattern widened exactly to FP64; a NaN gives the canonical FP64 NaN (R45, R153). -/
def widen32 (n : Nat) : Nat :=
  let s := n / 2 ^ 31 % 2
  let x := n / 2 ^ 23 % 256
  let f := n % 2 ^ 23
  if x = 255 then (if f = 0 then s * 2 ^ 63 + 0x7FF * 2 ^ 52 else 0x7FF8000000000000)
  else if x ≠ 0 then s * 2 ^ 63 + (x + 896) * 2 ^ 52 + f * 2 ^ 29
  else if f = 0 then s * 2 ^ 63
  else
    let p := Nat.log2 f
    s * 2 ^ 63 + (p + 874) * 2 ^ 52 + (f - 2 ^ p) * 2 ^ (52 - p)

/-- An immediate or literal at a type (R153). -/
def immAt (e : Enc) (t : ETy) : Nat :=
  match t with
  | .f64 => widen32 e.imm32
  | .b64 | .s64 | .n64 => sext32 e.imm32
  | _ => e.imm32 % 2 ^ t.bits

/-- The a operand's bits at a type (R173). -/
def aAt (e : Enc) (t : ETy) (f : Fibre) : Nat := f.val e.va t.regs % 2 ^ t.bits

/-- The b operand's bits at a type (R153, R173). -/
def bAt (e : Enc) (t : ETy) (f : Fibre) : Nat := if e.bImm then immAt e t else f.val e.vb t.regs % 2 ^ t.bits

/-- The c operand's bits at a type. -/
def cAt (e : Enc) (t : ETy) (f : Fibre) : Nat := f.val e.vc t.regs % 2 ^ t.bits

/-- The b operand as one 32-bit value (R189, R230, R247, R257). -/
def b32At (e : Enc) (f : Fibre) : Nat := if e.bImm then e.imm32 else f.reg e.vb

/-- The destination written at a type: its registers, with bits above a narrow value 0 (R173). -/
def setD (e : Enc) (t : ETy) (f : Fibre) (v : Nat) : Fibre := f.setVal e.vd t.regs (v % 2 ^ t.bits)

/-- A value of an integer type as an exact integer: Sext for a signed type, Zext for an unsigned one (R177). -/
def extAt (t : ETy) (v : Nat) : Int := if t.signed then toSigned t.bits v else ((v % 2 ^ t.bits : Nat) : Int)

/-- The active lanes of a gang changed. -/
def Crew.mapActive (c : Crew) (g : Gang) (e : Enc) (h : Fibre → Fibre) : Crew :=
  c.mapLanes g.course g.mask fun f => if guardOn e f then h f else f

/-- An instruction that works on the registers, predicates and rounding stream of its own fibres (R172): each active lane
changes by `h`, the gang goes on, and the pipe's clocks pass (R177). -/
def regOp (e : Enc) (cost : Nat) (h : Env → Fibre → Fibre) (E : Env) (m : Mach) : Mach :=
  (m.updCrew E.c.id fun c => (c.mapActive E.g e (h E)).advance E.g.id e).tick E.c.core cost

end Sys2Proof.Machine
end

