-- ==== Sys2Proof/Machine/Shapes.lean ====
section
/-! DEFINITION. Each instruction form with its opcode (R163): its fields as its meaning reads them, its operand shape, its
engine class (R144), and whether it ends a clause (R145). -/

namespace Sys2Proof

/-- The fields of an instruction form; the other steps of the part have none. -/
def Instr.enc : Instr → Option Enc
  | .capture => none
  | .queueEnable => none
  | .dependencePoll => none
  | .launch => none
  | .mark => none
  | .evict => none
  | .reclaim => none
  | .writeback => none
  | .admitCrew => none
  | .priorityAging => none
  | .coadmitWait => none
  | .preemptForPriority => none
  | .crewResume => none
  | .crewRetire => none
  | .completionRecord => none
  | .gangExchange => none
  | .clauseStart => none
  | .registerResultWrite => none
  | .storeDrain => none
  | .regroupBound => none
  | .springTimerExpiry => none
  | .handlerTimeout => none
  | .requestRingWrite => none
  | .responseDoorbell => none
  | .responseDoorbellKill => none
  | .faultDoorbellRetry => none
  | .faultDoorbellError => none
  | .preemptionPreempt => none
  | .preemptionResume => none
  | .invalidation => none
  | .invalidationComplete => none
  | .registerWrite => none
  | .pageWalk => none
  | .nameLookup => none
  | .fetchDone => none
  | .eviction => none
  | .cpaCopyDone => none
  | .transferPacket => none
  | .transferRecordDone => none
  | .postGrant => none
  | .postAge => none
  | .matrixStep => none
  | .postDone => none
  | .cursorStep => none
  | .binReplayRegion => none
  | .gpassUnit => none
  | .fabricAck => none
  | .fabricResponse => none
  | .packetArrival => none
  | .tokenGrant => none
  | .tokenExpiry => none
  | .fabricEventWrite => none
  | .abandonNotice => none
  | .resumeRequest => none
  | .peerContextFetch => none
  | .downstreamAck => none
  | .persistTimeout => none
  | .hostApertureAccess => none
  | .atsInvalidate => none
  | .atsInvalidateTimeout => none
  | .ideIntegrityFailure => none
  | .tdispMessage => none
  | .getVersion => none
  | .getCapabilities => none
  | .negotiateAlgorithms => none
  | .getDigests => none
  | .getCertificate => none
  | .challenge => none
  | .getMeasurements => none
  | .keyExchange => none
  | .finish => none
  | .endSession => none
  | .openWorld => none
  | .seal => none
  | .scrub => none
  | .scrubExecute => none
  | .flr => none
  | .singlePartFault => none
  | .portLinkTraining => none
  | .nodeNumberWrite => none
  | .powerCapSet => none
  | .powerCapReached => none
  | .junctionOverLimit => none
  | .junctionShutdown => none
  | .powerLoss => none
  | .powerOn => none
  | .packageReset => none
  | .bootStep => none
  | .faultQueueWrite => none
  | .hostLinkTraining => none
  | .ideKeyManagement => none
  | .pullTokenArrival => none
  | .downstreamLinkDown => none
  | .powerBelowCap => none
  | .junctionRecovered => none
  | .iaddW f => some (f.enc 0x000)
  | .iaddL f => some (f.enc 0x000)
  | .iaddcW f => some (f.enc 0x001)
  | .iaddcL f => some (f.enc 0x001)
  | .isubW f => some (f.enc 0x002)
  | .isubL f => some (f.enc 0x002)
  | .imulW f => some (f.enc 0x003)
  | .imulL f => some (f.enc 0x003)
  | .imulhW f => some (f.enc 0x004)
  | .imulhL f => some (f.enc 0x004)
  | .imadW f => some (f.enc 0x005)
  | .imadL f => some (f.enc 0x005)
  | .imadwW f => some (f.enc 0x006)
  | .imadwL f => some (f.enc 0x006)
  | .idivW f => some (f.enc 0x007)
  | .idivL f => some (f.enc 0x007)
  | .iremW f => some (f.enc 0x008)
  | .iremL f => some (f.enc 0x008)
  | .inegC f => some (f.enc 0x009)
  | .inegW f => some (f.enc 0x009)
  | .iabsC f => some (f.enc 0x00A)
  | .iabsW f => some (f.enc 0x00A)
  | .iminW f => some (f.enc 0x00B)
  | .iminL f => some (f.enc 0x00B)
  | .imaxW f => some (f.enc 0x00C)
  | .imaxL f => some (f.enc 0x00C)
  | .icmpW f => some (f.enc 0x00D)
  | .icmpL f => some (f.enc 0x00D)
  | .iselW f => some (f.enc 0x00E)
  | .iselL f => some (f.enc 0x00E)
  | .leaW f => some (f.enc 0x00F)
  | .leaL f => some (f.enc 0x00F)
  | .movC f => some (f.enc 0x010)
  | .movW f => some (f.enc 0x010)
  | .moviW f => some (f.enc 0x011)
  | .moviL f => some (f.enc 0x011)
  | .movsC f => some (f.enc 0x012)
  | .movsW f => some (f.enc 0x012)
  | .andW f => some (f.enc 0x040)
  | .andL f => some (f.enc 0x040)
  | .orW f => some (f.enc 0x041)
  | .orL f => some (f.enc 0x041)
  | .xorW f => some (f.enc 0x042)
  | .xorL f => some (f.enc 0x042)
  | .notC f => some (f.enc 0x043)
  | .notW f => some (f.enc 0x043)
  | .andnW f => some (f.enc 0x044)
  | .andnL f => some (f.enc 0x044)
  | .lop3W f => some (f.enc 0x045)
  | .lop3L f => some (f.enc 0x045)
  | .shlW f => some (f.enc 0x046)
  | .shlL f => some (f.enc 0x046)
  | .shrW f => some (f.enc 0x047)
  | .shrL f => some (f.enc 0x047)
  | .sarW f => some (f.enc 0x048)
  | .sarL f => some (f.enc 0x048)
  | .rolW f => some (f.enc 0x049)
  | .rolL f => some (f.enc 0x049)
  | .rorW f => some (f.enc 0x04A)
  | .rorL f => some (f.enc 0x04A)
  | .shfW f => some (f.enc 0x04B)
  | .shfL f => some (f.enc 0x04B)
  | .bfxW f => some (f.enc 0x04C)
  | .bfxL f => some (f.enc 0x04C)
  | .bfiW f => some (f.enc 0x04D)
  | .bfiL f => some (f.enc 0x04D)
  | .popcC f => some (f.enc 0x04E)
  | .popcW f => some (f.enc 0x04E)
  | .lzcC f => some (f.enc 0x04F)
  | .lzcW f => some (f.enc 0x04F)
  | .tzcC f => some (f.enc 0x050)
  | .tzcW f => some (f.enc 0x050)
  | .fnsW f => some (f.enc 0x051)
  | .fnsL f => some (f.enc 0x051)
  | .brevC f => some (f.enc 0x052)
  | .brevW f => some (f.enc 0x052)
  | .plog f => some (f.enc 0x053)
  | .pmovC f => some (f.enc 0x054)
  | .pmovW f => some (f.enc 0x054)
  | .faddW f => some (f.enc 0x080)
  | .faddL f => some (f.enc 0x080)
  | .fsubW f => some (f.enc 0x081)
  | .fsubL f => some (f.enc 0x081)
  | .fmulW f => some (f.enc 0x082)
  | .fmulL f => some (f.enc 0x082)
  | .ffmaW f => some (f.enc 0x083)
  | .ffmaL f => some (f.enc 0x083)
  | .fminW f => some (f.enc 0x084)
  | .fminL f => some (f.enc 0x084)
  | .fmaxW f => some (f.enc 0x085)
  | .fmaxL f => some (f.enc 0x085)
  | .fcmpW f => some (f.enc 0x086)
  | .fcmpL f => some (f.enc 0x086)
  | .fclass f => some (f.enc 0x087)
  | .frcp f => some (f.enc 0x088)
  | .frsq f => some (f.enc 0x089)
  | .fsqrt f => some (f.enc 0x08A)
  | .fexp2 f => some (f.enc 0x08B)
  | .flog2 f => some (f.enc 0x08C)
  | .fsin f => some (f.enc 0x08D)
  | .fcos f => some (f.enc 0x08E)
  | .ftanh f => some (f.enc 0x08F)
  | .cvt f => some (f.enc 0x090)
  | .shflW f => some (f.enc 0x0C0)
  | .shflL f => some (f.enc 0x0C0)
  | .pushlW f => some (f.enc 0x0C1)
  | .pushlL f => some (f.enc 0x0C1)
  | .xred f => some (f.enc 0x0C2)
  | .xscan f => some (f.enc 0x0C3)
  | .vote f => some (f.enc 0x0C4)
  | .matchLanes f => some (f.enc 0x0C5)
  | .elect f => some (f.enc 0x0C6)
  | .braW f => some (f.enc 0x0D0)
  | .braL f => some (f.enc 0x0D0)
  | .brx f => some (f.enc 0x0D1)
  | .callW f => some (f.enc 0x0D2)
  | .callL f => some (f.enc 0x0D2)
  | .retC f => some (f.enc 0x0D3)
  | .retW f => some (f.enc 0x0D3)
  | .regroupW f => some (f.enc 0x0D4)
  | .regroupL f => some (f.enc 0x0D4)
  | .yieldGang f => some (f.enc 0x0D5)
  | .spawnW f => some (f.enc 0x0D6)
  | .spawnL f => some (f.enc 0x0D6)
  | .fexitC f => some (f.enc 0x0D7)
  | .fexitW f => some (f.enc 0x0D7)
  | .nop f => some (f.enc 0x0D8)
  | .bkptC f => some (f.enc 0x0D9)
  | .bkptW f => some (f.enc 0x0D9)
  | .svcC f => some (f.enc 0x0DA)
  | .svcW f => some (f.enc 0x0DA)
  | .tret f => some (f.enc 0x0DB)
  | .tmaskC f => some (f.enc 0x0DC)
  | .tmaskW f => some (f.enc 0x0DC)
  | .ldW f => some (f.enc 0x100)
  | .ldL f => some (f.enc 0x100)
  | .stW f => some (f.enc 0x101)
  | .stL f => some (f.enc 0x101)
  | .ldsW f => some (f.enc 0x102)
  | .ldsL f => some (f.enc 0x102)
  | .stsW f => some (f.enc 0x103)
  | .stsL f => some (f.enc 0x103)
  | .prefW f => some (f.enc 0x104)
  | .prefL f => some (f.enc 0x104)
  | .ldnW f => some (f.enc 0x110)
  | .ldnL f => some (f.enc 0x110)
  | .stnW f => some (f.enc 0x111)
  | .stnL f => some (f.enc 0x111)
  | .peq f => some (f.enc 0x112)
  | .paddW f => some (f.enc 0x113)
  | .paddL f => some (f.enc 0x113)
  | .pdiff f => some (f.enc 0x114)
  | .pname f => some (f.enc 0x115)
  | .psize f => some (f.enc 0x116)
  | .pres f => some (f.enc 0x117)
  | .atomW f => some (f.enc 0x140)
  | .atomL f => some (f.enc 0x140)
  | .atomrW f => some (f.enc 0x141)
  | .atomrL f => some (f.enc 0x141)
  | .fence f => some (f.enc 0x142)
  | .xfence f => some (f.enc 0x143)
  | .pfenceC f => some (f.enc 0x144)
  | .pfenceW f => some (f.enc 0x144)
  | .cpaW f => some (f.enc 0x150)
  | .cpaL f => some (f.enc 0x150)
  | .cpsealC f => some (f.enc 0x151)
  | .cpsealW f => some (f.enc 0x151)
  | .cpwaitC f => some (f.enc 0x152)
  | .cpwaitW f => some (f.enc 0x152)
  | .xfer f => some (f.enc 0x153)
  | .xstat f => some (f.enc 0x154)
  | .ginitW f => some (f.enc 0x160)
  | .ginitL f => some (f.enc 0x160)
  | .garriveW f => some (f.enc 0x161)
  | .garriveL f => some (f.enc 0x161)
  | .gexpectW f => some (f.enc 0x162)
  | .gexpectL f => some (f.enc 0x162)
  | .gwait f => some (f.enc 0x163)
  | .gread f => some (f.enc 0x164)
  | .gfree f => some (f.enc 0x165)
  | .mmaW f => some (f.enc 0x180)
  | .mmasW f => some (f.enc 0x181)
  | .bldW f => some (f.enc 0x182)
  | .bldL f => some (f.enc 0x182)
  | .azero f => some (f.enc 0x183)
  | .ard f => some (f.enc 0x184)
  | .astoreW f => some (f.enc 0x185)
  | .astoreL f => some (f.enc 0x185)
  | .astzW f => some (f.enc 0x186)
  | .astzL f => some (f.enc 0x186)
  | .cvtqW f => some (f.enc 0x187)
  | .cvtqL f => some (f.enc 0x187)
  | .dqW f => some (f.enc 0x188)
  | .dqL f => some (f.enc 0x188)
  | .tchkW f => some (f.enc 0x189)
  | .tchkL f => some (f.enc 0x189)
  | .ceopen f => some (f.enc 0x1C0)
  | .cerun f => some (f.enc 0x1C1)
  | .cesplit f => some (f.enc 0x1C2)
  | .cesaveW f => some (f.enc 0x1C3)
  | .cesaveL f => some (f.enc 0x1C3)
  | .celoadW f => some (f.enc 0x1C4)
  | .celoadL f => some (f.enc 0x1C4)
  | .cestat f => some (f.enc 0x1C5)
  | .ceclose f => some (f.enc 0x1C6)
  | .binitW f => some (f.enc 0x1D0)
  | .binitL f => some (f.enc 0x1D0)
  | .bapp f => some (f.enc 0x1D1)
  | .breplay f => some (f.enc 0x1D2)
  | .bstat f => some (f.enc 0x1D3)
  | .gpassW f => some (f.enc 0x1F0)
  | .gpassL f => some (f.enc 0x1F0)

/-- The operand shape of an instruction (R155 step 3), by its opcode. -/
def shapeOf (e : Enc) : Shape :=
  match e.op with
  | 0x000 => shInt intTypes true e
  | 0x001 => shIaddc e
  | 0x002 => shInt intTypes true e
  | 0x003 => shInt intTypes false e
  | 0x004 => shInt intTypes false e
  | 0x005 => shImad e
  | 0x006 => shImadw e
  | 0x007 => shInt intTypes false e
  | 0x008 => shInt intTypes false e
  | 0x009 => shUnary [.s32, .s64] true e
  | 0x00A => shUnary [.s32, .s64] true e
  | 0x00B => shInt intTypes false e
  | 0x00C => shInt intTypes false e
  | 0x00D => shIcmp e
  | 0x00E => shIsel e
  | 0x00F => shLea e
  | 0x010 => shMov e
  | 0x011 => shMovi e
  | 0x012 => shMovs e
  | 0x040 => shInt bitTypes false e
  | 0x041 => shInt bitTypes false e
  | 0x042 => shInt bitTypes false e
  | 0x043 => shUnary bitTypes false e
  | 0x044 => shInt bitTypes false e
  | 0x045 => shLop3 e
  | 0x046 => shShift e
  | 0x047 => shShift e
  | 0x048 => shShift e
  | 0x049 => shShift e
  | 0x04A => shShift e
  | 0x04B => shShf e
  | 0x04C => shBfx e
  | 0x04D => shBfi e
  | 0x04E => shCount e
  | 0x04F => shCount e
  | 0x050 => shCount e
  | 0x051 => shFns e
  | 0x052 => shUnary bitTypes false e
  | 0x053 => shPlog e
  | 0x054 => shPmov e
  | 0x080 => shFlt pckTypes e
  | 0x081 => shFlt fltTypes e
  | 0x082 => shFlt pckTypes e
  | 0x083 => shFfma e
  | 0x084 => shFmin e
  | 0x085 => shFmin e
  | 0x086 => shFcmp e
  | 0x087 => shFclass e
  | 0x088 => shSpecial [.f32, .f64] true e
  | 0x089 => shSpecial [.f32] false e
  | 0x08A => shSpecial [.f32, .f64] true e
  | 0x08B => shSpecial [.f32] false e
  | 0x08C => shSpecial [.f32] false e
  | 0x08D => shSpecial [.f32] false e
  | 0x08E => shSpecial [.f32] false e
  | 0x08F => shSpecial [.f32] false e
  | 0x090 => shCvt e
  | 0x0C0 => shShfl e
  | 0x0C1 => shShfl e
  | 0x0C2 => shRed false e
  | 0x0C3 => shRed true e
  | 0x0C4 => shVote e
  | 0x0C5 => shMatch e
  | 0x0C6 => shElect e
  | 0x0D0 => shBra e
  | 0x0D1 => shBrx e
  | 0x0D2 => shCall e
  | 0x0D3 => shBrx e
  | 0x0D4 => shRegroup e
  | 0x0D5 => shZero e
  | 0x0D6 => shSpawn e
  | 0x0D7 => shZero e
  | 0x0D8 => shZero e
  | 0x0D9 => shBkpt e
  | 0x0DA => shSvc e
  | 0x0DB => shZero e
  | 0x0DC => shTmask e
  | 0x100 => shLd true false e
  | 0x101 => shLd false true e
  | 0x102 => shLds true false e
  | 0x103 => shLds false true e
  | 0x104 => shPref e
  | 0x110 => shLdn true false e
  | 0x111 => shLdn false true e
  | 0x112 => shPeq e
  | 0x113 => shPadd e
  | 0x114 => shPdiff e
  | 0x115 => shPname e
  | 0x116 => shPsize e
  | 0x117 => shPres e
  | 0x140 => shAtom true e
  | 0x141 => shAtom false e
  | 0x142 => shFence e
  | 0x143 => shXfence e
  | 0x144 => shZero e
  | 0x150 => shCpa e
  | 0x151 => shCpseal e
  | 0x152 => shCpwait e
  | 0x153 => shXfer e
  | 0x154 => shXstat e
  | 0x160 => shGauge true e
  | 0x161 => shGauge false e
  | 0x162 => shGauge false e
  | 0x163 => shGauge false e
  | 0x164 => shGread e
  | 0x165 => shGfree e
  | 0x180 => shMma false e
  | 0x181 => shMma true e
  | 0x182 => shBld e
  | 0x183 => shAzero e
  | 0x184 => shArd e
  | 0x185 => shAstore e
  | 0x186 => shAstore e
  | 0x187 => shCvtq e
  | 0x188 => shDq e
  | 0x189 => shTchk e
  | 0x1C0 => shCeopen e
  | 0x1C1 => shCerun e
  | 0x1C2 => shCesplit e
  | 0x1C3 => shCesave e
  | 0x1C4 => shCesave e
  | 0x1C5 => shCestat e
  | 0x1C6 => shCeclose e
  | 0x1D0 => shBinit e
  | 0x1D1 => shBapp e
  | 0x1D2 => shBreplay e
  | 0x1D3 => shBstat e
  | 0x1F0 => shGpass e
  | _ => ⟨false, []⟩

/-- The opcodes of each form (R163). -/
def cOpcodes : List Nat :=
  [0x009, 0x00A, 0x010, 0x012, 0x043, 0x04E, 0x04F, 0x050, 0x052, 0x054, 0x0D3, 0x0D5, 0x0D7, 0x0D8, 0x0D9, 0x0DA,
   0x0DB, 0x0DC, 0x144, 0x151, 0x152]

def wOpcodes : List Nat :=
  [0x000, 0x001, 0x002, 0x003, 0x004, 0x005, 0x006, 0x007, 0x008, 0x009, 0x00A, 0x00B, 0x00C, 0x00D, 0x00E, 0x00F,
   0x010, 0x011, 0x012, 0x040, 0x041, 0x042, 0x043, 0x044, 0x045, 0x046, 0x047, 0x048, 0x049, 0x04A, 0x04B, 0x04C,
   0x04D, 0x04E, 0x04F, 0x050, 0x051, 0x052, 0x053, 0x054, 0x080, 0x081, 0x082, 0x083, 0x084, 0x085, 0x086, 0x087,
   0x088, 0x089, 0x08A, 0x08B, 0x08C, 0x08D, 0x08E, 0x08F, 0x090, 0x0C0, 0x0C1, 0x0C2, 0x0C3, 0x0C4, 0x0C5, 0x0C6,
   0x0D0, 0x0D1, 0x0D2, 0x0D3, 0x0D4, 0x0D6, 0x0D7, 0x0D9, 0x0DA, 0x0DC, 0x100, 0x101, 0x102, 0x103, 0x104, 0x110,
   0x111, 0x112, 0x113, 0x114, 0x115, 0x116, 0x117, 0x140, 0x141, 0x142, 0x143, 0x144, 0x150, 0x151, 0x152, 0x153,
   0x154, 0x160, 0x161, 0x162, 0x163, 0x164, 0x165, 0x180, 0x181, 0x182, 0x183, 0x184, 0x185, 0x186, 0x187, 0x188,
   0x189, 0x1C0, 0x1C1, 0x1C2, 0x1C3, 0x1C4, 0x1C5, 0x1C6, 0x1D0, 0x1D1, 0x1D2, 0x1D3, 0x1F0]

def lOpcodes : List Nat :=
  [0x000, 0x001, 0x002, 0x003, 0x004, 0x005, 0x006, 0x007, 0x008, 0x00B, 0x00C, 0x00D, 0x00E, 0x00F, 0x011, 0x040,
   0x041, 0x042, 0x044, 0x045, 0x046, 0x047, 0x048, 0x049, 0x04A, 0x04B, 0x04C, 0x04D, 0x051, 0x080, 0x081, 0x082,
   0x083, 0x084, 0x085, 0x086, 0x0C0, 0x0C1, 0x0D0, 0x0D2, 0x0D4, 0x0D6, 0x100, 0x101, 0x102, 0x103, 0x104, 0x110,
   0x111, 0x113, 0x140, 0x141, 0x150, 0x160, 0x161, 0x162, 0x182, 0x185, 0x186, 0x187, 0x188, 0x189, 0x1C3, 0x1C4,
   0x1D0, 0x1F0]

/-- The engine class of an assigned opcode: the header bit that must be set (R144, R163). An unassigned opcode counts as
class A (R164). -/
def classBit (op : Nat) : Nat :=
  if (0x0D0 ≤ op ∧ op ≤ 0x0DC) then 13
  else if (0x100 ≤ op ∧ op ≤ 0x104) ∨ (0x110 ≤ op ∧ op ≤ 0x117) ∨ (0x140 ≤ op ∧ op ≤ 0x144) ∨ (0x150 ≤ op ∧ op ≤ 0x154)
      ∨ (0x160 ≤ op ∧ op ≤ 0x165) then 11
  else if (0x180 ≤ op ∧ op ≤ 0x189) ∨ (0x1C0 ≤ op ∧ op ≤ 0x1C6) ∨ (0x1D0 ≤ op ∧ op ≤ 0x1D3) ∨ op = 0x1F0 then 12
  else 10

/-- The instructions that end a clause: BRA, BRX, CALL, RET, REGROUP, YIELD, FEXIT and TRET (R145). -/
def endsClause (op : Nat) : Bool :=
  [0x0D0, 0x0D1, 0x0D2, 0x0D3, 0x0D4, 0x0D5, 0x0D7, 0x0DB].contains op

end Sys2Proof
end

