-- ==== Sys2Proof/Machine/LoadStore.lean ====
section
/-! DEFINITION. The checks that memory instructions make lane by lane in the order of R231, and loads, stores and prefetches
(R229 to R236). -/

namespace Sys2Proof.Machine

/-! ### Addresses and checks -/

/-- A buffer record of the launch's pool (R168), read whole, or why it cannot be read. -/
def Mach.record (m : Mach) (E : Env) (errorPage : Option Nat) (n : Nat) : Nat ⊕ LaneRes :=
  match m.rangeRuns E.d E.x E.cluster (E.l.field 196 145 * 32 + 32 * n) 32 1 false with
  | .fault va c l => .inr (if errorPage == some (pageOf va) then .trap 50 12 0 else .fault va c l 1)
  | .window => .inr (.trap 51 11 0)
  | .ok runs =>
    if (runLocs runs).any E.d.unreadable then .inr (.trap 52 13 0)
    else .inl (leNat ((runLocs runs).map (m.homeRead E.key)))

/-- Records that the launch's pool holds (R329); naming one beyond is ILLEGAL_OPERAND (R168). -/
def Env.records (E : Env) : Nat := E.l.field 144 136

def recordClass (r : Nat) : Cls :=
  match r % 8 with
  | 1 => .g
  | 2 => .n
  | 3 => .h
  | 4 => .f
  | _ => .p

/-- The class of a buffer record is its accesses' (R117). -/
def LaneRes.withClass (c : Cls) : LaneRes → LaneRes
  | .ok a => .ok { a with cls := c }
  | r => r

/-- A lane's address in the modes of R230 and its checks (R231), with `index` and `disp` as signed numbers. BUFFER_READONLY (R167) comes
last in step 1, behind BUFFER_BOUNDS (log entry 85). -/
def Mach.memLane (m : Mach) (E : Env) (amode va : Nat) (disp : Int) (n : Nat) (w : Want) (f : Fibre) : LaneRes :=
  if amode < 2 then
    let base := if amode = 0 then f.reg va else f.val va 2
    m.deref E.d (E.xOf f) E.cluster f.carry w (wrap 64 ((base : Int) + disp)) none none
  else
    match m.record { E with x := E.xOf f } f.carry.errorPage n with
    | .inr r => r
    | .inl r =>
      let off : Int := (if amode = 2 then (f.reg va : Int) else 0) + disp
      let size := bitsOf r 104 64
      if !recordOk r then .trap 10 6 0
      else if size = 0 ∨ 2 ^ 40 < size ∨ off < 0 ∨ (size : Int) < off + (w.width : Int) then .trap 11 7 0
      else if permits w.access 2 && bitOf r 3 then .trap 12 8 0
      else
        (m.deref E.d (E.xOf f) E.cluster f.carry w (wrap 64 ((bitsOf r 191 128 : Int) + off)) (some (bitOf r 4, bitsOf r 15 8))
          (some (bitsOf r 191 128))).withClass (recordClass r)

/-- A scratchpad access of a crew (R105, R230): alignment first, then bounds. -/
def scratchLane (c : Crew) (a : Int) (width align : Nat) : LaneRes :=
  if a % (align : Int) ≠ 0 then .trap 10 9 (wrap 32 a)
  else if a < 0 ∨ (c.scrSize : Int) < a + (width : Int) then .trap 11 10 (wrap 32 a)
  else
    .ok ⟨[⟨⟨.scr, c.core * 2 ^ 18 + c.scrBase + a.toNat⟩, width, .s, none, 0⟩], .s, false, 0, a.toNat, none, 0, none, none⟩

/-- The trap that an instruction takes: the earliest check that any active lane fails (R231). -/
def worst : List (Fibre × LaneRes) → Option (Nat × Nat)
  | [] => none
  | (_, .trap rank code _) :: t =>
    match worst t with
    | some (r, c) => if r < rank then some (r, c) else some (rank, code)
    | none => some (rank, code)
  | _ :: t => worst t

/-- The lanes that failed a check, with the word each reports. -/
def failedAt (rank code : Nat) (l : List (Fibre × LaneRes)) : List (Fibre × Nat) :=
  l.filterMap fun p =>
    match p.2 with
    | .trap r c i => if r = rank ∧ c = code then some (p.1, i) else none
    | _ => none

/-- %tinfo of such a trap: the mask of the failed lanes, and for a scratchpad check the lowest one's address (R105, R346). -/
def failInfo (code : Nat) (l : List (Fibre × Nat)) : Nat :=
  (maskOf (l.map (·.1))).toNat + if code = 9 ∨ code = 10 then ((l.head?.map (·.2)).getD 0) * 2 ^ 32 else 0

def oks (l : List (Fibre × LaneRes)) : List (Fibre × Acc) :=
  l.filterMap fun p => match p.2 with | .ok a => some (p.1, a) | _ => none

/-- What a parked lane waits on. -/
inductive ParkKey where
  | token (t : Nat)
  | slot (n : Nat)
  | size (n : Nat)
  deriving DecidableEq, Repr

/-- Fault records raised and slots touched for the lanes that park, each lane with what it waits on (R85, R374). -/
def Mach.parkKeys (m : Mach) (E : Env) : List (Fibre × LaneRes) → Mach × List (ParkKey × BitVec 32)
  | [] => (m, [])
  | (f, r) :: t =>
    match r with
    | .fault va c l a =>
      let p := m.raiseFault E.d E.x E.c.core (.lane E.c.id f.slot) va c l a
      let q := Mach.parkKeys p.1 E t
      (q.1, (.token p.2, 1 <<< f.lane) :: q.2)
    | .object n x =>
      let q := Mach.parkKeys (m.waitSlot E.d E.x.addr n x [(E.c.id, f.slot)]) E t
      (q.1, (.slot n, 1 <<< f.lane) :: q.2)
    | .lookup n =>
      let q := Mach.parkKeys (m.waitSize E.d E.x.addr n (E.c.id, f.slot)) E t
      (q.1, (.size n, 1 <<< f.lane) :: q.2)
    | _ => Mach.parkKeys m E t

/-- Lanes that wait on one thing, gathered. -/
def gatherKeys : List (ParkKey × BitVec 32) → List (ParkKey × BitVec 32)
  | [] => []
  | (k, b) :: t =>
    let r := gatherKeys t
    (k, r.foldl (fun a p => if p.1 = k then a ||| p.2 else a) b) :: r.filter fun p => p.1 ≠ k

/-- The lanes that must wait leave the gang, a gang for each thing waited on (R15, R26). -/
def Mach.parkAll (m : Mach) (E : Env) (rs : List (Fibre × LaneRes)) : Mach :=
  let p := m.parkKeys E rs
  (gatherKeys p.2).foldl
    (fun m k =>
      match k.1 with
      | .token t => m.parkLanes E.c.id E.g.id k.2 .translation (.fault t)
      | .size n => m.parkLanes E.c.id E.g.id k.2 .object (.lookup n)
      | .slot n =>
        let m1 := m.parkLanes E.c.id E.g.id k.2 .object (.object n)
        if ((m1.ctx E.x.addr).slot n).any (fun s => s.state == 4 && s.cls == 0) then m1.wakeObject E.x.addr n false else m1)
    p.1

/-- Lanes that have executed: they carry nothing on, and no slot counts them any more (R91). -/
def Mach.settleLanes (m : Mach) (E : Env) (fs : List Fibre) : Mach :=
  let slots := fs.map (·.slot)
  (m.unpin E.d E.x.addr E.c.id slots).updCrew E.c.id fun c =>
    c.mapLanes E.g.course (maskOf fs) fun f => { f with carry := ⟨none, none⟩ }

/-- Whether a lane parks. -/
def LaneRes.parks : LaneRes → Bool
  | .fault .. | .object .. | .lookup _ => true
  | _ => false

/-- The lanes that park. -/
def parkMask (rs : List (Fibre × LaneRes)) : BitVec 32 := maskOf ((rs.filter fun p => p.2.parks).map (·.1))

/-- Whether some lane of the gang does not park. -/
def anyStays (E : Env) (rs : List (Fibre × LaneRes)) : Bool := E.g.mask &&& ~~~parkMask rs != 0

/-- An instruction by its lanes' checks (R15, R160, R231): the one trap of all lanes; or the effect in the lanes that passed,
the others parked, and what is left of the gang ended by `fin`. -/
def byLanes (e : Enc) (rs : List (Fibre × LaneRes)) (eff : List (Fibre × Acc) → Mach → Mach) (fin : Mach → Mach) (E : Env)
    (m : Mach) : Mach :=
  match worst rs with
  | some (rank, code) =>
    takeTrap E m (maskOf (E.act e)) code fun _ => failInfo code (failedAt rank code rs)
  | none =>
    let m1 := (eff (oks rs) m).settleLanes E ((oks rs).map (·.1))
    let m2 := m1.parkAll E rs
    if anyStays E rs then fin m2 else m2

/-- An instruction some of whose lanes ask the owner of fabric bytes: its last checks are the responses (R160), so that the lanes that
would park stay until those are in (R15). -/
def askLanes (e : Enc) (rs : List (Fibre × LaneRes)) (send : BitVec 32 → List (Fibre × Acc) → Mach → Mach) (E : Env) (m : Mach) : Mach :=
  byLanes e (rs.filter fun p => !p.2.parks) (send (parkMask rs)) id E m

/-- Results of a long-latency instruction, lane by lane (R156). -/
def Mach.pendLanes (m : Mach) (E : Env) (eng : Bool) (vd n : Nat) (l : List (Fibre × Nat)) : Mach :=
  let m1 := l.foldl (fun m p => m.updFibre E.c.id p.1.slot fun f => f.pendVal eng m.nextId vd n p.2) m
  { m1 with nextId := m1.nextId + 1 }

def Mach.pendPreds (m : Mach) (E : Env) (eng : Bool) (pd : Nat) (l : List (Fibre × Bool)) : Mach :=
  let m1 := l.foldl (fun m p => m.updFibre E.c.id p.1.slot fun f => f.pendPred eng m.nextId pd p.2) m
  { m1 with nextId := m1.nextId + 1 }

/-! ### Loads -/

/-- The places and bytes that a store writes. -/
def StoreKind.cells : StoreKind → List (Loc × Byte)
  | .bytes cells => cells
  | .fabric node rk off data => (fabLocs node rk off data.length).zip data

/-- The newest value that a fibre's own queue holds of a byte (R122). -/
def queued (l : List StoreEntry) (loc : Loc) : Option Byte :=
  l.foldl (fun r s => match s.kind.cells.find? fun p => p.1 == loc with | some p => some p.2 | none => r) none

/-- A lane's bytes, read at the point of a scope (R121): what the fibre's own queue holds of them, over what the caches and the home
give (R122). -/
def Mach.readAcc (m : Mach) (E : Env) (scope : Nat) (f : Fibre) (a : Acc) : List Byte :=
  let locs := runLocs a.runs
  let below := match a.fab with
    | some _ => (m.fabCopies E.c.core scope E.key locs).getD (List.replicate locs.length 0)
    | none => locs.map (m.peek E.c.core (pointOf scope) E.key)
  (locs.zip below).map fun p => (queued f.stores p.1).getD p.2

/-- A copy touched by an access (R88: the oldest touch leaves first). -/
def Mach.touchSlots (m : Mach) (ctx : Nat) (l : List (Fibre × Acc)) : Mach :=
  let ns := l.filterMap fun p => p.2.object.map (·.1)
  if ns = [] then m
  else
    let x := m.ctx ctx
    { m.setCtx { x with slots := x.slots.map fun s => if ns.contains s.n then { s with touched := m.nextId } else s } with
      nextId := m.nextId + 1 }

/-- The value of a load in its register, pair or quad (R234). -/
def loadValue (t : ETy) (v : Nat) : Nat := if t = .s8 ∨ t = .s16 then wrap 32 (toSigned t.bits v) else v

/-- The scopes of an acquire, the access's own class covered (R119). -/
def acqOf (e : Enc) (a : Acc) : Option (Nat × Nat) :=
  if e.ord = 1 then some (e.scope, Nat.lor e.stor (2 ^ a.cls.bit)) else none

/-- The discard that follows an acquire's reads (R126). -/
def Mach.acquire (m : Mach) (core : Nat) (l : List (Option (Nat × Nat))) : Mach :=
  l.foldl (fun (m : Mach) (o : Option (Nat × Nat)) => match o with | some p => m.discard core p.1 p.2 | none => m) m

/-- Whether a lane's fabric read has its bytes below their owner at a scope (R120 to R122): in the fibre's own queue, or in one of the
caches. -/
def Mach.fabServed (m : Mach) (E : Env) (scope : Nat) (f : Fibre) (a : Acc) : Bool :=
  (m.fabCopies E.c.core scope E.key (runLocs a.runs)).isSome
    || decide (scope ≤ 2) && (runLocs a.runs).all fun l => (queued f.stores l).isSome

/-- Whether a fabric read that must go to the owner waits first: for a write of its cluster on its way to one of its bytes, and for a
store of the fibre that is still queued (R122, R123). -/
def Mach.fabAwaits (m : Mach) (E : Env) (scope : Nat) (f : Fibre) (a : Acc) : Bool :=
  a.fab.isSome && !m.fabServed E scope f a && (runLocs a.runs).any fun l => m.onItsWay E.cluster l || (queued f.stores l).isSome

/-- Whether some lane's read must be sent to a fabric owner. -/
def Mach.anySent (m : Mach) (E : Env) (scope : Nat) (l : List (Fibre × Acc)) : Bool :=
  l.any fun p => p.2.fab.isSome && !m.fabServed E scope p.1 p.2

/-- A read sent to the owner of fabric bytes; at bas and above the copies below go (R121). -/
def Mach.sendLoad (m : Mach) (E : Env) (e : Enc) (type width : Nat) (f : Fibre) (a : Acc) (node rk off : Nat) : Mach :=
  let locs := fabLocs node rk off width
  let m1 := if 3 ≤ e.scope then m.fabDrop E.c.core locs else m
  let id := m1.nextId
  let m2 := m1.sendFab E.d E.c.id E.g.id f.slot node rk off [] width (.load e.vd type e.s (acqOf e a))
  let level := if e.scope ≤ 1 then 1 else if e.scope = 2 then 2 else 0
  { m2 with fabOut := m2.fabOut.map fun o => if o.id == id then { o with fill := level } else o }

/-- An answer that a lane of memory, or one that a copy serves, has at once. -/
def Mach.answerLoad (m : Mach) (E : Env) (width : Nat) (slot : Nat) (kind : OutKind) (b : List Byte) : Mach :=
  { m with
    fabOut := m.fabOut ++ [⟨m.nextId, E.c.id, E.g.id, slot, 0, 0, 0, width, kind, E.c.core, E.x.fn, 0, [], width, [], [], some (false, b)⟩]
    nextId := m.nextId + 1 }

/-- A gang waits for the answers to the requests that an instruction of it has just made. -/
def Mach.awaitFabric (old m : Mach) (E : Env) (later : BitVec 32) : Mach :=
  m.updGang E.c.id E.g.id fun g =>
    { g with state := .stalled, wake := .fabric ((List.range (m.nextId - old.nextId)).map (old.nextId + ·)) later }

/-- Loads of which some lane asks the owner of fabric bytes: every lane's part is held until all responses are there (R138,
R160). -/
def Mach.sendLoads (m : Mach) (E : Env) (e : Enc) (type width : Nat) (later : BitVec 32) (l : List (Fibre × Acc)) : Mach :=
  let m1 := l.foldl (fun m p =>
    match p.2.fab, m.fabServed E e.scope p.1 p.2 with
    | some (node, rk, off), false => m.sendLoad E e type width p.1 p.2 node rk off
    | _, _ =>
      let m0 := m.raiseAll E.c.core e.scope p.2.cls (runLocs p.2.runs)
      m0.answerLoad E width p.1.slot (.load e.vd type e.s (acqOf e p.2)) (m0.readAcc E e.scope p.1 p.2)) m
  m.awaitFabric m1 E later

/-- Results of a load that the part's own memory and caches serve, taken as it issues (log entry 58). -/
def Mach.takeLoads (m : Mach) (E : Env) (e : Enc) (t : ETy) (l : List (Fibre × Acc)) : Mach :=
  let m0 := l.foldl (fun m p => m.raiseAll E.c.core e.scope p.2.cls (runLocs p.2.runs)) m
  let m1 := l.foldl (fun m p =>
    m.updFibre E.c.id p.1.slot fun f =>
      f.pendVal false m.nextId e.vd t.regs (loadValue t (leNat (m0.readAcc E e.scope p.1 p.2)))) m0
  ({ m1 with nextId := m1.nextId + 1 } : Mach).acquire E.c.core (l.map fun p => acqOf e p.2)

/-- Whether some lane that passed its checks names a kind-01 address. -/
def anyFab (l : List (Fibre × Acc)) : Bool := l.any fun p => p.2.fab.isSome

def memDisp (e : Enc) : Int := toSigned 32 e.imm32

/-- What a load or store of R229 needs. -/
def memWant (e : Enc) (t : ETy) (store noWindow : Bool) : Want :=
  ⟨t.bits / 8, if store then 2 else 1, if e.ord = 0 ∧ !noWindow then 1 else t.bits / 8, noWindow, false, !store⟩

/-- The check that a named record exists (R168), taken by every fibre as R155 gives. -/
def withRecord (e : Enc) (amode n : Nat) (F : Env → Mach → Mach) (E : Env) (m : Mach) : Mach :=
  if 2 ≤ amode ∧ E.records ≤ n then trapAll E m 2 e.parcel else F E m

/-- A load of lanes that have been checked (R231, R234): held while a fabric read must wait for a write on its way. -/
def loadLanes (e : Enc) (rs : List (Fibre × LaneRes)) (send : BitVec 32 → List (Fibre × Acc) → Mach → Mach)
    (take : List (Fibre × Acc) → Mach → Mach) (E : Env) (m : Mach) : Mach :=
  if (worst rs).isNone && (oks rs).any fun p => m.fabAwaits E e.scope p.1 p.2 then m.stall E.c.id E.g.id
  else if m.anySent E e.scope (oks rs) then askLanes e rs (fun later l m => send later l (m.touchSlots E.x.addr l)) E m
  else byLanes e rs (fun l m => take l (m.touchSlots E.x.addr l)) (fun m => m.advance E e) E m

def ldM (e : Enc) : Env → Mach → Mach :=
  withRecord e e.amode e.vc fun E m =>
    let t := tyOf e
    let rs := (E.act e).map fun f => (f, m.memLane E e.amode e.va (memDisp e) e.vc (memWant e t false false) f)
    (loadLanes e rs (fun later l m => m.sendLoads E e e.tyCode (t.bits / 8) later l) (fun l m => m.takeLoads E e t l) E m).tick E.c.core 1

def ldsM (e : Enc) (E : Env) (m : Mach) : Mach :=
  let t := tyOf e
  let rs := (E.act e).map fun f => (f, scratchLane E.c ((f.reg e.va : Int) + memDisp e) (t.bits / 8) (t.bits / 8))
  (byLanes e rs (fun l m => m.takeLoads E e t l) (fun m => m.advance E e) E m).tick E.c.core 1

/-! ### Stores -/

/-- The lower lanes of an instruction, in home-lane order, whose stores share a byte with a lane's: their stores leave first, so
that the highest lane's value stays (R107, R235). -/
def lowerOver (l : List (Fibre × Acc × List Byte)) (p : Fibre × Acc × List Byte) : List Nat :=
  (l.filter fun q => decide (q.1.lane < p.1.lane) && (runLocs q.2.1.runs).any fun a => (runLocs p.2.1.runs).contains a).map
    (·.1.slot)

/-- The stores of the lanes enter their fibres' queues (R122, R235). -/
def Mach.queueStores (m : Mach) (E : Env) (e : Enc) (name : Bool) (l : List (Fibre × Acc × List Byte)) : Mach :=
  let m1 := l.foldl (fun m p =>
    let a := p.2.1
    let kind := match a.fab with
      | some (node, rk, off) => StoreKind.fabric node rk off p.2.2
      | none => .bytes ((runLocs a.runs).zip p.2.2)
    let s : StoreEntry :=
      ⟨kind, a.cls, E.key, e.scope, if e.ord = 2 then some e.stor else none, a.object, m.nextId, lowerOver l p, name,
        ((a.runs.filter fun r => r.loc.space == .host).map fun r => (r.loc.addr / 4096, r.hostPage)).dedup⟩
    m.updFibre E.c.id p.1.slot fun f => { f with stores := f.stores ++ [s] }) m
  { m1 with nextId := m1.nextId + 1 }

/-- The data of a store: the low bytes of its register, pair or quad (R234). -/
def storeBytes (e : Enc) (t : ETy) (f : Fibre) : List Byte := leBytes (t.bits / 8) (f.val e.vd t.regs)

def stM (e : Enc) : Env → Mach → Mach :=
  withRecord e e.amode e.vc fun E m =>
    let t := tyOf e
    let rs := (E.act e).map fun f => (f, m.memLane E e.amode e.va (memDisp e) e.vc (memWant e t true false) f)
    (byLanes e rs
      (fun l m => (m.touchSlots E.x.addr l).queueStores E e false (l.map fun p => (p.1, p.2, storeBytes e t p.1)))
      (fun m => m.advance E e) E m).tick E.c.core 1

def stsM (e : Enc) (E : Env) (m : Mach) : Mach :=
  let t := tyOf e
  let rs := (E.act e).map fun f => (f, scratchLane E.c ((f.reg e.va : Int) + memDisp e) (t.bits / 8) (t.bits / 8))
  (byLanes e rs (fun l m => m.queueStores E e false (l.map fun p => (p.1, p.2, storeBytes e t p.1)))
    (fun m => m.advance E e) E m).tick E.c.core 1

/-! ### Prefetch (R236) -/

/-- The two traps that PREF can take; every other lane is dropped, one with a kind-01 address of an invalid window among them (log entry
86), and no access is made that an observer can detect. -/
def prefLane (m : Mach) (E : Env) (e : Enc) (f : Fibre) : LaneRes :=
  let form := fun a =>
    if (kindOf a = 0 ∧ a / 2 ^ 57 % 32 ≠ 0) ∨ (kindOf a = 1 ∧ 192 ≤ nodeOf a) then LaneRes.trap 20 4 0
    else .ok ⟨[], .g, false, 0, a, none, 0, none, none⟩
  if e.amode < 2 then
    form (wrap 64 (((if e.amode = 0 then f.reg e.va else f.val e.va 2 : Nat) : Int) + memDisp e))
  else
    match m.record E none e.vc with
    | .inr _ => .ok ⟨[], .g, false, 0, 0, none, 0, none, none⟩
    | .inl r =>
      if !recordOk r then .trap 10 6 0
      else form (wrap 64 ((bitsOf r 191 128 : Int) + (if e.amode = 2 then (f.reg e.va : Int) else 0) + memDisp e))

def prefM (e : Enc) : Env → Mach → Mach :=
  withRecord e e.amode e.vc fun E m =>
    (byLanes e ((E.act e).map fun f => (f, prefLane m E e f)) (fun _ m => m) (fun m => m.advance E e) E m).tick E.c.core 1

/-- LD, W form (R235). -/
def execLdW (f : WForm) (s : State) : Host.Outcome State Fault Refusal :=
  isa (checked (f.enc 0x100) (shapeOf (f.enc 0x100)) (ldM (f.enc 0x100))) s

/-- LD, L form (R235). -/
def execLdL (f : LForm) (s : State) : Host.Outcome State Fault Refusal :=
  isa (checked (f.enc 0x100) (shapeOf (f.enc 0x100)) (ldM (f.enc 0x100))) s

/-- ST, W form (R235). -/
def execStW (f : WForm) (s : State) : Host.Outcome State Fault Refusal :=
  isa (checked (f.enc 0x101) (shapeOf (f.enc 0x101)) (stM (f.enc 0x101))) s

/-- ST, L form (R235). -/
def execStL (f : LForm) (s : State) : Host.Outcome State Fault Refusal :=
  isa (checked (f.enc 0x101) (shapeOf (f.enc 0x101)) (stM (f.enc 0x101))) s

/-- LDS, W form (R235). -/
def execLdsW (f : WForm) (s : State) : Host.Outcome State Fault Refusal :=
  isa (checked (f.enc 0x102) (shapeOf (f.enc 0x102)) (ldsM (f.enc 0x102))) s

/-- LDS, L form (R235). -/
def execLdsL (f : LForm) (s : State) : Host.Outcome State Fault Refusal :=
  isa (checked (f.enc 0x102) (shapeOf (f.enc 0x102)) (ldsM (f.enc 0x102))) s

/-- STS, W form (R235). -/
def execStsW (f : WForm) (s : State) : Host.Outcome State Fault Refusal :=
  isa (checked (f.enc 0x103) (shapeOf (f.enc 0x103)) (stsM (f.enc 0x103))) s

/-- STS, L form (R235). -/
def execStsL (f : LForm) (s : State) : Host.Outcome State Fault Refusal :=
  isa (checked (f.enc 0x103) (shapeOf (f.enc 0x103)) (stsM (f.enc 0x103))) s

/-- PREF, W form (R236). -/
def execPrefW (f : WForm) (s : State) : Host.Outcome State Fault Refusal :=
  isa (checked (f.enc 0x104) (shapeOf (f.enc 0x104)) (prefM (f.enc 0x104))) s

/-- PREF, L form (R236). -/
def execPrefL (f : LForm) (s : State) : Host.Outcome State Fault Refusal :=
  isa (checked (f.enc 0x104) (shapeOf (f.enc 0x104)) (prefM (f.enc 0x104))) s

end Sys2Proof.Machine
end

