-- ==== Sys2Proof/Machine/Keys.lean ====
section
/-! DEFINITION. The key tree (R416), ciphertext units and their tags (R421, R422), and gates (R423 to R425). -/

namespace Sys2Proof.Machine

/-! ### Keys (R416) -/

def Dev.tenantKey (d : Dev) (fn : Nat) : List Byte := Sys2Proof.Machine.tenantKey (d.fnRec fn).tenant

def Dev.periodKey (d : Dev) (fn : Nat) : List Byte := Sys2Proof.Machine.periodKey (d.tenantKey fn) (d.fnRec fn).period

def Dev.purposeKey (d : Dev) (fn purpose comp kid : Nat) : List Byte := Sys2Proof.Machine.purposeKey (d.periodKey fn) purpose comp kid

def Dev.weightsKey (d : Dev) (fn comp kid : Nat) : List Byte := d.purposeKey fn 2 comp kid
def Dev.gateKey (d : Dev) (fn : Nat) : List Byte := d.purposeKey fn 3 0 0

/-- The seed of a world's attestation key pair (R429). -/
def Dev.attestSeed (d : Dev) (fn : Nat) : List Byte := d.purposeKey fn 5 0 0

/-! ### Ciphertext units (R421) -/

/-- The 8-byte tag of a unit's ciphertext. -/
def unitTag (key : List Byte) (u kid : Nat) (cipher : List Byte) : List Byte :=
  (Config.kmac256 key (leBytes 8 u ++ leBytes 1 kid ++ cipher) 64 "Shatex tag").takeD 8 0

/-- Offset of the tags behind an object's bytes. -/
def tagOffset (size : Nat) : Nat := (size + 511) / 512 * 512

/-- Where some bytes of an object in memory or of the tags behind it lie: their runs, when they can be reached. `slot` is given for a
short pointer, else the object's start; `errorPage` is the page whose fault ended in an error for the asker (R376). -/
def Mach.objectRuns (m : Mach) (d : Dev) (x : Ctx) (cluster : Nat) (errorPage : Option Nat) (slot : Option Slot)
    (start size off len access : Nat) : LaneRes :=
  let w : Want := ⟨len, access, 1, true, false, true⟩
  match slot with
  | some s =>
    match s.at_ off with
    | some va => m.finish d x cluster w errorPage va (some .n) (some (s.n, off)) none none size
    | none => .object s.n (off / 2 ^ 21)
  | none => m.finish d x cluster w errorPage (start + off) none none none none size

/-- The tag of a unit (R421). -/
def Mach.tagRuns (m : Mach) (d : Dev) (x : Ctx) (cluster : Nat) (errorPage : Option Nat) (slot : Option Slot)
    (start size u access : Nat) : LaneRes := m.objectRuns d x cluster errorPage slot start size (tagOffset size + 8 * u) 8 access

/-- What a unit that a range of `len` bytes from `off` of its object ends in has beyond the range: its tag covers them too (R421). -/
def Mach.unitRest (m : Mach) (d : Dev) (x : Ctx) (cluster : Nat) (errorPage : Option Nat) (slot : Option Slot)
    (start size off len access : Nat) : LaneRes :=
  let stop := min ((off + len + 511) / 512 * 512) size
  if stop ≤ off + len then LaneRes.ok Acc.none else m.objectRuns d x cluster errorPage slot start size (off + len) (stop - (off + len)) access

/-! ### Gates (R423 to R425) -/

structure GateEntry where
  scomp : Nat
  dcomp : Nat
  skey : Nat
  dkey : Nat
  deriving DecidableEq, Repr

/-- A compartment record's tag (R424). -/
def Dev.compTag (d : Dev) (fn ctx record : Nat) : List Byte :=
  (Config.kmac256 (d.gateKey fn) (leBytes 8 ctx ++ leBytes 8 record) 64 "Shatex gate").takeD 8 0

/-- A gate entry's tag: 0xFF in place of the context address's low byte, the gate, and the entry's low 24 bytes (R424). -/
def Dev.gateTag (d : Dev) (fn ctx g entry : Nat) : List Byte :=
  (Config.kmac256 (d.gateKey fn) (0xFF :: (leBytes 8 ctx).drop 1 ++ leBytes 1 g ++ leBytes 24 entry) 64 "Shatex gate").takeD 8 0

/-- A gate's entry, where the launch declared it and the entry itself allows its use (R423, R425). -/
def Mach.gateEntry (m : Mach) (d : Dev) (x : Ctx) (l : Launch) (g : Nat) : Option GateEntry :=
  let e := m.headerNat d x (0xA00 + 32 * g) 32
  let scomp := bitsOf e 9 8
  let dcomp := bitsOf e 17 16
  let skey := bitsOf e 31 24
  let dkey := bitsOf e 39 32
  if 8 ≤ g ∨ !bitOf (l.field 135 128) g ∨ !bitOf e 0 ∨ bitsOf e 191 40 ≠ 0 ∨ bitsOf e 23 18 ≠ 0 ∨ bitsOf e 15 10 ≠ 0
      ∨ bitsOf e 7 1 ≠ 0 ∨ leBytes 8 (bitsOf e 255 192) ≠ d.gateTag x.fn x.addr g (e % 2 ^ 192) ∨ x.comp ≠ scomp
      ∨ scomp = 3 ∨ dcomp = 3 ∨ (skey ≠ 0 ∧ scomp = 0) ∨ (dkey ≠ 0 ∧ dcomp = 0) then none
  else some ⟨scomp, dcomp, skey, dkey⟩

/-- Whether a side's cipher attribute and key id agree with the gate's key of that side (R425). -/
def sideAgrees (key : Nat) (attrs : List (Bool × Nat)) : Bool :=
  attrs.all fun a => if key = 0 then !a.1 else a.1 && a.2 == key

/-- Cipher attribute and key id of every page of a kind-00 range (R425), those of the range entry for the chip window (R364). -/
def Mach.pageAttrs (m : Mach) (d : Dev) (x : Ctx) (cluster va len access : Nat) : List (Bool × Nat) :=
  (List.range (pagesOf va len)).filterMap fun i =>
    let a := if i = 0 then va else (va / 4096 + i) * 4096
    match m.translate d x cluster a access with
    | .ok t => some (t.cipher, t.keyId)
    | .window _ => (x.ranges.find? fun r => r.base ≤ a && a < r.limit).map fun r => (r.cipher, r.keyId)
    | .fault .. => none

/-- The bytes of a unit cross a gate: decrypted when they come as ciphertext, after the unit's tag, and encrypted when they go as
ciphertext, with their unit's tag (R426); none where the tag fails. A tag covers its whole unit: `srest` and `drest` are what the
source's and the destination's unit hold beyond these bytes. -/
def crossUnit (d : Dev) (fn : Nat) (g : GateEntry) (su du : Nat) (data srest tag drest : List Byte) : Option (List Byte × Option (List Byte)) :=
  let plain := if g.skey = 0 then some data
    else
      let k := d.weightsKey fn g.scomp g.skey
      if unitTag k su g.skey (data ++ srest) = tag then some (unitDecrypt k su data) else none
  plain.map fun p =>
    if g.dkey = 0 then (p, none)
    else
      let k := d.weightsKey fn g.dcomp g.dkey
      let c := unitEncrypt k du p
      (c, some (unitTag k du g.dkey (c ++ drest)))

end Sys2Proof.Machine
end

