-- ==== Sys2Proof/Machine/Residency.lean ====
section
/-! DEFINITION. The Object Residency Unit: binding and reclaiming slots (R80 to R82), looking names up (R86, R87), fetching
(R88) and evicting (R90, R91), with the steps NAME_LOOKUP, FETCH_DONE and EVICTION. -/

namespace Sys2Proof.Machine

/-! ### CRC-32C (R53) -/

/-- One bit of the reflected polynomial 0x1EDC_6F41. -/
def crcStep (c : Nat) : Nat := if c % 2 = 1 then Nat.xor (c / 2) 0x82F63B78 else c / 2

def crcByte (c : Nat) (b : Byte) : Nat :=
  crcStep (crcStep (crcStep (crcStep (crcStep (crcStep (crcStep (crcStep (Nat.xor c b.toNat))))))))

def crc32c (l : List Byte) : Nat := Nat.xor (l.foldl crcByte 0xFFFFFFFF) 0xFFFFFFFF

/-! ### The ORT descriptor (R76) -/

def Ctx.ortBase (x : Ctx) : Nat := bitsOf x.ort.toNat 191 128
def Ctx.poolBase (x : Ctx) : Nat := bitsOf x.ort.toNat 319 256
def Ctx.poolLimit (x : Ctx) : Nat := bitsOf x.ort.toNat 383 320
def Ctx.directory (x : Ctx) : Nat := bitsOf x.ort.toNat 255 192
def Ctx.buckets (x : Ctx) : Nat := bitsOf x.ort.toNat 26 22
def Ctx.dirHost (x : Ctx) : Bool := bitOf x.ort.toNat 21

/-- Serials of the LAUNCH records of a context that are accepted and have no completion record yet. -/
def Mach.openSerials (m : Mach) (ctx : Nat) : List Nat :=
  (m.queues.filter fun q => q.ctx == ctx).flatMap fun q => q.serials.filter (· != 0)

/-- The watermark of a context (R76, R80). -/
def Mach.watermark (m : Mach) (ctx : Nat) : Nat := (m.openSerials ctx).foldl min ((m.ctx ctx).serial + 1)

/-- The watermark shown in the ORT descriptor, which the context header of a function holds at 0 (R76, R353). -/
def Mach.showWatermark (m : Mach) (d : Dev) (fn ctx : Nat) : Mach :=
  m.physWrite (d.fnKey fn) (ctx + 48) (leBytes 8 (m.watermark ctx))

/-! ### Slots -/

/-- A slot as UNBOUND shows it, kept only so that its number is not taken for one never used. -/
def Slot.unbound (n : Nat) : Slot :=
  { n := n, state := 0, ident := 0, size := 0, base := 0, home := 0, cls := 0, keyId := 0, ro := false, cipher := false
    dirty := false, lastSerial := 0, fetches := 0, extents := [], lookup := false, fetching := none, mapAddr := 0, room := none, written := []
    parked := [], touched := 0, reclaim := false, wait := [], errorPage := none }

/-- The pool areas that a slot's copy uses (R84, R88): an object of no bytes uses none. -/
def Slot.areas (s : Slot) : List Nat := if s.stored = 0 then [] else s.base :: s.mapAddr :: s.extents.map (·.2)

/-- Whether a range was named through a slot. -/
def names (slot : Nat) (o : Option (Nat × Nat)) : Bool :=
  match o with
  | some (s, _) => s == slot
  | none => false

def Area.names (slot : Nat) (a : Area) : Bool := Machine.names slot a.object

/-- Accesses through short pointers of a context that are past their check and not complete (R90 step 2): stores in queues,
copies and posts in flight. Loads complete as they issue. -/
def Mach.accessesInFlight (m : Mach) (ctx slot : Nat) : Bool :=
  m.crews.any fun c => c.ctx == ctx &&
    ((c.fibres.any fun f => f.stores.any fun e => names slot e.object)
      || (c.copies.any fun p => !p.done && names slot p.object)
      || (c.gpasses.any fun g => names slot g.srcObject || names slot g.dstObject)
      || (m.fabOut.any fun o => o.crew == c.id && match o.kind with | .word _ _ _ object .. => names slot object | _ => false)
      || (m.posts.any fun p => p.crew == c.id &&
        match p.op with
        | .bld _ src .. => src.names slot
        | .astore _ _ _ _ _ amax rows => rows.any (·.names slot) || amax.any (·.names slot)
        | .astz _ _ _ _ _ amax _ dst => dst.names slot || amax.any (·.names slot)
        | .cvtq _ _ _ _ _ amax dst => dst.names slot || amax.any (·.names slot)
        | .dq _ dst => dst.names slot
        | _ => false))

/-- Written bytes of a slot on their way to a home across the fabric. -/
def Mach.writingBack (m : Mach) (ctx slot : Nat) : Bool :=
  m.fabOut.any fun o => match o.kind with | .writeback c s => c == ctx && s == slot | _ => false

/-- Step 4 of R90 (or the extents named, of a large object), and UNBOUND for a reclaim. A touch made meanwhile is served: after a
reclaim its lanes re-execute and find the slot unbound (R85). -/
def Mach.freeCopy (m : Mach) (d : Dev) (ctx : Nat) (s : Slot) (unbind : Bool) : Mach :=
  let x := m.ctx ctx
  let m1 := m.setCtx { x with pool := x.pool.filter fun a => s.cls = 0 ∨ !s.areas.contains a.1 }
  if unbind then (m1.setSlot d ctx (Slot.unbound s.n)).wakeObject ctx s.n false
  else
    let s1 := { s with state := 2, base := 0, extents := [], mapAddr := 0, dirty := false, written := [], errorPage := none, fetching := none }
    let s2 := match s.fetching with | some e => s1.touch e | none => s1
    let m2 := m1.setSlot d ctx s2
    if s2.state = 4 then m2.wakeObject ctx s.n false else m2

/-- The steps of R90 for a slot, as far as they go: true once the copy is gone. A pinned copy is not touched (R91). An eviction
begun to reclaim the slot ends with it UNBOUND (R82). -/
def Mach.evictStep (m : Mach) (d : Dev) (ctx n : Nat) (unbind : Bool) : Mach × Bool :=
  match (m.ctx ctx).slot n with
  | none => (m, true)
  | some s =>
    if s.state = 2 then (if unbind then m.freeCopy d ctx s true else m, true)
    else if s.state ≠ 4 ∧ s.state ≠ 5 then (m, !unbind)
    else if s.state = 4 ∧ s.parked ≠ [] then (m, false)
    else
      let m1 := if s.state = 4 then m.setSlot d ctx { s with state := 5, reclaim := unbind } else m
      if m1.accessesInFlight ctx n then (m1, false)
      else
        let r := if s.cls = 0 then (m1, true) else (m1.writeBackAll).writeBackSlot d ctx n (0, 0)
        if !r.2 || r.1.writingBack ctx n then (r.1, false)
        else
          match (r.1.ctx ctx).slot n with
          | none => (r.1, true)
          | some s' => (r.1.freeCopy d ctx s' (unbind || s'.reclaim), true)

/-! ### Binding (R80 to R82) -/

/-- Slots that could be reclaimed (R82). -/
def Mach.reclaimable (m : Mach) (ctx : Nat) : List Nat :=
  let w := m.watermark ctx
  (((m.ctx ctx).slots.filter fun s =>
    decide (s.lastSerial < w) && (s.state == 2 || s.state == 4) && s.parked.isEmpty && (m.ctx ctx).holdsSlot s.n).map (·.n)).insertionSort (· ≤ ·)

/-- Slots whose reclaim waits for their copy to leave. -/
def Ctx.reclaiming (x : Ctx) : List Nat := (x.slots.filter fun s => s.state == 5 && s.reclaim && x.holdsSlot s.n).map (·.n)

/-- A free slot, when one is below the slot count. Which one is the ORU's choice (R80, R303), so it is free: `pick` names it, and
where that slot is not free the lowest free one stands in (log entry 5). -/
def Ctx.freeSlot (x : Ctx) (pick : Nat) : Option Nat :=
  if (x.slot (pick % 2 ^ x.slotLog)).isNone then some (pick % 2 ^ x.slotLog)
  else
    match (List.range (x.slots.length + 1)).find? fun n => (x.slot n).isNone with
    | some n => if n < 2 ^ x.slotLog then some n else none
    | none => none

inductive BindRes where
  | slot (n : Nat)
  | exhausted
  /-- A slot is being reclaimed and its copy still goes home. -/
  | wait
  deriving DecidableEq, Repr

/-- A free slot is bound. A slot past a count that has been lowered since is no slot of the table any more, and gives its name up
(R81; log entry 54). -/
def Mach.bindFree (m : Mach) (d : Dev) (ctx serial : Nat) (ident : DWord) (n : Nat) : Mach :=
  let x := m.ctx ctx
  (m.setCtx { x with slots := x.slots.map fun s => if s.ident == ident && !x.holdsSlot s.n then { s with ident := 0 } else s }).setSlot d ctx
    { Slot.unbound n with state := 1, ident := ident, lastSerial := serial }

/-- The slot of an identity word: the one bound to it, a free one, or one reclaimed (R80 to R82). -/
def Mach.bind (m : Mach) (d : Dev) (ctx serial : Nat) (ident : DWord) : Mach × BindRes :=
  let x := m.ctx ctx
  match x.slots.find? fun s => s.state != 0 && s.ident == ident && x.holdsSlot s.n with
  | some s => (m.setSlot d ctx { s with lastSerial := max s.lastSerial serial, reclaim := false }, .slot s.n)
  | none =>
    let pick := (Config.freeOf 80 ident.toNat m.nextId).toNat
    match x.freeSlot pick with
    | some n => (m.bindFree d ctx serial ident n, .slot n)
    | none =>
      match (if x.reclaiming = [] then m.reclaimable ctx else x.reclaiming) with
      | [] => (m, .exhausted)
      | n0 :: t =>
        let n := (n0 :: t).getD (pick % (t.length + 1)) n0
        let r := m.evictStep d ctx n true
        if r.2 then (r.1.bindFree d ctx serial ident n, .slot n) else (r.1, .wait)

/-! ### Looking a name up (R86, R87) -/

inductive DirRes where
  | bytes (b : List Byte)
  /-- A translation fault to be answered. -/
  | fault (va cause level : Nat)
  | failed
  deriving DecidableEq, Repr

/-- One directory entry, read at sys. `remote` holds what a remote directory answered for the eight probes. -/
def Mach.dirEntry (m : Mach) (d : Dev) (x : Ctx) (s : Slot) (probe index : Nat) (remote : Option (List Byte)) : DirRes :=
  let a := x.directory + 32 * index
  if kindOf x.directory = 1 then
    if !d.canSend (nodeOf x.directory) then .failed
    else
      match m.rkeyOf d x 0 (windowOf x.directory), remote with
      | .fault va c l, _ => if s.errorPage == some (pageOf va) then .failed else .fault va c l
      | .ok _, some l => if 32 * probe + 32 ≤ l.length then .bytes ((l.drop (32 * probe)).take 32) else .failed
      | _, _ => .failed
  else if x.dirHost then
    match m.atsXlate d x.fn a 1 with
    | some h => .bytes (m.host.bytes h 32)
    | none => .failed
  else
    match m.rangeRuns d x 0 a 32 1 false with
    | .fault va c l => if s.errorPage == some (pageOf va) then .failed else .fault va c l
    | .window => .failed
    | .ok r => if (runLocs r).any d.unreadable then .failed else .bytes ((runLocs r).map (m.homeRead (x.key d)))

inductive Lookup where
  | found (e : Nat)
  | absent
  | fault (va cause level : Nat)
  | failed
  deriving DecidableEq, Repr

/-- The probes of a lookup that are still to be made. -/
def Mach.probe (m : Mach) (d : Dev) (x : Ctx) (s : Slot) (h : Nat) (remote : Option (List Byte)) : List Nat → Lookup
  | [] => .absent
  | i :: t =>
    match m.dirEntry d x s i ((h + i) % 2 ^ x.buckets) remote with
    | .fault va c l => .fault va c l
    | .failed => .failed
    | .bytes b =>
      let e := leNat b
      let id := bitsOf e 127 64
      if id = 0 then .absent else if id = s.ident.toNat then .found e else Mach.probe m d x s h remote t

/-- Engines of a context that wait for a slot learn that its lookup or fetch failed (R252, R292, R298). -/
def Mach.loseWant (m : Mach) (ctx slot : Nat) : Mach :=
  { m with crews := m.crews.map fun c =>
      if c.ctx == ctx then
        { c with
          channels := c.channels.map fun h => if h.want == some slot then { h with lost := true } else h
          cursors := c.cursors.map fun h => if h.want == some slot then { h with lost := true } else h
          binning := c.binning.map fun h => if h.want == some slot then { h with lost := true } else h }
      else c }

/-- A lookup or fetch that ends without a copy: the waiting lanes re-execute and take the trap (R87, R88). -/
def Mach.failSlot (m : Mach) (d : Dev) (ctx : Nat) (s : Slot) (code : Nat) : Mach :=
  let m1 := s.parked.foldl (fun m p => m.updFibre p.1 p.2 fun f => { f with carry := { f.carry with name := some (s.n, code) } }) m
  ((m1.setSlot d ctx s).loseWant ctx s.n).wakeObject ctx s.n false

/-- The slot takes a directory entry's fields (R86, R87). -/
def Slot.resolve (s : Slot) (e : Nat) : Slot :=
  { s with
    state := 2, lookup := false, errorPage := none, home := bitsOf e 191 128, keyId := bitsOf e 63 56, ro := bitOf e 55
    cipher := bitOf e 54, cls := bitsOf e 53 52, size := bitsOf e 40 0 }

/-- A lookup that is due is made (R85, R87). -/
def nameLookup (d : Dev) (ctx n : Nat) (remote : Option (List Byte)) (m : Mach) : Mach :=
  let x := m.ctx ctx
  match x.slot n with
  | none => m
  | some s =>
    if s.state ≠ 1 ∨ !s.lookup ∨ s.wait ≠ [] then m
    else
      let h := crc32c (leBytes 8 s.ident.toNat) % 2 ^ x.buckets
      let ended := { s with lookup := false, fetching := none, errorPage := none }
      match m.probe d x s h remote (List.range 8) with
      | .fault va c l =>
        let r := m.raiseFault d x 0 (.oru ctx n) va c l 1
        r.1.setSlot d ctx { s with wait := [r.2] }
      | .failed => m.failSlot d ctx ended 22
      | .absent => m.failSlot d ctx ended 15
      | .found e =>
        let s1 := s.resolve e
        let s2 := match s1.fetching with
          | some x => { s1 with fetching := none }.touch x
          | none => s1
        (m.setSlot d ctx s2).wakeObject ctx n (s2.state == 3)

/-! ### Fetching (R88, R89) -/

/-- The lowest place for some bytes in the resident pool, aligned to 4 KiB. -/
def Ctx.poolFit (x : Ctx) (len : Nat) : Option Nat :=
  ((x.poolBase :: x.pool.map fun a => (a.1 + a.2 + 4095) / 4096 * 4096).filter fun p =>
    decide (p + len ≤ x.poolLimit) && x.pool.all fun a => decide (p + len ≤ a.1) || decide (a.1 + a.2 ≤ p)).min?

/-- Whether a copy is pinned: some lane counted in its waiters has been woken and has not re-executed its access (R91). -/
def Mach.pinned (m : Mach) (s : Slot) : Bool :=
  s.parked.any fun p =>
    match m.crew p.1 with
    | none => true
    | some c => !c.gangs.any fun g => g.wake == .object s.n && (c.lanes g).any fun f => f.slot == p.2

/-- The resident copy that leaves first for room: unpinned, oldest touch (R88). Of an object whose next extent is being fetched
the extents that are there can leave. -/
def Mach.evictee (m : Mach) (x : Ctx) : Option Slot :=
  (x.slots.filter fun s =>
      (s.state == 5 || (s.state == 4 && s.parked.isEmpty) || (s.state == 3 && s.extents != [] && !m.pinned s)) && s.cls != 0).foldl
    (fun r s => match r with
      | none => some s
      | some t => if s.touched < t.touched then some s else some t) none

/-- One extent of a large object marked absent, and its space freed (R90 step 4). -/
def Mach.evictExtent (m : Mach) (d : Dev) (ctx n extent : Nat) : Mach :=
  match (m.ctx ctx).slot n with
  | none => m
  | some t =>
    match t.extents.find? fun e => e.1 == extent with
    | none => m
    | some e =>
      let x := m.ctx ctx
      let m1 := (m.setCtx { x with pool := x.pool.filter fun a => a.1 != e.2 }).vaWrite d x (t.mapAddr + 8 * extent) (leBytes 8 0)
      m1.setSlot d ctx { t with extents := t.extents.filter fun q => q.1 != extent }

/-- The steps of R90 for one extent of an object that no touch passes: it leaves once no access to the object is in flight and its
written bytes are at the home. -/
def Mach.shedExtent (m : Mach) (d : Dev) (ctx n extent : Nat) : Mach :=
  if m.accessesInFlight ctx n then m
  else
    let r := m.writeBackAll.writeBackSlot d ctx n (0, 0)
    if !r.2 || r.1.writingBack ctx n then r.1 else r.1.evictExtent d ctx n extent

/-- Room is made by one step of an eviction (R88). -/
def Mach.makeRoom (m : Mach) (d : Dev) (ctx : Nat) : Mach :=
  match m.evictee (m.ctx ctx) with
  | none => m
  | some v =>
    if v.state = 3 then m.shedExtent d ctx v.n ((v.extents.head?.map (·.1)).getD 0) else (m.evictStep d ctx v.n false).1

/-- Bytes that a fetch brings: the whole of a small object, an extent of a large one. -/
def Slot.fetchLen (s : Slot) (extent : Nat) : Nat :=
  if s.large then min (2 ^ 21) (s.stored - extent * 2 ^ 21) else s.stored

/-- Bytes of the extent map that a fetch needs room for too (R77). -/
def Slot.mapLen (s : Slot) : Nat := if s.large && s.mapAddr = 0 then 8 * ((s.stored + 2 ^ 21 - 1) / 2 ^ 21) else 0

/-- The message that grants the bytes of a fetch across the fabric (R89, R408). -/
def Mach.oruMsg (m : Mach) (ctx n : Nat) : Option InMsg := m.inMsgs.find? fun i => i.oru == some (ctx, n)

/-- A token for a message of this part's own Weir, which lapses 32 µs from now (R408, R410). -/
def Mach.issueToken (m : Mach) (msg bytes : Nat) : Mach :=
  { m with tokens := m.tokens ++ [⟨m.nextId, msg, bytes, m.dclock + Config.clocks32us, 0, false⟩], nextId := m.nextId + 1 }

/-- Bytes that have arrived count towards the oldest token of their message. -/
def useToken (msg n : Nat) : List Token → List Token
  | [] => []
  | t :: r => if t.msg == msg && decide (t.used < t.bytes) then { t with used := min t.bytes (t.used + n) } :: r else t :: useToken msg n r

/-- Granted bytes of a message have arrived: its sender goes on sending (R410). -/
def Mach.arrived (m : Mach) (msg n : Nat) : Mach :=
  { m with
    tokens := useToken msg n m.tokens
    inMsgs := m.inMsgs.map fun i => if i.id == msg then { i with expired := 0 } else i }

/-- A fetch across the fabric asks for its tokens, in the highest class (R89): the first 16 KiB are granted by an implicit token
(R408). -/
def Mach.openFetch (m : Mach) (ctx : Nat) (s : Slot) (len : Nat) : Mach :=
  let i : InMsg :=
    { id := m.nextId, node := nodeOf s.home, msg := m.nextId, ctx := ctx, queue := 0, region := 0, rkey := 0, prio := 7, total := len
      granted := min len 16384, placed := 0, packets := [], order := m.nextId, expired := 0, held := false, orphan := false
      deferred := none, pull := none, oru := some (ctx, s.n) }
  ({ m with inMsgs := m.inMsgs ++ [i], nextId := m.nextId + 1 } : Mach).issueToken i.id i.granted

/-- More of a fetch's bytes have arrived: `n` of them in all, of those granted (R410). -/
def Mach.fetchArrived (m : Mach) (ctx slot n : Nat) : Mach :=
  match m.oruMsg ctx slot with
  | none => m
  | some i =>
    let got := min n i.granted
    if got ≤ i.placed then m
    else
      let m1 := m.arrived i.id (got - i.placed)
      { m1 with inMsgs := m1.inMsgs.map fun j => if j.id == i.id then { j with placed := got } else j }

/-- The message of a fetch is closed, and its tokens go. -/
def Mach.closeFetch (m : Mach) (ctx n : Nat) : Mach :=
  { m with
    inMsgs := m.inMsgs.filter fun i => i.oru != some (ctx, n)
    tokens := m.tokens.filter fun t => match m.oruMsg ctx n with | some i => t.msg != i.id | none => true }

/-- Pool space for a fetch is reserved (R89): where it lies, and where the extent map does. -/
def Mach.reserve (m : Mach) (d : Dev) (ctx : Nat) (s : Slot) (len : Nat) (at_ : Nat × Nat) : Mach :=
  let x := m.ctx ctx
  let areas := (if len = 0 then [] else [(at_.1, len)]) ++ if s.mapLen = 0 then [] else [(at_.2, s.mapLen)]
  (m.setCtx { x with pool := x.pool ++ areas }).setSlot d ctx { s with room := some at_ }

/-- Where a fetch finds room for its bytes and, the first of a large object, for the extent map. -/
def Ctx.place (x : Ctx) (s : Slot) (len : Nat) : Option (Nat × Nat) :=
  (x.poolFit len).bind fun p =>
    if s.mapLen = 0 then some (p, s.mapAddr)
    else ({ x with pool := (p, len) :: x.pool }.poolFit s.mapLen).map fun q => (p, q)

/-- A fetch that ends without a copy: the space reserved for it is free again, the slot is ABSENT, or as it was where other extents
of the object are resident (R78, R88; log entry 52), and the waiting lanes take FETCH_ERROR. -/
def Mach.failFetch (m : Mach) (d : Dev) (ctx : Nat) (s : Slot) : Mach :=
  let x := m.ctx ctx
  let freed := match s.room with
    | none => x.pool
    | some (p, q) => x.pool.filter fun a => !((a.1 == p && s.fetchLen (s.fetching.getD 0) != 0) || (s.mapLen != 0 && a.1 == q))
  ((m.closeFetch ctx s.n).setCtx { x with pool := freed }).failSlot d ctx
    { s with state := if s.extents = [] then 2 else 4, fetching := none, errorPage := none, room := none } 22

/-- A fetch waits for the answer to a translation fault (R374), or has had an error for one. -/
def Mach.fetchFault (m : Mach) (d : Dev) (x : Ctx) (s : Slot) (va cause level access : Nat) : Mach :=
  if s.errorPage == some (pageOf va) then m.failFetch d x.addr s
  else
    let r := m.raiseFault d x 0 (.oru x.addr s.n) va cause level access
    r.1.setSlot d x.addr { s with wait := [r.2] }

/-- What a fetch finds at the home: its bytes, nothing yet, a fault, or an end without a copy. -/
inductive Source where
  | bytes (b : List Byte)
  | notYet
  | fault (va cause level : Nat)
  | failed
  deriving DecidableEq, Repr

/-- The home bytes of a fetch: host memory is read through ATS; across the fabric they come packet by packet as they are granted, and
`remote` gives those that have come, from the first on (R88, R89, R408). -/
def Mach.fetchSource (m : Mach) (d : Dev) (x : Ctx) (s : Slot) (off len : Nat) (remote : Option (List Byte)) : Source :=
  if s.cls = 1 then
    if kindOf s.home ≠ 0 then .failed
    else
      match m.rangeRuns d x 0 (s.home + off) len 1 false with
      | .fault va c l => .fault va c l
      | .window => .failed
      | .ok r => if (runLocs r).any d.unreadable then .failed else .bytes ((runLocs r).map (m.homeRead (x.key d)))
  else if s.cls = 2 ∧ kindOf s.home = 1 ∧ d.canSend (nodeOf s.home) then
    match m.rkeyOf d x 0 (windowOf s.home) with
    | .fault va c l => .fault va c l
    | .bad | .unreadable => .failed
    | .ok _ =>
      match s.room, m.oruMsg x.addr s.n, remote with
      | none, _, _ => .notYet
      | some _, none, _ => .failed
      | some _, some _, none => .failed
      | some _, some i, some l => if len ≤ l.length ∧ len ≤ i.granted then .bytes (l.take len) else .notYet
  else .failed

/-- The bytes of a fetch placed in the space reserved for them, and for a large object its extent map kept (R77, R84). The model keeps
an extent map in the resident pool (log entry 51). -/
def Mach.placeFetch (m : Mach) (d : Dev) (ctx : Nat) (s : Slot) (extent at_ mapAt : Nat) (bytes : List Byte) : Mach :=
  let x := m.ctx ctx
  let m1 := (m.closeFetch ctx s.n).vaWrite d x at_ bytes
  let m2 := if s.mapLen = 0 then m1 else m1.vaWrite d x mapAt (List.replicate s.mapLen 0)
  let m3 := if s.large then m2.vaWrite d x (mapAt + 8 * extent) (leBytes 8 at_) else m2
  let s1 := { s with
    state := 4, fetching := none, errorPage := none, room := none, fetches := (s.fetches + 1) % 2 ^ 32, touched := m.nextId
    base := if s.large then 0 else at_, mapAddr := if s.large then mapAt else 0
    extents := if s.large then s.extents ++ [(extent, at_)] else [] }
  (({ m3 with nextId := m3.nextId + 1 } : Mach).setSlot d ctx s1).wakeObject ctx s.n false

/-- The bytes of a fetch in the space reserved for it, where that translates. -/
def Mach.landFetch (m : Mach) (d : Dev) (x : Ctx) (s : Slot) (e : Nat) (at_ : Nat × Nat) (b : List Byte) : Mach :=
  match m.rangeRuns d x 0 at_.1 b.length 2 false, m.rangeRuns d x 0 at_.2 (if s.large then max s.mapLen (8 * (e + 1)) else 0) 2 false with
  | .ok _, .ok _ => m.placeFetch d x.addr s e at_.1 at_.2 b
  | .fault va c l, _ | .ok _, .fault va c l => m.fetchFault d x s va c l 2
  | _, _ => m.failFetch d x.addr s

/-- A fetch in flight goes on (R88): it makes room and reserves it (R89), waits for a translation, ends with its bytes in place, or
ends without a copy. -/
def fetchDone (d : Dev) (ctx n : Nat) (remote : Option (List Byte)) (m : Mach) : Mach :=
  let x := m.ctx ctx
  match x.slot n with
  | none => m
  | some s =>
    if s.state ≠ 3 ∨ s.wait ≠ [] then m
    else
      let e := s.fetching.getD 0
      let len := s.fetchLen e
      match m.fetchSource d x s (if s.large then e * 2 ^ 21 else 0) len remote with
      | .failed => m.failFetch d ctx s
      | .fault va c l => m.fetchFault d x s va c l 1
      | .notYet =>
        match s.room, x.place s len with
        | some _, _ => m.fetchArrived ctx n (remote.getD []).length
        | none, some at_ => (m.reserve d ctx s len at_).openFetch ctx s len
        | none, none => m.makeRoom d ctx
      | .bytes b =>
        match s.room, x.place s len with
        | some at_, _ => m.landFetch d x s e at_ b
        | none, some at_ => (m.reserve d ctx s len at_).landFetch d (m.reserve d ctx s len at_ |>.ctx ctx) { s with room := some at_ } e at_ b
        | none, none => m.makeRoom d ctx

/-! ### Evicting (R90) -/

/-- Whether some fetch of a context finds no room (R88). -/
def Ctx.wantsRoom (x : Ctx) : Bool :=
  x.slots.any fun s => s.state == 3 && s.cls != 0 && s.room.isNone && (x.place s (s.fetchLen (s.fetching.getD 0))).isNone

/-- An eviction that a command, a reclaim or the want of room asks for goes on (R88, R90): for want of room the oldest copy, or
one extent of it. -/
def eviction (d : Dev) (ctx n extent : Nat) (m : Mach) : Mach :=
  let x := m.ctx ctx
  match x.slot n with
  | none => m
  | some s =>
    if s.state = 5 then (m.evictStep d ctx n false).1
    else if x.wantsRoom ∧ ((m.evictee x).map (·.n)) = some n then
      let there := s.extents.any fun e => e.1 == extent
      if s.state = 3 then (if there then m.shedExtent d ctx n extent else m)
      else
        let r := m.writeBackAll.writeBackSlot d ctx n (0, 0)
        if s.large && decide (1 < s.extents.length) && there && !m.accessesInFlight ctx n && r.2 && !r.1.writingBack ctx n then
          r.1.evictExtent d ctx n extent
        else (m.evictStep d ctx n false).1
    else m

/-- NAME_LOOKUP (R86, R87). -/
def execNameLookup (s : State) : Host.Outcome State Fault Refusal :=
  match s.arg with
  | .nameLookup ctx slot remote => .next { s with m := nameLookup s.dev ctx slot.toNat remote s.m }
  | _ => .refused .noOperands

/-- FETCH_DONE (R88). A fetch brings the extent that its slot waits for. -/
def execFetchDone (s : State) : Host.Outcome State Fault Refusal :=
  match s.arg with
  | .fetchDone ctx slot extent remote =>
    .next { s with m :=
      match (s.m.ctx ctx).slot slot.toNat with
      | some t => if t.fetching.getD 0 = extent.toNat ∨ !t.large then fetchDone s.dev ctx slot.toNat remote s.m else s.m
      | none => s.m }
  | _ => .refused .noOperands

/-- EVICTION (R90). -/
def execEviction (s : State) : Host.Outcome State Fault Refusal :=
  match s.arg with
  | .eviction ctx slot extent => .next { s with m := eviction s.dev ctx slot.toNat extent.toNat s.m }
  | _ => .refused .noOperands

end Sys2Proof.Machine
end

