-- ==== Sys2Proof/Machine/Contexts.lean ====
section
/-! DEFINITION. Reading a context's header (R353): the fields the part keeps until the context has no unretired record, and
what makes a context's launches MALFORMED (R76, R330, R353, R354, R364, R367, R368, R389, R400, R417 to R419). -/

namespace Sys2Proof.Machine

/-- Whether every byte of a part of the header is 0. -/
def Mach.headerZero (m : Mach) (d : Dev) (x : Ctx) (lo hi : Nat) : Bool := m.headerNat d x lo (hi - lo) == 0

/-! ### Range entries (R364, R366, R367) -/

def rangeOf (e : Nat) : Range :=
  { base := bitsOf e 127 64, limit := bitsOf e 191 128, target := bitsOf e 255 192, cls := bitsOf e 62 60, cipher := bitOf e 59
    perm := bitsOf e 58 56, keyId := bitsOf e 55 48, placement := bitsOf e 41 40 }

/-- Whether a valid entry keeps its table. -/
def rangeOk (e : Nat) : Bool :=
  let r := rangeOf e
  let fits :=
    if r.cls = 1 then r.placement != 3 && decide (r.target + (r.limit - r.base) ≤ Config.hbmBytes)
    else if r.cls = 6 then r.placement == 0 && r.target == 0 && r.limit - r.base == 0x180000000 && !permits r.perm 4
    else (r.cls == 3 || r.cls == 5) && r.placement == 0
  bitsOf e 47 42 == 0 && bitsOf e 39 0 == 0 && r.base % 4096 == 0 && r.limit % 4096 == 0 && decide (0 < r.base)
    && decide (r.base < r.limit) && fits

/-- The valid range entries of a header, lowest number first. -/
def Mach.readRanges (m : Mach) (d : Dev) (x : Ctx) : List Nat :=
  ((List.range 64).map fun i => m.headerNat d x (0x100 + 32 * i) 32).filter fun e => bitOf e 63

def rangesOk (l : List Nat) : Bool := l.all rangeOk && decide ((l.filter fun e => (rangeOf e).cls = 6).length ≤ 1)

/-- Whether one entry of some classes holds a whole range with read and write permission; `same`: at equal addresses. -/
def Ctx.holds (x : Ctx) (classes : List Nat) (same : Bool) (a len : Nat) : Bool := (x.holder classes same a len).isSome

/-! ### The fields of the header -/

/-- The ORT descriptor (R76): every field a value that its table permits, and the ORT held by one entry. Reserved bits are ignored
(R16). -/
def Ctx.ortOk (x : Ctx) : Bool :=
  let o := x.ort.toNat
  let slots := bitsOf o 31 27
  let kind00 := fun (a : Nat) => decide (a < 2 ^ 57)
  decide (10 ≤ slots) && decide (slots ≤ 22) && decide (4 ≤ x.buckets) && decide (x.buckets ≤ 28)
    && x.poolBase % 2 ^ 21 == 0 && x.poolLimit % 2 ^ 21 == 0 && decide (x.poolBase < x.poolLimit) && kind00 x.poolBase
    && kind00 x.poolLimit && x.ortBase % 4096 == 0 && kind00 x.ortBase
    && x.directory % 32 == 0 && (kindOf x.directory == 1 && !x.dirHost || kindOf x.directory == 0 && (x.dirHost || kind00 x.directory))
    && x.holds [1] false x.ortBase (64 * 2 ^ slots)

/-- A ring descriptor of the context (R354). -/
def Ctx.ringOk (x : Ctx) (r : BitVec 256) : Bool :=
  let w := r.toNat
  let n := w % 32
  decide (6 ≤ n) && decide (n ≤ 16) && !bitOf w 5 && bitsOf w 255 192 % 64 == 0
    && x.holds [1, 3] false (bitsOf w 255 192) (64 * 2 ^ n)

/-- The image pool (R353). -/
def Ctx.poolOk (x : Ctx) : Bool :=
  x.imageBase % 4096 == 0 && x.imageLimit % 4096 == 0 && decide (x.imageBase ≤ x.imageLimit)
    && decide (x.imageLimit ≤ Config.hbmBytes) && x.holds [1] true x.imageBase (x.imageLimit - x.imageBase)

/-- The fabric descriptor (R400). An address that nothing maps yet has no class to be wrong about. -/
def Mach.fabricOk (m : Mach) (d : Dev) (x : Ctx) : Bool :=
  let f := x.fabric.toNat
  let place := fun (a : Nat) => decide (a < 2 ^ 57) && a % 4096 == 0
  let saveOk := match m.translate d x 0 (bitsOf f 511 448) 0 with
    | .ok t => t.cls == .g || t.cls == .h
    | .window _ => false
    | .fault .. => true
  bitsOf f 319 20 == 0 && bitsOf f 11 1 == 0 && decide (bitsOf f 19 16 ≤ 10) && decide (bitsOf f 15 12 ≤ 14)
    && place (bitsOf f 511 448) && saveOk && place (bitsOf f 447 384) && place (bitsOf f 383 320)

/-- The compartment record (R418). -/
def compOk (d : Dev) (fn ctx rec : Nat) : Bool :=
  let comp := rec % 4
  bitsOf rec 63 2 == 0 && comp != 3 && !(fn == 0 && comp != 0)
    && if comp = 0 then bitsOf rec 127 64 == 0 else leBytes 8 (bitsOf rec 127 64) == d.compTag fn ctx (rec % 2 ^ 64)

/-- What the header gives as it stands (R353). What was kept of the context apart from its header stays, bound slots too (log
entry 54). -/
def Mach.readCtx (m : Mach) (d : Dev) (fn ctx : Nat) : Ctx :=
  let x0 := { m.ctx ctx with fn := fn }
  let h := fun (off n : Nat) => m.headerNat d x0 off n
  let entries := m.readRanges d x0
  let okRanges := rangesOk entries
  let okPlace := ctx % 4096 == 0 && (hbmLinear ctx).isSome
  let comp := h 0x980 16
  let x1 := { x0 with
    loaded := false, ort := BitVec.ofNat 512 (h 0 64), imageBase := h 0x50 8, imageLimit := h 0x58 8
    ring := BitVec.ofNat 256 (h 0x60 32), root := h 0x80 8
    ranges := if okRanges && okPlace then entries.map rangeOf else [], rangesMalformed := !(okRanges && okPlace)
    fabric := BitVec.ofNat 512 (h 0x900 64), eventRing := BitVec.ofNat 256 (h 0x940 32), comp := if compOk d fn ctx comp then comp % 4 else 0 }
  let okOrt := okPlace && x1.ortOk
  let tvec := h 0x40 8
  let ok := okRanges && okOrt && tvec % 4096 == 0 && decide (tvec < 2 ^ 57) && x1.poolOk && x1.ringOk x1.ring && x1.ringOk x1.eventRing
    && bitsOf x1.root 63 48 == 0 && x1.root % 4096 == 0 && m.headerZero d x0 0x88 0x100 && m.fabricOk d x1 && m.headerZero d x0 0x960 0x980
    && compOk d fn ctx comp && m.headerZero d x0 0x990 0xA00 && m.headerZero d x0 0xB00 0x1000
  { x1 with malformed := !ok, ortMalformed := !okOrt }

/-- The header read: its fields stand until the context has no unretired record (R353). -/
def Mach.loadCtx (m : Mach) (d : Dev) (fn ctx : Nat) : Mach := m.setCtx { m.readCtx d fn ctx with loaded := true }

/-- The context's fields: those that stand, or the header's as it is now where none do (log entry 55). -/
def Mach.view (m : Mach) (d : Dev) (fn ctx : Nat) : Ctx := if (m.ctx ctx).loaded then m.ctx ctx else m.readCtx d fn ctx

/-- A context whose fields do not stand is of the function that the queue at hand gives. -/
def Mach.claim (m : Mach) (fn ctx : Nat) : Mach := if (m.ctx ctx).loaded then m else m.setCtx { m.ctx ctx with fn := fn }

/-- Whether a record of the context has begun and is unretired (R353). -/
def Mach.unretired (m : Mach) (ctx : Nat) : Bool := m.queues.any fun q => q.ctx == ctx && q.begun

/-- A LAUNCH or ORU record begins: the header is read unless its fields stand (R353, R365). -/
def Mach.beginCtx (m : Mach) (d : Dev) (fn ctx : Nat) : Mach := if (m.ctx ctx).loaded then m else m.loadCtx d fn ctx

/-- The fields stand no longer once the context has no unretired record. -/
def Mach.endUse (m : Mach) (ctx : Nat) : Mach := if m.unretired ctx then m else m.setCtx { m.ctx ctx with loaded := false }

/-! ### Queue descriptors (R336) -/

/-- A queue's descriptor as memory holds it. -/
def Mach.queueDesc (m : Mach) (d : Dev) (q : Nat) : Nat := m.physNat (d.fnKey 0) (d.queueTable + 16 * q) 16

def descCtx (w : Nat) : Nat := bitsOf w 127 64
def descFn (w : Nat) : Nat := bitsOf w 15 9
def descPrio (w : Nat) : Nat := min (w % 64) 47
def descEnabled (w : Nat) : Bool := bitOf w 16 && bitsOf w 63 17 == 0 && bitsOf w 8 6 == 0 && decide (descFn w ≤ 96)

/-- The offset of a linear address in a table of some pages at a physical address. -/
def tableOffset (table pages q : Nat) : Option Nat :=
  if table < Config.hbmBytes then (if table ≤ q ∧ q < table + 4096 * pages then some (q - table) else none)
  else ((List.range pages).find? fun p => hbmLinear (table + 4096 * p) == some (q / 4096 * 4096)).map fun p => 4096 * p + q % 4096

/-- The queues whose descriptors memory holds anything in: every other descriptor is all zeros and names no context (log entry 29). -/
def Mach.written (m : Mach) (d : Dev) : List Nat :=
  (m.hbm.map (fun c => c.1)).filterMap fun q =>
    (tableOffset d.queueTable 64 q).map fun o => o / 16

/-- The functions whose queues name a context (R389): by their descriptors, or as the records in a queue's ring were accepted under. -/
def Mach.namedBy (m : Mach) (d : Dev) (ctx : Nat) : List Nat :=
  (((m.written d).filterMap fun q =>
      let w := m.queueDesc d q
      if w != 0 && descCtx w == ctx then some (descFn w) else none)
    ++ (m.queues.filter fun q => q.ctx == ctx && !q.ring.isEmpty).map (·.fn)).dedup

/-- Whether queues of two functions name one context (R389). -/
def Mach.twoFunctions (m : Mach) (d : Dev) (ctx fn : Nat) : Bool := (m.namedBy d ctx).any (· != fn)

/-- Whether a context belongs to a function (R389). -/
def Mach.ownedBy (m : Mach) (d : Dev) (ctx fn : Nat) : Bool := (m.namedBy d ctx).contains fn

/-- Whether launches of a context complete MALFORMED (R330, R353, R389, R417). -/
def Mach.unfit (m : Mach) (d : Dev) (x : Ctx) : Bool :=
  x.malformed || m.twoFunctions d x.addr x.fn || (x.fn != 0 && (d.fnRec x.fn).world == .none)

end Sys2Proof.Machine
end

