-- ==== Sys2Proof/Machine/Float.lean ====
section
/-! DEFINITION. Number formats and rounding (R44 to R48, R57 to R62): exact values as sign, magnitude and power of two, the
rounding stream, and one rounding for every format and mode. -/

namespace Sys2Proof.Machine

/-- A floating-point format: bits of exponent and significand, bias, and the E4M3 rule for its top exponent (R44). -/
structure FFmt where
  eb : Nat
  mb : Nat
  bias : Nat
  e4m3 : Bool
  deriving DecidableEq, Repr

def fmt64 : FFmt := ⟨11, 52, 1023, false⟩
def fmt32 : FFmt := ⟨8, 23, 127, false⟩
def fmt16 : FFmt := ⟨5, 10, 15, false⟩
def fmtBf : FFmt := ⟨8, 7, 127, false⟩
def fmtE4 : FFmt := ⟨4, 3, 7, true⟩
def fmtE5 : FFmt := ⟨5, 2, 15, false⟩

/-- The format of a floating-point type; of one element for the packed types. -/
def fmtOf : ETy → FFmt
  | .f64 => fmt64
  | .f32 => fmt32
  | .f16 | .f16x2 => fmt16
  | .bf16 | .bf16x2 => fmtBf
  | .e4m3 => fmtE4
  | .e5m2 => fmtE5
  | _ => fmt32

def FFmt.bits (f : FFmt) : Nat := 1 + f.eb + f.mb

/-- The canonical NaN (R45). -/
def FFmt.nan (f : FFmt) : Nat :=
  if f.e4m3 then 0x7F else (2 ^ f.eb - 1) * 2 ^ f.mb + 2 ^ (f.mb - 1)

/-- The bits of an infinity; E4M3 has none. -/
def FFmt.infBits (f : FFmt) (neg : Bool) : Nat := b2n neg * 2 ^ (f.eb + f.mb) + (2 ^ f.eb - 1) * 2 ^ f.mb

/-- The bits of the largest finite value. -/
def FFmt.maxBits (f : FFmt) (neg : Bool) : Nat :=
  b2n neg * 2 ^ (f.eb + f.mb) + (if f.e4m3 then 0x7E else (2 ^ f.eb - 1) * 2 ^ f.mb - 1)

/-- Exponent of the least significant bit of the smallest normal binade and of every subnormal. -/
def FFmt.qmin (f : FFmt) : Int := 1 - (f.bias : Int) - (f.mb : Int)

/-- An exact value: NaN, an infinity, or ± m × 2^e with a signed zero. -/
inductive Num where
  | nan
  | inf (neg : Bool)
  | fin (neg : Bool) (m : Nat) (e : Int)
  deriving DecidableEq, Repr

/-- The value of a bit pattern (R44). -/
def FFmt.decode (f : FFmt) (n : Nat) : Num :=
  let s := bitOf n (f.eb + f.mb)
  let x := n / 2 ^ f.mb % 2 ^ f.eb
  let m := n % 2 ^ f.mb
  if f.e4m3 && x == 15 && m == 7 then .nan
  else if !f.e4m3 && x == 2 ^ f.eb - 1 then (if m = 0 then .inf s else .nan)
  else if x = 0 then .fin s m f.qmin
  else .fin s (2 ^ f.mb + m) (f.qmin + (x : Int) - 1)

/-- Whether a bit pattern is subnormal and not zero. -/
def FFmt.subnormal (f : FFmt) (n : Nat) : Bool := n / 2 ^ f.mb % 2 ^ f.eb == 0 && n % 2 ^ f.mb != 0

/-- A subnormal replaced by the zero of its sign (R61). -/
def FFmt.flush (f : FFmt) (n : Nat) : Nat := if f.subnormal n then n / 2 ^ (f.eb + f.mb) % 2 * 2 ^ (f.eb + f.mb) else n

/-- An operand as an instruction with ftzi reads it (R61, R196). -/
def FFmt.input (f : FFmt) (ftzi : Bool) (n : Nat) : Num := f.decode (if ftzi then f.flush n else n)

/-! ### The rounding stream (R59) -/

def drawStep (s : Nat) : Nat := (s * 0x5851F42D4C957F2D + 0x14057B7EF767814F) % 2 ^ 64
def drawOf (s : Nat) : Nat := s / 2 ^ 32 % 2 ^ 32

def mix64 (z : Nat) : Nat :=
  let z := z ^^^ (z / 2 ^ 30)
  let z := z * 0xBF58476D1CE4E5B9 % 2 ^ 64
  let z := z ^^^ (z / 2 ^ 27)
  let z := z * 0x94D049BB133111EB % 2 ^ 64
  z ^^^ (z / 2 ^ 31)

/-- The initial stream of a launched fibre, and with its placement count of a spawned one (R59). -/
def streamSeed (seed crew fibre : Nat) (c : Option Nat) : Nat :=
  mix64 ((seed ^^^ (crew % 2 ^ 32 * 2 ^ 16 % 2 ^ 64) ^^^ fibre ^^^ (c.getD 0 % 2 ^ 16 * 2 ^ 48)) % 2 ^ 64)

/-! ### Rounding -/

/-- How an instruction rounds: mode (R57), FTZO, saturation. -/
structure RMode where
  rnd : Nat
  ftzo : Bool
  sat : Bool
  deriving DecidableEq, Repr

/-- A magnitude m × 2^e in units of 2^q: the whole part, and the part below it as numerator over 2^k. -/
def splitAt (m : Nat) (e q : Int) : Nat × Nat × Nat :=
  if q ≤ e then (m * 2 ^ (e - q).toNat, 0, 0)
  else
    let k := (q - e).toNat
    (m / 2 ^ k, m % 2 ^ k, k)

/-- Whether a magnitude with whole part `lo` and remainder `r` over 2^k goes up, and the stream after (R57, R58). -/
def goesUp (rnd : Nat) (neg : Bool) (lo r k s : Nat) : Bool × Nat :=
  if r = 0 then (false, s)
  else
    match rnd with
    | 0 => (decide (2 ^ k < 2 * r) || (2 * r == 2 ^ k && lo % 2 == 1), s)
    | 1 => (false, s)
    | 2 => (!neg, s)
    | 3 => (neg, s)
    | _ => let s' := drawStep s; (decide (2 ^ 32 ≤ r * 2 ^ 32 / 2 ^ k + drawOf s'), s')

/-- The bits of n × 2^q, a magnitude that the format holds. -/
def FFmt.pack (f : FFmt) (neg : Bool) (n : Nat) (q : Int) : Nat :=
  let (n, q) := if 2 ^ (f.mb + 1) ≤ n then (n / 2, q + 1) else (n, q)
  b2n neg * 2 ^ (f.eb + f.mb)
    + if n < 2 ^ f.mb then n else (q - f.qmin + 1).toNat * 2 ^ f.mb + (n - 2 ^ f.mb)

/-- Overflow of a finite value (R62). -/
def FFmt.overflow (f : FFmt) (o : RMode) (neg : Bool) : Nat :=
  if o.sat then f.maxBits neg
  else if f.e4m3 then f.nan
  else
    match o.rnd with
    | 1 => f.maxBits neg
    | 2 => if neg then f.maxBits neg else f.infBits neg
    | 3 => if neg then f.infBits neg else f.maxBits neg
    | _ => f.infBits neg

/-- An exact finite value rounded once into a format (R57, R58, R61, R62), with the stream after. A value at or beyond the
first magnitude above the largest finite one overflows without a draw. -/
def FFmt.roundFin (f : FFmt) (o : RMode) (neg : Bool) (m : Nat) (e : Int) (s : Nat) : Nat × Nat :=
  if m = 0 then (b2n neg * 2 ^ (f.eb + f.mb), s)
  else
    let top := (Nat.log2 m : Int) + e
    let q := max (top - (f.mb : Int)) f.qmin
    let emax : Int := f.qmin + (f.mb : Int) + ((2 ^ f.eb - 2 : Nat) : Int) - (if f.e4m3 then 0 else 1)
    if emax < top then (f.overflow o neg, s)
    else
      let (lo, r, k) := splitAt m e q
      -- E4M3: 480 and above overflow (R62)
      if f.e4m3 && top == emax && 15 ≤ lo then (f.overflow o neg, s)
      else
        let (up, s') := goesUp o.rnd neg lo r k s
        let n := if up then lo + 1 else lo
        let isOver := top == emax && (if f.e4m3 then decide (15 ≤ n) else decide (2 ^ (f.mb + 1) ≤ n))
        if isOver then (f.overflow o neg, s')
        else
          let w := f.pack neg n q
          (if o.ftzo then f.flush w else w, s')

/-- Any exact result rounded: NaN canonical (R45), an infinity kept. -/
def FFmt.round (f : FFmt) (o : RMode) (x : Num) (s : Nat) : Nat × Nat :=
  match x with
  | .nan => (f.nan, s)
  | .inf neg => (if f.e4m3 then f.nan else f.infBits neg, s)
  | .fin neg m e => f.roundFin o neg m e s

/-- An exact finite value rounded to an integer, a last place of 1 (R58, R62). -/
def roundInt (rnd : Nat) (neg : Bool) (m : Nat) (e : Int) (s : Nat) : Int × Nat :=
  let (lo, r, k) := splitAt m e 0
  let (up, s') := goesUp rnd neg lo r k s
  let n : Int := if up then (lo : Int) + 1 else lo
  (if neg then -n else n, s')

/-! ### Exact arithmetic -/

def Num.neg : Num → Num
  | .nan => .nan
  | .inf s => .inf (!s)
  | .fin s m e => .fin (!s) m e

def Num.isNan : Num → Bool
  | .nan => true
  | _ => false

/-- The exact sum; an exact zero takes its sign by R196, with `rd` for the mode RD. -/
def Num.add (rd : Bool) (a b : Num) : Num :=
  match a, b with
  | .nan, _ => .nan
  | _, .nan => .nan
  | .inf s, .inf t => if s = t then .inf s else .nan
  | .inf s, _ => .inf s
  | _, .inf t => .inf t
  | .fin s m e, .fin t n d =>
    if m = 0 ∧ n = 0 then .fin (if s = t then s else rd) 0 0
    else
      let q := min e d
      let x : Int := (if s then -1 else 1) * ((m * 2 ^ (e - q).toNat : Nat) : Int)
      let y : Int := (if t then -1 else 1) * ((n * 2 ^ (d - q).toNat : Nat) : Int)
      let z := x + y
      if z = 0 then .fin rd 0 0 else .fin (decide (z < 0)) z.natAbs q

/-- The exact product (R196). -/
def Num.mul (a b : Num) : Num :=
  match a, b with
  | .nan, _ => .nan
  | _, .nan => .nan
  | .inf s, .inf t => .inf (s != t)
  | .inf s, .fin t n _ => if n = 0 then .nan else .inf (s != t)
  | .fin s m _, .inf t => if m = 0 then .nan else .inf (s != t)
  | .fin s m e, .fin t n d => .fin (s != t) (m * n) (e + d)

/-- FFMA's exact value: 0 × ∞ is NaN whatever c is (R196). -/
def Num.fma (rd : Bool) (a b c : Num) : Num := Num.add rd (Num.mul a b) c

/-- Order of two exact values that are not NaN, as a comparison of −0 = +0. -/
def Num.cmp (a b : Num) : Ordering :=
  match a, b with
  | .inf s, .inf t => if s = t then .eq else if s then .lt else .gt
  | .inf s, _ => if s then .lt else .gt
  | _, .inf t => if t then .gt else .lt
  | .fin s m e, .fin t n d =>
    let q := min e d
    let x : Int := (if s then -1 else 1) * ((m * 2 ^ (e - q).toNat : Nat) : Int)
    let y : Int := (if t then -1 else 1) * ((n * 2 ^ (d - q).toNat : Nat) : Int)
    if x < y then .lt else if y < x then .gt else .eq
  | _, _ => .eq

/-- An integer as an exact value. -/
def Num.ofInt (x : Int) : Num := .fin (decide (x < 0)) x.natAbs 0

/-- The value of an E8M0 byte (R48). -/
def e8m0 (x : Nat) : Num := if x = 255 then .nan else .fin false 1 ((x : Int) - 127)

end Sys2Proof.Machine
end

