-- ==== Sys2Proof/Machine/Control.lean ====
section
/-! DEFINITION. Branches, waiting and yielding, spring bins and SPAWN, FEXIT, and the instructions that stop lanes for the
debugger, a service or a handler (R35, R36, R216 to R227). -/

namespace Sys2Proof.Machine

/-! ### Going on at clause headers -/

/-- A clause-ending instruction with its S bit set acts only once the gang's long-latency results are written (R159). It parks first and is
issued after its park, so that its guard and operands read the new values, where R157 leaves old or new open (log entry 73). -/
def afterResults (e : Enc) (F : Env → Mach → Mach) (E : Env) (m : Mach) : Mach :=
  if e.s && E.lanes.any (fun f => !f.pend.isEmpty) then m.parkGang E.c.id E.g.id .switch .none else F E m

def Gang.goTo (g : Gang) (hdr : Nat) : Gang := { g.jump hdr with state := .ready, wake := .none, waited := 0 }

/-- Where the gang's next clause stands. -/
def Env.nextHdr (E : Env) : Nat := nextClause E.g.hdr E.g.header

/-- A valid clause address: kind 00, reserved bits 0, a multiple of 8 (R75, R217). -/
def validTarget (a : Nat) : Bool := decide (a < 2 ^ 57) && a % 8 == 0

/-- The target of an offset in units of 8 bytes from the clause header (R161). -/
def Env.offsetTarget (E : Env) (off : Int) : Nat := wrap 64 ((E.g.hdr : Int) + off * 8)

/-- The branch offset: 24 bits at [48:25] in the W form, the literal in the L form (R206). -/
def branchOff (e : Enc) : Int :=
  if e.isL then toSigned 32 e.lit else toSigned 24 (e.va + 2 ^ 8 * e.vb + 2 ^ 16 * e.vc)

/-- Every lane sent to its header, one gang for each (R26, R216). -/
def Mach.branchTo (m : Mach) (E : Env) (h : Fibre → Nat) : Mach :=
  m.regroup E.c.id E.g.id (groupLanes h E.lanes) fun v g => g.goTo v

/-- A branch: the targets of the active lanes are checked (R217), `link` is written, and the lanes go on (R216). With no active
lane the gang goes on at the next clause (R228). -/
def branch (e : Enc) (target : Fibre → Nat) (link : Fibre → Fibre) : Env → Mach → Mach :=
  afterResults e fun E m =>
    let bad := (E.act e).filter fun f => !validTarget (target f)
    if bad != [] then trapLanes E m e 4 bad
    else
      let m1 := m.updCrew E.c.id fun c => c.mapActive E.g e link
      (m1.branchTo E fun f => if guardOn e f then target f else E.nextHdr).tick E.c.core 1

def braM (e : Enc) (E : Env) (m : Mach) : Mach := branch e (fun _ => E.offsetTarget (branchOff e)) id E m
def brxM (e : Enc) : Env → Mach → Mach := branch e (fun f => f.val e.va 2) id
def retM (e : Enc) : Env → Mach → Mach := branch e (fun f => f.val e.va 2) id
def callM (e : Enc) (E : Env) (m : Mach) : Mach :=
  branch e (fun _ => E.offsetTarget (branchOff e)) (fun f => f.setVal e.vd 2 E.nextHdr) E m

/-- REGROUP (R29, R218): the active lanes wait at the next header, the others go on there. -/
def regroupM (e : Enc) : Env → Mach → Mach :=
  afterResults e fun E m =>
    let n := min (((E.act e).head?.map (b32At e)).getD 0) 65535
    let act := maskOf (E.act e)
    (m.regroup E.c.id E.g.id
      ((if E.g.mask &&& ~~~act = 0 then [] else [(0, E.g.mask &&& ~~~act)]) ++ if act = 0 then [] else [(1, act)])
      fun v g => if v = 1 then { g.goTo E.nextHdr with state := .regroup (m.clock E.c.core + n) } else g.goTo E.nextHdr).tick
        E.c.core 1

/-- A gang of a core that is ready in the pending set. -/
def Gang.pendingReady (g : Gang) : Bool := g.place == .pending && g.state == .ready

/-- The oldest of some gangs by the time each became ready. -/
def oldest : List (Nat × Gang) → Option (Nat × Gang)
  | [] => none
  | p :: t =>
    match oldest t with
    | some q => if q.2.readySince < p.2.readySince then some q else some p
    | none => some p

/-- The gangs of a core, each with its crew. -/
def Mach.coreGangs (m : Mach) (core : Nat) : List (Nat × Gang) :=
  (m.crews.filter fun c => c.core == core).flatMap fun c => c.gangs.map fun g => (c.id, g)

/-- YIELD (R219). -/
def yieldM (e : Enc) : Env → Mach → Mach :=
  afterResults e fun E m =>
    let m1 := (m.updGang E.c.id E.g.id fun g => g.goTo E.nextHdr).tick E.c.core 1
    match E.act e, oldest ((m.coreGangs E.c.core).filter fun p => p.2.pendingReady) with
    | _ :: _, some p =>
      (m1.updGang E.c.id E.g.id fun g => { g with place := .pending, readySince := m1.clock E.c.core, passedOver := 0 }).updGang
        p.1 p.2.id fun g => { g with place := .active, issued := 0, waited := 0 }
    | _, _ => m1

def nopM (e : Enc) (E : Env) (m : Mach) : Mach := (m.advance E e).tick E.c.core 1

/-! ### Spring bins (R35, R36) -/

/-- The crew's spring timer (R31). -/
def springClocks (l : Launch) : Nat :=
  let v := l.field 53 38
  if v = 0 then 256 else max v 16

/-- A fibre placed in the bin of its entry address, or in a free bin, of which R35 leaves the choice: the lowest-numbered one (log entry
74). None where no bin can take it: one that is full, or whose timer has run, takes none (R35, R36). -/
def Crew.placeFibre (c : Crew) (now deadline entry : Nat) (regs : List Word) : Option Crew :=
  let f : BinFibre := ⟨regs, c.spawned % 2 ^ 16⟩
  match c.bins.find? fun b => b.key == entry with
  | some b =>
    if b.ready ∨ b.deadline ≤ now ∨ Config.width ≤ b.fibres.length then none
    else
      some { c with
        spawned := c.spawned + 1
        bins := c.bins.map fun q =>
          if q.key == entry then { q with fibres := q.fibres ++ [f], ready := q.fibres.length + 1 == Config.width } else q }
  | none =>
    match (List.range 16).find? fun n => c.bins.all fun b => b.n != n with
    | none => none
    | some n => some { c with spawned := c.spawned + 1, bins := c.bins ++ [⟨n, entry, [f], false, deadline, 0, c.spawned⟩] }

/-- The lowest-numbered free course (R25). -/
def Crew.freeCourse (c : Crew) : Option Nat :=
  (List.range (c.limit / Config.width)).find? fun k => c.fibres.all fun f => f.exited || f.course != k

/-- A fibre as it starts (R22, R59). -/
def Fibre.start (slot nregs : Nat) (regs : List Word) (stream : Nat) : Fibre :=
  { slot := slot, regs := regs ++ List.replicate (nregs - regs.length) 0, preds := 0, stream := BitVec.ofNat 64 stream
    stores := [], pend := [], nextBatch := 0, copyErrs := 0, moreBatches := 0, moreOpen := 0, fabErrs := 0, fabNode := 0, masked := false, inHandler := false
    tinfo := 0, brk := none, latched := none, carry := ⟨none, none⟩, exited := false, ghost := 0 }

/-- A gang of new fibres at an entry clause (R26). -/
def Gang.start (id course hdr : Nat) (mask : BitVec 32) (place : Place) (now : Nat) : Gang :=
  { id := id, course := course, mask := mask, hdr := hdr, idx := 0, begun := false, header := 0, state := .ready, place := place
    wake := .none, waited := 0, issued := 0, readySince := now, passedOver := 0, ringWait := none, ringAt := 0, sPark := false
    fetchError := none, kept := none }

/-- Gangs parked for want of a bin try again (R36). -/
def Mach.wakeSpring (m : Mach) (crew : Nat) : Mach :=
  match m.crew crew with
  | none => m
  | some c => (c.gangs.filter fun g => g.state == .parked .springFull).foldl (fun m g => m.wakeGang crew g.id) m

/-- The ready bin whose first fibre entered earliest. -/
def firstReady : List SpringBin → Option SpringBin
  | [] => none
  | b :: t =>
    match firstReady t with
    | some q => if b.ready && b.rank < q.rank then some b else some q
    | none => if b.ready then some b else none

/-- One ready bin launched into the lowest free course (R35 steps 4 to 7); a crew being pre-empted or ended launches none. -/
def Mach.launchBin (m : Mach) (crew : Nat) : Mach × Bool :=
  match m.crew crew with
  | none => (m, false)
  | some c =>
    if c.stopping then (m, false)
    else
      match firstReady c.bins, c.freeCourse with
      | some b, some k =>
        let seed := (m.launch c.launch).field 511 448
        let fs := (List.range b.fibres.length).map fun l =>
          let p := b.fibres.getD l ⟨[], 0⟩
          Fibre.start (32 * k + l) c.nregs p.regs (streamSeed seed c.idx (32 * k + l) (some p.count))
        let g := Gang.start m.nextId k b.key (BitVec.ofNat 32 (2 ^ b.fibres.length - 1)) (m.placeFor c.core) (m.clock c.core)
        let m1 := m.updCrew crew fun c =>
          { c with fibres := c.fibres ++ fs, gangs := c.gangs ++ [g], bins := c.bins.filter fun q => q.n != b.n }
        (({ m1 with nextId := m1.nextId + 1 } : Mach).wakeSpring crew, true)
      | _, _ => (m, false)

/-- Every bin that can launch does: a crew has at most 16. -/
def Mach.launchBins (m : Mach) (crew : Nat) : Nat → Mach
  | 0 => m
  | n + 1 =>
    let r := m.launchBin crew
    if r.2 then Mach.launchBins r.1 crew n else r.1

/-! ### SPAWN and FEXIT -/

/-- What a SPAWN has done: the lanes that no bin could take, each with whether a bin launched after its try, and whether a bin
launched at all. -/
structure Spawned where
  out : List (Fibre × Bool)
  launched : Bool

/-- Placing the lanes' fibres in home-lane order (R221). -/
def Mach.spawnLanes (m : Mach) (E : Env) (e : Enc) (entry : Fibre → Nat) : List Fibre → Mach × Spawned
  | [] => (m, ⟨[], false⟩)
  | f :: t =>
    match m.crew E.c.id with
    | none => (m, ⟨[], false⟩)
    | some c =>
      let regs := (List.range (e.m 62 59)).map fun i => f.regs.getD (e.va + i) 0
      match c.placeFibre (m.clock c.core) (m.clock c.core + springClocks E.l) (entry f) regs with
      | some c' =>
        let m1 := m.updCrew c.id fun _ => c'
        let r := (m1.launchBins c.id 16).spawnLanes E e entry t
        (r.1, { r.2 with launched := r.2.launched || (m1.launchBin c.id).2 })
      | none =>
        let r := m.spawnLanes E e entry t
        (r.1, { r.2 with out := (f, r.2.launched) :: r.2.out })

/-- The lanes that no bin could take park, those of them ready again for which a bin launched since they tried (R36, R221). -/
def Mach.parkSpawn (m : Mach) (crew gang : Nat) (out : List (Fibre × Bool)) : Mach :=
  let wait := maskOf ((out.filter fun p => !p.2).map (·.1))
  let again := maskOf ((out.filter (·.2)).map (·.1))
  let m1 := if wait = 0 then m else m.parkLanes crew gang wait .springFull .none
  if again = 0 then m1
  else
    let r := m1.splitOff crew gang again
    (r.1.parkGang crew r.2 .springFull .none).wakeGang crew r.2

def spawnM (e : Enc) (E : Env) (m : Mach) : Mach :=
  let entry := fun (f : Fibre) => if e.isL then E.offsetTarget (toSigned 32 e.lit) else f.val e.vb 2
  let act := E.act e
  let bad := act.filter fun f => !validTarget (entry f)
  if bad != [] then trapLanes E m e 4 bad
  else
    let r := m.releaseNow E.d E.c act 1 7
    if !r.2 then r.1.stall E.c.id E.g.id
    else
      let p := r.1.spawnLanes E e entry act
      let out := maskOf (p.2.out.map (·.1))
      if e.mb 58 then
        ((p.1.updCrew E.c.id fun c => c.mapActive E.g e fun f => f.setPred e.vd (!inMask out f)).advance E e).tick E.c.core 1
      else
        let m1 := p.1.parkSpawn E.c.id E.g.id p.2.out
        (if E.g.mask &&& ~~~out = 0 then m1 else m1.advance E e).tick E.c.core 1

/-- A slot number of an exiting fibre made one that no slot has: `base` is above every slot and new with every exit. -/
def ghostOf (base : Nat) (slots : List Nat) (s : Nat) : Nat := if slots.contains s then base * 2 ^ 20 + s else s

/-- What exiting fibres posted goes on under their ghost numbers, so that a later fibre of the slot has no part in it (R223). -/
def Crew.ghostPosted (c : Crew) (base : Nat) (slots : List Nat) : Crew :=
  let g := ghostOf base slots
  { c with
    copies := c.copies.map fun p => { p with slot := g p.slot }
    gpasses := c.gpasses.map fun p => { p with slot := g p.slot, by_ := p.by_.map g }
    channels := c.channels.map fun h => { h with by_ := h.by_.map g }
    cursors := c.cursors.map fun h => { h with by_ := h.by_.map g }
    binning := c.binning.map fun b => { b with by_ := b.by_.map g } }

/-- The same of the posts, fabric requests and persistent write-backs of a crew. -/
def Mach.ghostPosted (m : Mach) (crew base : Nat) (slots : List Nat) : Mach :=
  let g := ghostOf base slots
  let kind := fun (k : OutKind) => match k with
    | .atomic fetch op type lanes vd s acq => OutKind.atomic fetch op type (lanes.map fun l => (g l.1, l.2)) vd s acq
    | k => k
  { m.updCrew crew fun c => c.ghostPosted base slots with
    posts := m.posts.map fun p =>
      if p.crew == crew then
        let left := (m.crew crew).bind fun c => if slots.contains p.slot then c.fibre p.slot else none
        { p with slot := g p.slot, lanes := p.lanes.map g, stream := (left.map (·.stream)).getD p.stream }
      else p
    fabOut := m.fabOut.map fun o => if o.crew == crew then { o with slot := g o.slot, kind := kind o.kind } else o
    persist := m.persist.map fun p => if p.crew == crew then { p with slot := g p.slot } else p }

/-- Fibres of a mask end (R223): pending results go, queues still drain, a latched pre-emption lapses. -/
def Crew.exitLanes (c : Crew) (base course : Nat) (mask : BitVec 32) : Crew :=
  let l := c.fibres.map fun f =>
    if !f.exited && f.course == course && inMask mask f then
      { f with
        exited := true, ghost := base * 2 ^ 20 + f.slot, pend := [], masked := false, inHandler := false, latched := none }
    else f
  { c with fibres := l.filter fun f => !(f.exited && f.stores.isEmpty) }

/-- FEXIT (R223): a gang with no lane left is gone, and a course that it leaves free may take a bin (R35). -/
def fexitM (e : Enc) : Env → Mach → Mach :=
  afterResults e fun E m =>
    let out := maskOf (E.act e)
    let left := E.g.mask &&& ~~~out
    let m0 := m.ghostPosted E.c.id m.nextId ((E.act e).map (·.slot))
    let m1 := m0.updCrew E.c.id fun c =>
      let c1 := c.exitLanes m.nextId E.g.course out
      if left = 0 then { c1 with gangs := c1.gangs.filter fun g => g.id != E.g.id }
      else c1.updGang E.g.id fun g => { g.goTo E.nextHdr with mask := left }
    (({ m1 with nextId := m1.nextId + 1 } : Mach).launchBins E.c.id 16).tick E.c.core 1

/-! ### Stopping for debugger, service and handler (R224 to R227) -/

/-- The active lanes made the gang that stops; the others go on at the next instruction (R224). -/
def Mach.stopSplit (m : Mach) (E : Env) (e : Enc) : Mach :=
  let rest := E.g.mask &&& ~~~maskOf (E.act e)
  if rest = 0 then m
  else
    let r := m.splitOff E.c.id E.g.id rest
    (r.1.updGang E.c.id r.2 fun g => { g.bump with state := .ready, wake := .none }).updCrew E.c.id fun c => c.switchPark r.2 e.s

/-- A stopped gang parks for an answer; an S bit parks it for its results once it goes on (R159). -/
def Mach.stopFor (m : Mach) (crew gang : Nat) (reason : ParkReason) (s : Bool) : Mach :=
  (m.parkGang crew gang reason .ring).updGang crew gang fun g => { g with sPark := s }

/-- BKPT (R224, R362). -/
def bkptM (e : Enc) (E : Env) (m : Mach) : Mach :=
  if E.act e = [] then (m.advance E e).tick E.c.core 1
  else
    let debug := m.headerNat E.d E.x 0x48 8
    if bitOf debug 0 then
      let m1 := ((m.stopSplit E e).stopFor E.c.id E.g.id .bkpt e.s).askRing E.c.id E.g.id (3, e.va, 0)
      if bitOf debug 1 then m1.updCrew E.c.id fun c => { c with stopAll := true } else m1
    else takeTrap E m (maskOf (E.act e)) 40 fun _ => e.va

/-- SVC (R224, R225): the gang splits, and after its release the stopped one waits for its ring entries and their answers. -/
def svcM (e : Enc) (E : Env) (m : Mach) : Mach :=
  if E.act e = [] then (m.advance E e).tick E.c.core 1
  else
    let r := (m.stopSplit E e).releaseNow E.d E.c (E.act e) 5 63
    if !r.2 then r.1.hold E.c.id E.g.id false
    else (r.1.stopFor E.c.id E.g.id .svc e.s).askRing E.c.id E.g.id (1, e.va, e.vd)

/-- The lanes in which a pre-emption stands latched. -/
def latchedMask (l : List Fibre) : BitVec 32 := maskOf (l.filter (·.latched.isSome))

/-- A pre-emption that was latched in some lanes takes effect in their gangs (R227, R352). -/
def Mach.takeLatched (m : Mach) (crew course : Nat) (mask : BitVec 32) : Mach :=
  match m.crew crew with
  | none => m
  | some c =>
    if !c.stopping then m
    else
      (c.gangs.filter fun g => g.course == course && g.mask &&& mask != 0 && !(c.lanes g).any (·.masked)
          && (match g.state with | .parked _ => false | _ => true)).foldl
        (fun m g => m.parkGang crew g.id .preempt .none) m

/-- The resume field of a fibre's frame as it stands, and where it leads (R224, R350). -/
def Mach.resumeField (m : Mach) (E : Env) (f : Fibre) : Nat :=
  let w := leNat ((List.range 8).map fun i =>
    match hbmLinear (E.c.image + frameOffset f.slot + 16 + i) with
    | some q => m.peek E.c.core 1 E.key ⟨.hbm, q⟩
    | none => 0)
  match f.brk with
  | some (r, n) => if w = r then n else w
  | none => w

/-- A clause header that a TRET asks for and cannot read: the gang parks at the TRET until its fault is answered (R373, R374), or its
lanes take TRANSLATION (R376) or MEMORY_ERROR (R363). -/
def tretWaits (e : Enc) (E : Env) (m : Mach) (r : Resume) : Mach :=
  match r with
  | .ok | .bad => m
  | .unreadable => trapLanes E m e 13 (E.act e)
  | .fault va c l =>
    if E.g.fetchError == some (pageOf va) then
      trapLanes E (m.updGang E.c.id E.g.id fun g => { g with fetchError := none }) e 12 (E.act e)
    else
      let r := m.raiseFault E.d E.x E.c.core (.fetch ⟨E.c.id, E.g.id⟩) va c l 4
      r.1.parkGang E.c.id E.g.id .translation (.fault r.2)

/-- TRET (R226, R350). It leaves its fibres outside any handler, also where their trap was taken inside one (log entry 75). -/
def tretM (e : Enc) : Env → Mach → Mach :=
  afterResults e fun E m =>
    let act := E.act e
    if act = [] then (m.updGang E.c.id E.g.id fun g => g.goTo E.nextHdr).tick E.c.core 1
    else if act.any fun f => !f.inHandler then takeTrap E m (maskOf act) 1 fun _ => e.parcel
    else
      let m1 := m.drainAll E.d E.c.id act
      let check := fun (f : Fibre) => m1.resumeCheck E.d E.x E.cluster (m1.resumeField E f)
      let bad := act.filter fun f => check f == .bad
      if bad != [] then trapLanes E m1 e 4 bad
      else if !(act.all fun f => check f == .ok) then
        tretWaits e E m1 (((act.map check).find? fun r => r == .unreadable).getD (((act.map check).find? fun r => r != .ok).getD .ok))
      else
        let rest := E.g.mask &&& ~~~maskOf act
        let m2 := if rest = 0 then m1 else
          let r := m1.splitOff E.c.id E.g.id rest
          r.1.updGang E.c.id r.2 fun g => g.goTo E.nextHdr
        let m3 := m2.updCrew E.c.id fun c => c.mapActive E.g e fun f =>
          { f with masked := false, inHandler := false, tinfo := 0, brk := none, latched := none }
        let m4 := m3.regroup E.c.id E.g.id (groupLanes (m1.resumeField E) act) fun w g =>
          { m1.resumeAt E.d E.x g w with state := .ready, wake := .none, waited := 0 }
        (m4.takeLatched E.c.id E.g.course (latchedMask act)).tick E.c.core 1

/-- TMASK (R227). A pre-emption that was asked for before the traps are masked is latched as they are (log entry 76). -/
def tmaskM (e : Enc) (E : Env) (m : Mach) : Mach :=
  let now := m.clock E.c.core
  let m1 := (m.updCrew E.c.id fun c =>
    (c.mapActive E.g e fun f =>
      if e.va = 1 then { f with masked := true, latched := if E.c.stopping && f.latched.isNone then some now else f.latched }
      else { f with masked := false, latched := none }).advance E.g.id e).tick E.c.core 1
  if e.va = 1 then m1 else m1.takeLatched E.c.id E.g.course (latchedMask (E.act e))

/-- BRA, W form (R216). -/
def execBraW (f : WForm) (s : State) : Host.Outcome State Fault Refusal :=
  isa (checked (f.enc 0x0D0) (shapeOf (f.enc 0x0D0)) (braM (f.enc 0x0D0))) s

/-- BRA, L form (R216). -/
def execBraL (f : LForm) (s : State) : Host.Outcome State Fault Refusal :=
  isa (checked (f.enc 0x0D0) (shapeOf (f.enc 0x0D0)) (braM (f.enc 0x0D0))) s

/-- BRX, W form (R216). -/
def execBrx (f : WForm) (s : State) : Host.Outcome State Fault Refusal :=
  isa (checked (f.enc 0x0D1) (shapeOf (f.enc 0x0D1)) (brxM (f.enc 0x0D1))) s

/-- CALL, W form (R216). -/
def execCallW (f : WForm) (s : State) : Host.Outcome State Fault Refusal :=
  isa (checked (f.enc 0x0D2) (shapeOf (f.enc 0x0D2)) (callM (f.enc 0x0D2))) s

/-- CALL, L form (R216). -/
def execCallL (f : LForm) (s : State) : Host.Outcome State Fault Refusal :=
  isa (checked (f.enc 0x0D2) (shapeOf (f.enc 0x0D2)) (callM (f.enc 0x0D2))) s

/-- RET, C form (R216). -/
def execRetC (f : CForm) (s : State) : Host.Outcome State Fault Refusal :=
  isa (checked (f.enc 0x0D3) (shapeOf (f.enc 0x0D3)) (retM (f.enc 0x0D3))) s

/-- RET, W form (R216). -/
def execRetW (f : WForm) (s : State) : Host.Outcome State Fault Refusal :=
  isa (checked (f.enc 0x0D3) (shapeOf (f.enc 0x0D3)) (retM (f.enc 0x0D3))) s

/-- REGROUP, W form (R218). -/
def execRegroupW (f : WForm) (s : State) : Host.Outcome State Fault Refusal :=
  isa (checked (f.enc 0x0D4) (shapeOf (f.enc 0x0D4)) (regroupM (f.enc 0x0D4))) s

/-- REGROUP, L form (R218). -/
def execRegroupL (f : LForm) (s : State) : Host.Outcome State Fault Refusal :=
  isa (checked (f.enc 0x0D4) (shapeOf (f.enc 0x0D4)) (regroupM (f.enc 0x0D4))) s

/-- YIELD, C form (R219). -/
def execYieldGang (f : CForm) (s : State) : Host.Outcome State Fault Refusal :=
  isa (checked (f.enc 0x0D5) (shapeOf (f.enc 0x0D5)) (yieldM (f.enc 0x0D5))) s

/-- SPAWN, W form (R221). -/
def execSpawnW (f : WForm) (s : State) : Host.Outcome State Fault Refusal :=
  isa (checked (f.enc 0x0D6) (shapeOf (f.enc 0x0D6)) (spawnM (f.enc 0x0D6))) s

/-- SPAWN, L form (R221). -/
def execSpawnL (f : LForm) (s : State) : Host.Outcome State Fault Refusal :=
  isa (checked (f.enc 0x0D6) (shapeOf (f.enc 0x0D6)) (spawnM (f.enc 0x0D6))) s

/-- FEXIT, C form (R223). -/
def execFexitC (f : CForm) (s : State) : Host.Outcome State Fault Refusal :=
  isa (checked (f.enc 0x0D7) (shapeOf (f.enc 0x0D7)) (fexitM (f.enc 0x0D7))) s

/-- FEXIT, W form (R223). -/
def execFexitW (f : WForm) (s : State) : Host.Outcome State Fault Refusal :=
  isa (checked (f.enc 0x0D7) (shapeOf (f.enc 0x0D7)) (fexitM (f.enc 0x0D7))) s

/-- NOP, C form (R220). -/
def execNop (f : CForm) (s : State) : Host.Outcome State Fault Refusal :=
  isa (checked (f.enc 0x0D8) (shapeOf (f.enc 0x0D8)) (nopM (f.enc 0x0D8))) s

/-- BKPT, C form (R224). -/
def execBkptC (f : CForm) (s : State) : Host.Outcome State Fault Refusal :=
  isa (checked (f.enc 0x0D9) (shapeOf (f.enc 0x0D9)) (bkptM (f.enc 0x0D9))) s

/-- BKPT, W form (R224). -/
def execBkptW (f : WForm) (s : State) : Host.Outcome State Fault Refusal :=
  isa (checked (f.enc 0x0D9) (shapeOf (f.enc 0x0D9)) (bkptM (f.enc 0x0D9))) s

/-- SVC, C form (R225). -/
def execSvcC (f : CForm) (s : State) : Host.Outcome State Fault Refusal :=
  isa (checked (f.enc 0x0DA) (shapeOf (f.enc 0x0DA)) (svcM (f.enc 0x0DA))) s

/-- SVC, W form (R225). -/
def execSvcW (f : WForm) (s : State) : Host.Outcome State Fault Refusal :=
  isa (checked (f.enc 0x0DA) (shapeOf (f.enc 0x0DA)) (svcM (f.enc 0x0DA))) s

/-- TRET, C form (R226). -/
def execTret (f : CForm) (s : State) : Host.Outcome State Fault Refusal :=
  isa (checked (f.enc 0x0DB) (shapeOf (f.enc 0x0DB)) (tretM (f.enc 0x0DB))) s

/-- TMASK, C form (R227). -/
def execTmaskC (f : CForm) (s : State) : Host.Outcome State Fault Refusal :=
  isa (checked (f.enc 0x0DC) (shapeOf (f.enc 0x0DC)) (tmaskM (f.enc 0x0DC))) s

/-- TMASK, W form (R227). -/
def execTmaskW (f : WForm) (s : State) : Host.Outcome State Fault Refusal :=
  isa (checked (f.enc 0x0DC) (shapeOf (f.enc 0x0DC)) (tmaskM (f.enc 0x0DC))) s

end Sys2Proof.Machine
end

