-- ==== Sys2Proof/Decode.lean ====
section
/-! DEFINITION. The decoder, total on any bytes and refusing by name (R150, R151, R155, R163, R164), and the encoder written
from the same tables. -/

namespace Sys2Proof

/-- Why bytes are no instruction. -/
inductive DecodeError where
  /-- Fewer bytes than the form needs. -/
  | truncated
  /-- Form 0b11 (R150). -/
  | reservedForm
  /-- An unassigned opcode (R164). -/
  | unassigned (op : Nat)
  /-- A form that the opcode map does not permit (R155). -/
  | formNotPermitted (op : Nat)
  deriving DecidableEq, Repr

def cTable0 : List (Nat × (CForm → Instr)) :=
  [(0x009, .inegC), (0x00A, .iabsC), (0x010, .movC), (0x012, .movsC), (0x043, .notC), (0x04E, .popcC), (0x04F, .lzcC), (0x050, .tzcC), (0x052, .brevC), (0x054, .pmovC), (0x0D3, .retC), (0x0D5, .yieldGang), (0x0D7, .fexitC), (0x0D8, .nop), (0x0D9, .bkptC), (0x0DA, .svcC), (0x0DB, .tret), (0x0DC, .tmaskC), (0x144, .pfenceC), (0x151, .cpsealC), (0x152, .cpwaitC)]
/-- The C-form opcodes (R163). -/
def cTable : List (Nat × (CForm → Instr)) := cTable0

def wTable0 : List (Nat × (WForm → Instr)) :=
  [(0x000, .iaddW), (0x001, .iaddcW), (0x002, .isubW), (0x003, .imulW), (0x004, .imulhW), (0x005, .imadW), (0x006, .imadwW), (0x007, .idivW), (0x008, .iremW), (0x009, .inegW), (0x00A, .iabsW), (0x00B, .iminW), (0x00C, .imaxW), (0x00D, .icmpW), (0x00E, .iselW), (0x00F, .leaW), (0x010, .movW), (0x011, .moviW), (0x012, .movsW), (0x040, .andW), (0x041, .orW), (0x042, .xorW), (0x043, .notW), (0x044, .andnW)]
def wTable1 : List (Nat × (WForm → Instr)) :=
  [(0x045, .lop3W), (0x046, .shlW), (0x047, .shrW), (0x048, .sarW), (0x049, .rolW), (0x04A, .rorW), (0x04B, .shfW), (0x04C, .bfxW), (0x04D, .bfiW), (0x04E, .popcW), (0x04F, .lzcW), (0x050, .tzcW), (0x051, .fnsW), (0x052, .brevW), (0x053, .plog), (0x054, .pmovW), (0x080, .faddW), (0x081, .fsubW), (0x082, .fmulW), (0x083, .ffmaW), (0x084, .fminW), (0x085, .fmaxW), (0x086, .fcmpW), (0x087, .fclass)]
def wTable2 : List (Nat × (WForm → Instr)) :=
  [(0x088, .frcp), (0x089, .frsq), (0x08A, .fsqrt), (0x08B, .fexp2), (0x08C, .flog2), (0x08D, .fsin), (0x08E, .fcos), (0x08F, .ftanh), (0x090, .cvt), (0x0C0, .shflW), (0x0C1, .pushlW), (0x0C2, .xred), (0x0C3, .xscan), (0x0C4, .vote), (0x0C5, .matchLanes), (0x0C6, .elect), (0x0D0, .braW), (0x0D1, .brx), (0x0D2, .callW), (0x0D3, .retW), (0x0D4, .regroupW), (0x0D6, .spawnW), (0x0D7, .fexitW), (0x0D9, .bkptW)]
def wTable3 : List (Nat × (WForm → Instr)) :=
  [(0x0DA, .svcW), (0x0DC, .tmaskW), (0x100, .ldW), (0x101, .stW), (0x102, .ldsW), (0x103, .stsW), (0x104, .prefW), (0x110, .ldnW), (0x111, .stnW), (0x112, .peq), (0x113, .paddW), (0x114, .pdiff), (0x115, .pname), (0x116, .psize), (0x117, .pres), (0x140, .atomW), (0x141, .atomrW), (0x142, .fence), (0x143, .xfence), (0x144, .pfenceW), (0x150, .cpaW), (0x151, .cpsealW), (0x152, .cpwaitW), (0x153, .xfer)]
def wTable4 : List (Nat × (WForm → Instr)) :=
  [(0x154, .xstat), (0x160, .ginitW), (0x161, .garriveW), (0x162, .gexpectW), (0x163, .gwait), (0x164, .gread), (0x165, .gfree), (0x180, .mmaW), (0x181, .mmasW), (0x182, .bldW), (0x183, .azero), (0x184, .ard), (0x185, .astoreW), (0x186, .astzW), (0x187, .cvtqW), (0x188, .dqW), (0x189, .tchkW), (0x1C0, .ceopen), (0x1C1, .cerun), (0x1C2, .cesplit), (0x1C3, .cesaveW), (0x1C4, .celoadW), (0x1C5, .cestat), (0x1C6, .ceclose)]
def wTable5 : List (Nat × (WForm → Instr)) :=
  [(0x1D0, .binitW), (0x1D1, .bapp), (0x1D2, .breplay), (0x1D3, .bstat), (0x1F0, .gpassW)]
/-- The W-form opcodes (R163). -/
def wTable : List (Nat × (WForm → Instr)) := wTable0 ++ wTable1 ++ wTable2 ++ wTable3 ++ wTable4 ++ wTable5

def lTable0 : List (Nat × (LForm → Instr)) :=
  [(0x000, .iaddL), (0x001, .iaddcL), (0x002, .isubL), (0x003, .imulL), (0x004, .imulhL), (0x005, .imadL), (0x006, .imadwL), (0x007, .idivL), (0x008, .iremL), (0x00B, .iminL), (0x00C, .imaxL), (0x00D, .icmpL), (0x00E, .iselL), (0x00F, .leaL), (0x011, .moviL), (0x040, .andL), (0x041, .orL), (0x042, .xorL), (0x044, .andnL), (0x045, .lop3L), (0x046, .shlL), (0x047, .shrL), (0x048, .sarL), (0x049, .rolL)]
def lTable1 : List (Nat × (LForm → Instr)) :=
  [(0x04A, .rorL), (0x04B, .shfL), (0x04C, .bfxL), (0x04D, .bfiL), (0x051, .fnsL), (0x080, .faddL), (0x081, .fsubL), (0x082, .fmulL), (0x083, .ffmaL), (0x084, .fminL), (0x085, .fmaxL), (0x086, .fcmpL), (0x0C0, .shflL), (0x0C1, .pushlL), (0x0D0, .braL), (0x0D2, .callL), (0x0D4, .regroupL), (0x0D6, .spawnL), (0x100, .ldL), (0x101, .stL), (0x102, .ldsL), (0x103, .stsL), (0x104, .prefL), (0x110, .ldnL)]
def lTable2 : List (Nat × (LForm → Instr)) :=
  [(0x111, .stnL), (0x113, .paddL), (0x140, .atomL), (0x141, .atomrL), (0x150, .cpaL), (0x160, .ginitL), (0x161, .garriveL), (0x162, .gexpectL), (0x182, .bldL), (0x185, .astoreL), (0x186, .astzL), (0x187, .cvtqL), (0x188, .dqL), (0x189, .tchkL), (0x1C3, .cesaveL), (0x1C4, .celoadL), (0x1D0, .binitL), (0x1F0, .gpassL)]
/-- The L-form opcodes (R163). MOV has none: its L form is refused as a form (R155; log entry 67). -/
def lTable : List (Nat × (LForm → Instr)) := lTable0 ++ lTable1 ++ lTable2

/-- The opcode of an instruction's first parcel (R151). -/
def opcodeOf (n : Nat) : Nat := n / 8 % 512

/-- The instruction of a form's table with an opcode. -/
def pick {α : Type} (t : List (Nat × (α → Instr))) (op : Nat) (f : α) : Option Instr :=
  match t.find? fun p => p.1 == op with
  | some p => some (p.2 f)
  | none => none

/-- Whether an opcode is assigned in some form (R163, R164). -/
def assigned (op : Nat) : Bool := cOpcodes.contains op || wOpcodes.contains op || lOpcodes.contains op

/-- The error for an opcode that a form's table lacks. -/
def noSuch (op : Nat) : DecodeError := if assigned op then .formNotPermitted op else .unassigned op

/-- A whole instruction as a number, with its form (R150, R151). -/
def decodeNum (n : Nat) : Except DecodeError (Instr × Nat) :=
  let op := opcodeOf n
  if n % 4 = 0 then
    match pick cTable op (CForm.ofNum n) with | some i => .ok (i, 4) | none => .error (noSuch op)
  else if n % 4 = 1 then
    match pick wTable op (WForm.ofNum n) with | some i => .ok (i, 8) | none => .error (noSuch op)
  else if n % 4 = 2 then
    match pick lTable op (LForm.ofNum n) with | some i => .ok (i, 12) | none => .error (noSuch op)
  else .error .reservedForm

/-- Bytes of an instruction by the form bits of its first parcel (R150). -/
def formBytes (n : Nat) : Nat := if n % 4 = 0 then 4 else if n % 4 = 1 then 8 else 12

/-- Bytes as a number, little-endian. -/
def bytesNat : List Byte → Nat
  | [] => 0
  | b :: t => b.toNat + 256 * bytesNat t

/-- The first instruction of a list of bytes, with the bytes it takes (R141, R150). -/
def decode (bs : List Byte) : Except DecodeError (Instr × Nat) :=
  if bs.length < 4 then .error .truncated
  else
    let n := bytesNat (bs.take 4)
    if n % 4 = 3 then .error .reservedForm
    else if bs.length < formBytes n then .error .truncated
    else decodeNum (bytesNat (bs.take (formBytes n)))

/-- The instruction as bits: how many, and the number whose bit 0 is bit 0 of the first parcel (R151). The steps of the part
that are no instruction forms have none. -/
def encodeNum : Instr → Option (Nat × Nat)
  | .capture => none
  | .queueEnable => none
  | .dependencePoll => none
  | .launch => none
  | .mark => none
  | .evict => none
  | .reclaim => none
  | .writeback => none
  | .admitCrew => none
  | .priorityAging => none
  | .coadmitWait => none
  | .preemptForPriority => none
  | .crewResume => none
  | .crewRetire => none
  | .completionRecord => none
  | .gangExchange => none
  | .clauseStart => none
  | .registerResultWrite => none
  | .storeDrain => none
  | .regroupBound => none
  | .springTimerExpiry => none
  | .handlerTimeout => none
  | .requestRingWrite => none
  | .responseDoorbell => none
  | .responseDoorbellKill => none
  | .faultDoorbellRetry => none
  | .faultDoorbellError => none
  | .preemptionPreempt => none
  | .preemptionResume => none
  | .invalidation => none
  | .invalidationComplete => none
  | .registerWrite => none
  | .pageWalk => none
  | .nameLookup => none
  | .fetchDone => none
  | .eviction => none
  | .cpaCopyDone => none
  | .transferPacket => none
  | .transferRecordDone => none
  | .postGrant => none
  | .postAge => none
  | .matrixStep => none
  | .postDone => none
  | .cursorStep => none
  | .binReplayRegion => none
  | .gpassUnit => none
  | .fabricAck => none
  | .fabricResponse => none
  | .packetArrival => none
  | .tokenGrant => none
  | .tokenExpiry => none
  | .fabricEventWrite => none
  | .abandonNotice => none
  | .resumeRequest => none
  | .peerContextFetch => none
  | .downstreamAck => none
  | .persistTimeout => none
  | .hostApertureAccess => none
  | .atsInvalidate => none
  | .atsInvalidateTimeout => none
  | .ideIntegrityFailure => none
  | .tdispMessage => none
  | .getVersion => none
  | .getCapabilities => none
  | .negotiateAlgorithms => none
  | .getDigests => none
  | .getCertificate => none
  | .challenge => none
  | .getMeasurements => none
  | .keyExchange => none
  | .finish => none
  | .endSession => none
  | .openWorld => none
  | .seal => none
  | .scrub => none
  | .scrubExecute => none
  | .flr => none
  | .singlePartFault => none
  | .portLinkTraining => none
  | .nodeNumberWrite => none
  | .powerCapSet => none
  | .powerCapReached => none
  | .junctionOverLimit => none
  | .junctionShutdown => none
  | .powerLoss => none
  | .powerOn => none
  | .packageReset => none
  | .bootStep => none
  | .faultQueueWrite => none
  | .hostLinkTraining => none
  | .ideKeyManagement => none
  | .pullTokenArrival => none
  | .downstreamLinkDown => none
  | .powerBelowCap => none
  | .junctionRecovered => none
  | .iaddW f => some (64, f.toNum 0x000)
  | .iaddL f => some (96, f.toNum 0x000)
  | .iaddcW f => some (64, f.toNum 0x001)
  | .iaddcL f => some (96, f.toNum 0x001)
  | .isubW f => some (64, f.toNum 0x002)
  | .isubL f => some (96, f.toNum 0x002)
  | .imulW f => some (64, f.toNum 0x003)
  | .imulL f => some (96, f.toNum 0x003)
  | .imulhW f => some (64, f.toNum 0x004)
  | .imulhL f => some (96, f.toNum 0x004)
  | .imadW f => some (64, f.toNum 0x005)
  | .imadL f => some (96, f.toNum 0x005)
  | .imadwW f => some (64, f.toNum 0x006)
  | .imadwL f => some (96, f.toNum 0x006)
  | .idivW f => some (64, f.toNum 0x007)
  | .idivL f => some (96, f.toNum 0x007)
  | .iremW f => some (64, f.toNum 0x008)
  | .iremL f => some (96, f.toNum 0x008)
  | .inegC f => some (32, f.toNum 0x009)
  | .inegW f => some (64, f.toNum 0x009)
  | .iabsC f => some (32, f.toNum 0x00A)
  | .iabsW f => some (64, f.toNum 0x00A)
  | .iminW f => some (64, f.toNum 0x00B)
  | .iminL f => some (96, f.toNum 0x00B)
  | .imaxW f => some (64, f.toNum 0x00C)
  | .imaxL f => some (96, f.toNum 0x00C)
  | .icmpW f => some (64, f.toNum 0x00D)
  | .icmpL f => some (96, f.toNum 0x00D)
  | .iselW f => some (64, f.toNum 0x00E)
  | .iselL f => some (96, f.toNum 0x00E)
  | .leaW f => some (64, f.toNum 0x00F)
  | .leaL f => some (96, f.toNum 0x00F)
  | .movC f => some (32, f.toNum 0x010)
  | .movW f => some (64, f.toNum 0x010)
  | .moviW f => some (64, f.toNum 0x011)
  | .moviL f => some (96, f.toNum 0x011)
  | .movsC f => some (32, f.toNum 0x012)
  | .movsW f => some (64, f.toNum 0x012)
  | .andW f => some (64, f.toNum 0x040)
  | .andL f => some (96, f.toNum 0x040)
  | .orW f => some (64, f.toNum 0x041)
  | .orL f => some (96, f.toNum 0x041)
  | .xorW f => some (64, f.toNum 0x042)
  | .xorL f => some (96, f.toNum 0x042)
  | .notC f => some (32, f.toNum 0x043)
  | .notW f => some (64, f.toNum 0x043)
  | .andnW f => some (64, f.toNum 0x044)
  | .andnL f => some (96, f.toNum 0x044)
  | .lop3W f => some (64, f.toNum 0x045)
  | .lop3L f => some (96, f.toNum 0x045)
  | .shlW f => some (64, f.toNum 0x046)
  | .shlL f => some (96, f.toNum 0x046)
  | .shrW f => some (64, f.toNum 0x047)
  | .shrL f => some (96, f.toNum 0x047)
  | .sarW f => some (64, f.toNum 0x048)
  | .sarL f => some (96, f.toNum 0x048)
  | .rolW f => some (64, f.toNum 0x049)
  | .rolL f => some (96, f.toNum 0x049)
  | .rorW f => some (64, f.toNum 0x04A)
  | .rorL f => some (96, f.toNum 0x04A)
  | .shfW f => some (64, f.toNum 0x04B)
  | .shfL f => some (96, f.toNum 0x04B)
  | .bfxW f => some (64, f.toNum 0x04C)
  | .bfxL f => some (96, f.toNum 0x04C)
  | .bfiW f => some (64, f.toNum 0x04D)
  | .bfiL f => some (96, f.toNum 0x04D)
  | .popcC f => some (32, f.toNum 0x04E)
  | .popcW f => some (64, f.toNum 0x04E)
  | .lzcC f => some (32, f.toNum 0x04F)
  | .lzcW f => some (64, f.toNum 0x04F)
  | .tzcC f => some (32, f.toNum 0x050)
  | .tzcW f => some (64, f.toNum 0x050)
  | .fnsW f => some (64, f.toNum 0x051)
  | .fnsL f => some (96, f.toNum 0x051)
  | .brevC f => some (32, f.toNum 0x052)
  | .brevW f => some (64, f.toNum 0x052)
  | .plog f => some (64, f.toNum 0x053)
  | .pmovC f => some (32, f.toNum 0x054)
  | .pmovW f => some (64, f.toNum 0x054)
  | .faddW f => some (64, f.toNum 0x080)
  | .faddL f => some (96, f.toNum 0x080)
  | .fsubW f => some (64, f.toNum 0x081)
  | .fsubL f => some (96, f.toNum 0x081)
  | .fmulW f => some (64, f.toNum 0x082)
  | .fmulL f => some (96, f.toNum 0x082)
  | .ffmaW f => some (64, f.toNum 0x083)
  | .ffmaL f => some (96, f.toNum 0x083)
  | .fminW f => some (64, f.toNum 0x084)
  | .fminL f => some (96, f.toNum 0x084)
  | .fmaxW f => some (64, f.toNum 0x085)
  | .fmaxL f => some (96, f.toNum 0x085)
  | .fcmpW f => some (64, f.toNum 0x086)
  | .fcmpL f => some (96, f.toNum 0x086)
  | .fclass f => some (64, f.toNum 0x087)
  | .frcp f => some (64, f.toNum 0x088)
  | .frsq f => some (64, f.toNum 0x089)
  | .fsqrt f => some (64, f.toNum 0x08A)
  | .fexp2 f => some (64, f.toNum 0x08B)
  | .flog2 f => some (64, f.toNum 0x08C)
  | .fsin f => some (64, f.toNum 0x08D)
  | .fcos f => some (64, f.toNum 0x08E)
  | .ftanh f => some (64, f.toNum 0x08F)
  | .cvt f => some (64, f.toNum 0x090)
  | .shflW f => some (64, f.toNum 0x0C0)
  | .shflL f => some (96, f.toNum 0x0C0)
  | .pushlW f => some (64, f.toNum 0x0C1)
  | .pushlL f => some (96, f.toNum 0x0C1)
  | .xred f => some (64, f.toNum 0x0C2)
  | .xscan f => some (64, f.toNum 0x0C3)
  | .vote f => some (64, f.toNum 0x0C4)
  | .matchLanes f => some (64, f.toNum 0x0C5)
  | .elect f => some (64, f.toNum 0x0C6)
  | .braW f => some (64, f.toNum 0x0D0)
  | .braL f => some (96, f.toNum 0x0D0)
  | .brx f => some (64, f.toNum 0x0D1)
  | .callW f => some (64, f.toNum 0x0D2)
  | .callL f => some (96, f.toNum 0x0D2)
  | .retC f => some (32, f.toNum 0x0D3)
  | .retW f => some (64, f.toNum 0x0D3)
  | .regroupW f => some (64, f.toNum 0x0D4)
  | .regroupL f => some (96, f.toNum 0x0D4)
  | .yieldGang f => some (32, f.toNum 0x0D5)
  | .spawnW f => some (64, f.toNum 0x0D6)
  | .spawnL f => some (96, f.toNum 0x0D6)
  | .fexitC f => some (32, f.toNum 0x0D7)
  | .fexitW f => some (64, f.toNum 0x0D7)
  | .nop f => some (32, f.toNum 0x0D8)
  | .bkptC f => some (32, f.toNum 0x0D9)
  | .bkptW f => some (64, f.toNum 0x0D9)
  | .svcC f => some (32, f.toNum 0x0DA)
  | .svcW f => some (64, f.toNum 0x0DA)
  | .tret f => some (32, f.toNum 0x0DB)
  | .tmaskC f => some (32, f.toNum 0x0DC)
  | .tmaskW f => some (64, f.toNum 0x0DC)
  | .ldW f => some (64, f.toNum 0x100)
  | .ldL f => some (96, f.toNum 0x100)
  | .stW f => some (64, f.toNum 0x101)
  | .stL f => some (96, f.toNum 0x101)
  | .ldsW f => some (64, f.toNum 0x102)
  | .ldsL f => some (96, f.toNum 0x102)
  | .stsW f => some (64, f.toNum 0x103)
  | .stsL f => some (96, f.toNum 0x103)
  | .prefW f => some (64, f.toNum 0x104)
  | .prefL f => some (96, f.toNum 0x104)
  | .ldnW f => some (64, f.toNum 0x110)
  | .ldnL f => some (96, f.toNum 0x110)
  | .stnW f => some (64, f.toNum 0x111)
  | .stnL f => some (96, f.toNum 0x111)
  | .peq f => some (64, f.toNum 0x112)
  | .paddW f => some (64, f.toNum 0x113)
  | .paddL f => some (96, f.toNum 0x113)
  | .pdiff f => some (64, f.toNum 0x114)
  | .pname f => some (64, f.toNum 0x115)
  | .psize f => some (64, f.toNum 0x116)
  | .pres f => some (64, f.toNum 0x117)
  | .atomW f => some (64, f.toNum 0x140)
  | .atomL f => some (96, f.toNum 0x140)
  | .atomrW f => some (64, f.toNum 0x141)
  | .atomrL f => some (96, f.toNum 0x141)
  | .fence f => some (64, f.toNum 0x142)
  | .xfence f => some (64, f.toNum 0x143)
  | .pfenceC f => some (32, f.toNum 0x144)
  | .pfenceW f => some (64, f.toNum 0x144)
  | .cpaW f => some (64, f.toNum 0x150)
  | .cpaL f => some (96, f.toNum 0x150)
  | .cpsealC f => some (32, f.toNum 0x151)
  | .cpsealW f => some (64, f.toNum 0x151)
  | .cpwaitC f => some (32, f.toNum 0x152)
  | .cpwaitW f => some (64, f.toNum 0x152)
  | .xfer f => some (64, f.toNum 0x153)
  | .xstat f => some (64, f.toNum 0x154)
  | .ginitW f => some (64, f.toNum 0x160)
  | .ginitL f => some (96, f.toNum 0x160)
  | .garriveW f => some (64, f.toNum 0x161)
  | .garriveL f => some (96, f.toNum 0x161)
  | .gexpectW f => some (64, f.toNum 0x162)
  | .gexpectL f => some (96, f.toNum 0x162)
  | .gwait f => some (64, f.toNum 0x163)
  | .gread f => some (64, f.toNum 0x164)
  | .gfree f => some (64, f.toNum 0x165)
  | .mmaW f => some (64, f.toNum 0x180)
  | .mmasW f => some (64, f.toNum 0x181)
  | .bldW f => some (64, f.toNum 0x182)
  | .bldL f => some (96, f.toNum 0x182)
  | .azero f => some (64, f.toNum 0x183)
  | .ard f => some (64, f.toNum 0x184)
  | .astoreW f => some (64, f.toNum 0x185)
  | .astoreL f => some (96, f.toNum 0x185)
  | .astzW f => some (64, f.toNum 0x186)
  | .astzL f => some (96, f.toNum 0x186)
  | .cvtqW f => some (64, f.toNum 0x187)
  | .cvtqL f => some (96, f.toNum 0x187)
  | .dqW f => some (64, f.toNum 0x188)
  | .dqL f => some (96, f.toNum 0x188)
  | .tchkW f => some (64, f.toNum 0x189)
  | .tchkL f => some (96, f.toNum 0x189)
  | .ceopen f => some (64, f.toNum 0x1C0)
  | .cerun f => some (64, f.toNum 0x1C1)
  | .cesplit f => some (64, f.toNum 0x1C2)
  | .cesaveW f => some (64, f.toNum 0x1C3)
  | .cesaveL f => some (96, f.toNum 0x1C3)
  | .celoadW f => some (64, f.toNum 0x1C4)
  | .celoadL f => some (96, f.toNum 0x1C4)
  | .cestat f => some (64, f.toNum 0x1C5)
  | .ceclose f => some (64, f.toNum 0x1C6)
  | .binitW f => some (64, f.toNum 0x1D0)
  | .binitL f => some (96, f.toNum 0x1D0)
  | .bapp f => some (64, f.toNum 0x1D1)
  | .breplay f => some (64, f.toNum 0x1D2)
  | .bstat f => some (64, f.toNum 0x1D3)
  | .gpassW f => some (64, f.toNum 0x1F0)
  | .gpassL f => some (96, f.toNum 0x1F0)

/-- The bytes of a number, little-endian. -/
def natBytes : Nat → Nat → List Byte
  | 0, _ => []
  | n + 1, v => BitVec.ofNat 8 v :: natBytes n (v / 256)

/-- The bytes of an instruction as the hardware stores it: parcels little-endian, the first at the lowest address (R141). -/
def encode (i : Instr) : Option (List Byte) := (encodeNum i).map fun p => natBytes (p.1 / 8) p.2

/-- The instruction read from a table row's bits: `nbits` given bits, every bit above them 0 up to the longest form. -/
def decodeTableWord (nbits w : Nat) : Option Instr :=
  match decode (natBytes 12 (w % 2 ^ nbits)) with
  | .ok p => some p.1
  | .error _ => none

end Sys2Proof
end

