-- ==== Sys2Proof/Machine/Fetch.lean ====
section
/-! DEFINITION. Fetching clauses: the bytes a gang fetches, the structure of a clause (R141 to R147), the waits of its header
(R142, R143), merging at a header (R27, R29), and the step CLAUSE_START. -/

namespace Sys2Proof.Machine

/-- What a fetch of clause bytes answers. -/
inductive Fetched where
  | ok (bytes : List Byte)
  | fault (va cause level : Nat)
  | unreadable
  deriving DecidableEq, Repr

/-- Clause bytes at home, with execute permission (R149, R371, R372). -/
def Mach.fetch (m : Mach) (d : Dev) (x : Ctx) (cluster va n : Nat) : Fetched :=
  match m.rangeRuns d x cluster va n 4 false with
  | .fault a c l => .fault a c l
  | .window => .unreadable
  | .ok runs => if (runLocs runs).any d.unreadable then .unreadable else .ok ((runLocs runs).map (m.homeRead (x.key d)))

/-- The address of instruction `idx` of a body, each instruction as long as its form says (R150). -/
def Mach.instrAddr (m : Mach) (d : Dev) (x : Ctx) (cluster : Nat) : Nat → Nat → Fetched ⊕ Nat
  | 0, a => .inr a
  | k + 1, a =>
    match m.fetch d x cluster a 4 with
    | .ok b => Mach.instrAddr m d x cluster k (a + formBytes (leNat b))
    | e => .inl e

/-- The bytes of the instruction at a gang's program counter: its first parcel, then the whole of it (R28, R150). -/
def Mach.fetchInstr (m : Mach) (d : Dev) (x : Ctx) (cluster hdr idx : Nat) : Fetched :=
  match m.instrAddr d x cluster idx (hdr + 8) with
  | .inl e => e
  | .inr a =>
    match m.fetch d x cluster a 4 with
    | .ok b => if leNat b % 4 = 3 then .ok b else m.fetch d x cluster a (formBytes (leNat b))
    | e => e

/-- A clause fetch that cannot be made (R146, R374, R376): the gang parks at its instruction, or every fibre takes the
TRANSLATION trap that system software asked for, or MEMORY_ERROR (R363). -/
def fetchFailed (E : Env) (m : Mach) (r : Fetched) : Mach :=
  match r with
  | .ok _ => m
  | .unreadable => trapAll E m 13 E.g.mask.toNat
  | .fault va c l =>
    if E.g.fetchError == some (pageOf va) then
      trapAll E (m.updGang E.c.id E.g.id fun g => { g with fetchError := none }) 12 E.g.mask.toNat
    else
      let r := m.raiseFault E.d E.x E.c.core (.fetch ⟨E.c.id, E.g.id⟩) va c l 4
      r.1.parkGang E.c.id E.g.id .translation (.fault r.2)

/-! ### The structure of a clause -/

/-- The first parcels of a body's instructions, or what is wrong with it (checks 4 and 5 of R146). -/
inductive Walk where
  | ok (firsts : List Nat)
  | illegal (idx parcel : Nat)
  | badCount (idx : Nat)
  deriving DecidableEq, Repr

/-- The walk over a body's parcels for the instructions still to come. -/
def walkBody : Nat → Nat → List Nat → Walk
  | 0, _, [] => .ok []
  | 0, idx, _ :: _ => .badCount (idx - 1)
  | _ + 1, idx, [] => .badCount idx
  | n + 1, idx, p :: t =>
    if p % 4 = 3 then .illegal idx p
    else if t.length < p % 4 then .badCount idx
    else
      match walkBody n (idx + 1) (t.drop (p % 4)) with
      | .ok l => .ok (p :: l)
      | e => e

/-- Bytes as parcels of 32 bits. -/
def parcels : List Byte → List Nat
  | a :: b :: c :: d :: t => leNat [a, b, c, d] :: parcels t
  | _ => []

/-- What the checks of R146 find: nothing, or the trap code and %tinfo. -/
def headerCheck (h : Nat) : Option (Nat × Nat) :=
  if bitsOf h 31 30 ≠ 2 then some (3, 0x100)
  else if bitsOf h 63 32 ≠ 0 ∨ bitsOf h 18 14 ≠ 0 then some (3, 0x200)
  else if headerBody h = 0 ∨ 48 < headerBody h then some (3, 0x300)
  else none

def bodyCheck (h : Nat) (ps : List Nat) : Option (Nat × Nat) :=
  match walkBody (headerCount h) 0 ps with
  | .illegal i p => some (1, p + i * 2 ^ 32)
  | .badCount i => some (3, 0x400 + i)
  | .ok firsts =>
    match firsts.findIdx? fun p => !bitOf h (classBit (opcodeOf p)) with
    | some i => some (3, 0x500 + i)
    | none =>
      match (firsts.take (headerCount h - 1)).findIdx? fun p => endsClause (opcodeOf p) with
      | some i => some (3, 0x600 + i)
      | none => none

inductive ClauseRes where
  | ok (header : Nat)
  | trap (code info : Nat)
  | failed (r : Fetched)
  deriving DecidableEq, Repr

/-- The clause at a header, checked in the order of R146. -/
def Mach.clauseCheck (m : Mach) (d : Dev) (x : Ctx) (cluster hdr : Nat) : ClauseRes :=
  match m.fetch d x cluster hdr 8 with
  | .ok hb =>
    let h := leNat hb
    match headerCheck h with
    | some t => .trap t.1 t.2
    | none =>
      match m.fetch d x cluster (hdr + 8) (4 * headerBody h) with
      | .ok bb =>
        match bodyCheck h (parcels bb) with
        | some t => .trap t.1 t.2
        | none => .ok h
      | e => .failed e
  | e => .failed e

/-! ### Waits (R142) -/

/-- Instructions of groups 4 and 5 with results pending. -/
def Fibre.loadsPending (f : Fibre) : Nat := ((f.pend.filter fun p => !p.eng).map (·.instr)).dedup.length

/-- Sealed copy batches that the part knows to be unfinished, and copies in the open set (R247). -/
def Crew.knownBatches (c : Crew) (slot : Nat) : Nat :=
  ((c.copies.filter fun p => p.slot == slot && !p.done).filterMap (·.batch)).dedup.length
def Crew.knownOpen (c : Crew) (slot : Nat) : Nat :=
  (c.copies.filter fun p => p.slot == slot && p.batch.isNone).length

/-- Sealed copy batches unfinished (R247), with what the fibre's image has made of their number (R359). -/
def Crew.unfinished (c : Crew) (slot : Nat) : Nat :=
  (((c.fibre slot).map fun f => ((c.knownBatches slot : Int) + f.moreBatches).toNat).getD (c.knownBatches slot))

/-- Copies of the open set, with what the fibre's image has made of their number (R359). -/
def Crew.openCopies (c : Crew) (slot : Nat) : Nat :=
  (((c.fibre slot).map fun f => ((c.knownOpen slot : Int) + f.moreOpen).toNat).getD (c.knownOpen slot))

/-- Whether every wait condition of a header holds for a gang. -/
def Mach.waitsHold (m : Mach) (c : Crew) (g : Gang) (h : Nat) : Bool :=
  let fs := c.lanes g
  (bitsOf h 29 26 == 0 || fs.all fun f => decide (f.loadsPending < bitsOf h 29 26))
    && (!bitOf h 25 || fs.all fun f => f.stores.isEmpty)
    && (bitsOf h 24 21 == 0 || fs.all fun f => decide (c.unfinished f.slot < bitsOf h 24 21))
    && (!bitOf h 20 || m.posts.all fun p => p.crew != c.id || fs.all fun f => !p.lanes.contains f.slot)
    && (!bitOf h 19 || fs.all fun f => f.pend.all fun p => !p.eng)

/-! ### Merging at a header -/

/-- Gangs of a crew joined into one of them (R27): they leave the list and their lanes become its own. A kept A of a joined
gang goes to the merged gang when that one keeps none. -/
def Crew.join (c : Crew) (gang : Nat) (others : List Gang) : Crew :=
  let ids := others.map (·.id)
  { c with gangs := (c.gangs.filter fun o => !ids.contains o.id).map fun g =>
      if g.id == gang then
        { g with
          mask := others.foldl (fun b o => b ||| o.mask) g.mask
          kept := match g.kept with
            | some k => some k
            | none => (others.find? fun o => o.kept.isSome).bind (·.kept) }
      else g }

/-- Whether another gang stands with this one at a clause header that neither has begun (R27). -/
def Gang.meets (g o : Gang) : Bool :=
  o.id != g.id && o.course == g.course && o.hdr == g.hdr && o.idx == 0 && g.idx == 0 && !o.begun

def Gang.regrouping (g : Gang) : Bool :=
  match g.state with
  | .regroup _ => true
  | _ => false

/-- Whether a fibre's gang waits on a condition of its own choice or is parked (R29, R41). -/
def Gang.excused (g : Gang) : Bool :=
  match g.state with
  | .parked _ => true
  | .held own => own
  | .regroup _ => true
  | .ready | .stalled => false

/-- The first event of R29: every other gang of the course is excused or has reached the header. -/
def Crew.regroupMet (c : Crew) (g : Gang) : Bool :=
  c.gangs.all fun o => o.id == g.id || o.course != g.course || g.meets o || o.excused

/-- The end of a REGROUP wait (R29, R218): every fibre waiting at the header joins one gang. -/
def Crew.regroupEnd (c : Crew) (g : Gang) : Crew :=
  (c.join g.id (c.gangs.filter fun o => g.meets o && o.regrouping)).updGang g.id fun g => { g with state := .ready }

/-! ### CLAUSE_START -/

/-- Whether a gang must stop here for a pre-emption or the end of its launch: traps masked hold it off (R39, R227, R357). -/
def Env.mustPreempt (E : Env) : Bool := E.c.stopping && !E.lanes.any (·.masked)

/-- Whether a stop-all of the debugger holds the gang (R362). -/
def Crew.heldByDebugger (c : Crew) : Bool := c.stopAll && c.gangs.any fun g => g.state == .parked .bkpt

/-- The gang at a header tries to begin the clause (R143, R146): the structure is checked the first time after it reached the
header, the waits each time. -/
def beginClause (E : Env) (m : Mach) : Mach :=
  match (if E.g.header = 0 then m.clauseCheck E.d E.x E.cluster E.g.hdr else .ok E.g.header) with
  | .trap code info => trapAll E m code info
  | .failed r => fetchFailed E m r
  | .ok h =>
    let m1 := m.updCrew E.c.id fun c => c.mapLanes E.g.course E.g.mask fun f => { f with carry := ⟨none, none⟩ }
    m1.updGang E.c.id E.g.id fun g =>
      if m.waitsHold E.c E.g h then { g with header := h, begun := true, state := .ready, waited := 0, fetchError := none }
      else { g with header := h, state := .held true, fetchError := none }

/-- A gang about to issue instruction 0 of a clause. With `merge`, the gangs of its course that stand at the same header join
it first (R27). -/
def clauseStart (d : Dev) (r : GangRef) (merge : Bool) (m : Mach) : Mach :=
  match m.env d r with
  | none => m
  | some E =>
    if E.g.begun || E.g.place != .active || E.c.heldByDebugger then m
    else
      match E.g.state with
      | .parked _ => m
      | st =>
        if E.mustPreempt then m.parkGang E.c.id E.g.id .preempt .none
        else
          let go := match st with
            | .regroup deadline => E.c.regroupMet E.g || decide (deadline ≤ m.clock E.c.core)
            | _ => true
          if !go then m
          else
            let m1 := if E.g.regrouping then m.updCrew E.c.id fun c => c.regroupEnd E.g else m
            let m2 := if merge then
                m1.updCrew E.c.id fun c =>
                  c.join E.g.id (c.gangs.filter fun o => E.g.meets o && (o.state == .ready || o.regrouping) && o.kept.isNone)
              else m1
            match m2.env d r with
            | none => m2
            | some E2 => beginClause E2 m2

/-- CLAUSE_START (R143, R146, R27). -/
def execClauseStart (s : State) : Host.Outcome State Fault Refusal :=
  match s.arg with
  | .clauseStart g merge => .next { s with m := clauseStart s.dev g merge s.m }
  | _ => .refused .noOperands

end Sys2Proof.Machine
end

