-- ==== Sys2Proof/Machine/Gauge.lean ====
section
/-! DEFINITION. Arrivals at gauges (R113), and the gauge instructions (R257, R258). -/

namespace Sys2Proof.Machine

/-- An engine's arrival: its amounts on a unit-0 and a unit-1 gauge; false where the gauge is not valid (R110, R113). -/
def Mach.arrive (m : Mach) (a n0 n1 : Nat) (err : Bool) : Mach × Bool :=
  let g := m.gauge a
  if !g.valid then (m, false) else (m.setGauge a (g.arrive (if g.unit then n1 else n0) err), true)

/-- GINIT of one gauge (R109). -/
def Mach.ginit (m : Mach) (a reload : Nat) (unit : Bool) : Mach :=
  { m.setGauge a ⟨true, unit, false, false, reload % 2 ^ 24, 0, 0, reload % 2 ^ 24⟩ with
    gauges := if m.gauges.contains a then m.gauges else a :: m.gauges }

/-- GFREE of one gauge: the reset values (R109); no effect on one that is not valid (R258). -/
def Mach.gfree (m : Mach) (a : Nat) : Mach :=
  if !(m.gauge a).valid then m
  else { m with scratch := m.scratch.writeBytes a (List.replicate 16 0), gauges := m.gauges.filter fun x => x != a }

/-! ### Gauge instructions (R258) -/

/-- The gauge of a lane, at its core's scratchpad. -/
def Acc.place (a : Acc) : Nat := (a.runs.head?.map (·.loc.addr)).getD 0

/-- A gauge instruction: the address checks, with `valid` the check for GAUGE_INVALID; then, once the lanes' queues have drained
so that their earlier stores come first (R122), the effect in home-lane order and `fin` with the gang. -/
def gaugeOp (e : Enc) (valid : Bool) (eff : List (Fibre × Nat) → Mach → Mach) (fin : List (Fibre × Nat) → Mach → Mach) (E : Env)
    (m : Mach) : Mach :=
  let act := E.act e
  let m0 := m.drainAll E.d E.c.id act
  if !m0.drained E.c.id (act.map (·.slot)) then m0.stall E.c.id E.g.id
  else
    let rs := act.map fun f =>
      match scratchLane E.c (f.reg e.va : Int) 16 16 with
      | .ok a => (f, if valid && !(m0.gauge a.place).valid then LaneRes.trap 20 26 0 else .ok a)
      | r => (f, r)
    let l := (oks rs).map fun p => (p.1, p.2.place)
    byLanes e rs (fun _ m => eff l m) (fun m => fin l m) E m0

/-- The usual end of an instruction. -/
def goOn (e : Enc) (E : Env) (_l : List (Fibre × Nat)) (m : Mach) : Mach := (m.advance E e).tick E.c.core 1

def ginitM (e : Enc) (E : Env) (m : Mach) : Mach :=
  gaugeOp e false (fun l m => l.foldl (fun m p => m.ginit p.2 (b32At e p.1) (e.mb 49)) m) (goOn e E) E m

/-- GARRIVE: a release at dev with SGN, then the arrivals. -/
def garriveM (e : Enc) (E : Env) (m : Mach) : Mach :=
  let r := if E.act e = [] then (m, true) else m.releaseNow E.d E.c (E.act e) 4 7
  if !r.2 then r.1.stall E.c.id E.g.id
  else
    gaugeOp e true (fun l m => l.foldl (fun m p => m.setGauge p.2 ((m.gauge p.2).arrive (b32At e p.1) false)) m) (goOn e E) E r.1

def gexpectM (e : Enc) (E : Env) (m : Mach) : Mach :=
  gaugeOp e true (fun l m => l.foldl (fun m p => m.setGauge p.2 ((m.gauge p.2).expect (b32At e p.1))) m) (goOn e E) E m

/-- The end of a GWAIT: an acquire (R116, R133). -/
def gwaitEnd (e : Enc) (E : Env) (l : List Fibre) (m : Mach) : Mach :=
  ((if l = [] then m else m.discard E.c.core 5 63).advance E e).tick E.c.core 1

/-- GWAIT: a wait of the gang's own choice, then an acquire that drops every clean copy (R112, R116, R133; log entry 59). -/
def gwaitM (e : Enc) (E : Env) (m : Mach) : Mach :=
  match E.g.wake with
  | .gauge _ true _ => gwaitEnd e E (E.act e) m
  | .gauge _ false (s :: t) => trapLanes E m e 26 ((E.act e).filter fun f => (s :: t).contains f.slot)
  | _ =>
    gaugeOp e true (fun _ m => m)
      (fun l m =>
        if l.all fun p => (m.gauge p.2).reached (b32At e p.1) then gwaitEnd e E (l.map (·.1)) m
        else
          m.updGang E.c.id E.g.id fun g =>
            { g with state := .held true, wake := .gauge (l.map fun p => (p.1.slot, p.2, b32At e p.1)) false [] }) E m

/-- GREAD's words: generation, count, target, or all 16 bytes (R257). -/
def gaugeRead (sel : Nat) (g : Gauge) : Nat :=
  match sel with
  | 0 => g.gen
  | 1 => g.count
  | 2 => g.target
  | _ => g.toNat

def greadM (e : Enc) (E : Env) (m : Mach) : Mach :=
  gaugeOp e false
    (fun l m => m.pendLanes E false e.vd (if e.m 50 49 = 3 then 4 else 1)
      (l.map fun p => (p.1, if e.m 50 49 = 3 then leNat (m.scratch.bytes p.2 16) else gaugeRead (e.m 50 49) (m.gauge p.2))))
    (goOn e E) E m

def gfreeM (e : Enc) (E : Env) (m : Mach) : Mach :=
  gaugeOp e false (fun l m => l.foldl (fun m p => m.gfree p.2) m) (goOn e E) E m

/-- GINIT, W form (R258). -/
def execGinitW (f : WForm) (s : State) : Host.Outcome State Fault Refusal :=
  isa (checked (f.enc 0x160) (shapeOf (f.enc 0x160)) (ginitM (f.enc 0x160))) s

/-- GINIT, L form (R258). -/
def execGinitL (f : LForm) (s : State) : Host.Outcome State Fault Refusal :=
  isa (checked (f.enc 0x160) (shapeOf (f.enc 0x160)) (ginitM (f.enc 0x160))) s

/-- GARRIVE, W form (R258). -/
def execGarriveW (f : WForm) (s : State) : Host.Outcome State Fault Refusal :=
  isa (checked (f.enc 0x161) (shapeOf (f.enc 0x161)) (garriveM (f.enc 0x161))) s

/-- GARRIVE, L form (R258). -/
def execGarriveL (f : LForm) (s : State) : Host.Outcome State Fault Refusal :=
  isa (checked (f.enc 0x161) (shapeOf (f.enc 0x161)) (garriveM (f.enc 0x161))) s

/-- GEXPECT, W form (R258). -/
def execGexpectW (f : WForm) (s : State) : Host.Outcome State Fault Refusal :=
  isa (checked (f.enc 0x162) (shapeOf (f.enc 0x162)) (gexpectM (f.enc 0x162))) s

/-- GEXPECT, L form (R258). -/
def execGexpectL (f : LForm) (s : State) : Host.Outcome State Fault Refusal :=
  isa (checked (f.enc 0x162) (shapeOf (f.enc 0x162)) (gexpectM (f.enc 0x162))) s

/-- GWAIT, W form (R258). -/
def execGwait (f : WForm) (s : State) : Host.Outcome State Fault Refusal :=
  isa (checked (f.enc 0x163) (shapeOf (f.enc 0x163)) (gwaitM (f.enc 0x163))) s

/-- GREAD, W form (R258). -/
def execGread (f : WForm) (s : State) : Host.Outcome State Fault Refusal :=
  isa (checked (f.enc 0x164) (shapeOf (f.enc 0x164)) (greadM (f.enc 0x164))) s

/-- GFREE, W form (R258). -/
def execGfree (f : WForm) (s : State) : Host.Outcome State Fault Refusal :=
  isa (checked (f.enc 0x165) (shapeOf (f.enc 0x165)) (gfreeM (f.enc 0x165))) s

end Sys2Proof.Machine
end

