-- ==== Sys2Proof/Machine/Copy.lean ====
section
/-! DEFINITION. The copy path: asynchronous copies into scratchpad (R245 to R248), channels and transfer records (R249 to R256),
and the steps CPA_COPY_DONE, TRANSFER_PACKET and TRANSFER_RECORD_DONE. -/

namespace Sys2Proof.Machine

/-! ### CPA (R245, R246) -/

def cpaSize (e : Enc) : Nat := 4 * 2 ^ e.m 62 60

/-- A lane's checks in the order of R246: the destination, the source, the gauge. -/
def cpaLane (m : Mach) (E : Env) (e : Enc) (f : Fibre) : LaneRes :=
  let size := cpaSize e
  match scratchLane E.c (f.reg e.vd : Int) size (min size 16) with
  | .trap _ code i => .trap (code - 8) code i
  | _ =>
    match m.memLane E (e.m 59 58) e.va 0 e.vc ⟨size, 1, min size 16, false, true, false⟩ f with
    | .ok a =>
      if e.mb 57 then
        match scratchLane E.c (b32At e f : Int) 16 16 with
        | .trap _ code i => .trap (61 + code) code i
        | _ => .ok a
      else .ok a
    | r => r

/-- The copies of one execution enter their fibres' open sets (R247). -/
def Mach.issueCopies (m : Mach) (E : Env) (e : Enc) (l : List (Fibre × Acc)) : Mach :=
  let x := m.nextId
  l.foldl (fun m p =>
    let c : CpaCopy :=
      { id := m.nextId, exec := x, slot := p.1.slot, batch := none, dst := E.c.core * 2 ^ 18 + E.c.scrBase + p.1.reg e.vd
        size := cpaSize e, src := p.2.runs, object := p.2.object, gauge := if e.mb 57 then some (E.c.core * 2 ^ 18 + E.c.scrBase + b32At e p.1) else none
        done := false, err := false }
    { m.updCrew E.c.id (fun w => { w with copies := w.copies ++ [c] }) with nextId := m.nextId + 1 }) { m with nextId := x + 1 }

def cpaM (e : Enc) : Env → Mach → Mach :=
  withRecord e (e.m 59 58) e.vc fun E m =>
    (byLanes e ((E.act e).map fun f => (f, cpaLane m E e f)) (fun l m => (m.touchSlots E.x.addr l).issueCopies E e l)
      (fun m => m.advance E e) E m).tick E.c.core 1

/-- Bytes of runs as an engine reads them, at their homes (R246). -/
def Mach.engineRead (m : Mach) (k : Key) (l : List Run) : List Byte := (runLocs l).map (m.homeRead k)

/-- Bytes written by an engine, at their homes. -/
def Mach.engineWrite (m : Mach) (k : Key) (l : List Loc) (b : List Byte) : Mach :=
  (l.zip b).foldl (fun m p => m.homeWrite k p.1 p.2) m

/-- A copy error or a gauge error recorded against a fibre (R113, R248). -/
def Mach.copyError (m : Mach) (crew slot n : Nat) : Mach :=
  m.updFibre crew slot fun f => { f with copyErrs := f.copyErrs + n }

/-- Copies that a set, batch and arrival have no more use for. -/
def Crew.dropCopies (c : Crew) : Crew :=
  { c with copies := c.copies.filter fun p =>
      !(p.done && p.batch.isSome && c.copies.all fun (q : CpaCopy) => q.exec != p.exec || q.gauge != p.gauge || q.done) }

/-- Whether a port is there for every fabric source of some runs (R398). -/
def Dev.reaches (d : Dev) (l : List Run) : Bool := l.all fun r => match r.fab with | some (node, _, _) => d.canSend node | none => true

/-- What a fibre's image shows of its copies, written anew while the crew stands pre-empted (R359, R361). -/
def Mach.showCopies (m : Mach) (d : Dev) (crew slot : Nat) : Mach :=
  match m.crew crew with
  | none => m
  | some c =>
    if !c.preempted ∨ (c.fibre slot).isNone then m
    else
      m.imageWrite ((m.ctx c.ctx).key d) c (blockOffset slot + 16) (leBytes 2 (min (c.unfinished slot) 15 + 2 ^ 4 * (c.openCopies slot % 2 ^ 12)))

/-- One copy ends; the last of its execution that names a gauge brings the arrival (R248). A source in the chip window that its context
owns no longer is an error (R115, R437; log entry 69). `remote` holds the bytes of a fabric source as the Weir decrypted them (R427). -/
def copyDone (d : Dev) (crew id : Nat) (remote : Option (List Byte)) (err : Bool) (m : Mach) : Mach :=
  match m.crew crew with
  | none => m
  | some c =>
    match c.copies.find? fun p => p.id == id && !p.done with
    | none => m
    | some p =>
      let k := (m.ctx c.ctx).key d
      let data := if !m.ownsRuns c.ctx p.src then none
        else if p.src.any fun r => r.fab.isSome then
          match remote with
          | some l => if err || l.length < p.size || !d.reaches p.src then none else some (l.take p.size)
          | none => none
        else if (runLocs p.src).any d.unreadable then none else some (m.engineRead k p.src)
      let m1 := match data with
        | some b => m.engineWrite k ((List.range p.size).map fun i => ⟨.scr, p.dst + i⟩) b
        | none => m.copyError crew p.slot 1
      let m2 := m1.updCrew crew fun c =>
        { c with copies := c.copies.map fun q => if q.id == id then { q with done := true, err := data.isNone } else q }
      let group : List CpaCopy := match m2.crew crew with
        | some c => c.copies.filter fun (q : CpaCopy) => q.exec == p.exec && q.gauge == p.gauge
        | none => []
      let m3 := match p.gauge with
        | some a =>
          if group.all (·.done) then
            let r := m2.arrive a 1 (group.foldl (fun n (q : CpaCopy) => n + q.size) 0) (group.any (·.err))
            if r.2 then r.1 else (group.map fun (q : CpaCopy) => q.slot).foldl (fun m s => m.copyError crew s 1) r.1
          else m2
        | none => m2
      (m3.updCrew crew Crew.dropCopies).showCopies d crew p.slot

/-! ### CPSEAL and CPWAIT (R247, R248) -/

/-- The open set of a fibre sealed. -/
def Crew.seal (c : Crew) (slot : Nat) (batch : Word) : Crew :=
  ({ c with copies := c.copies.map fun p => if p.slot == slot && p.batch.isNone then { p with batch := some batch } else p } : Crew).dropCopies

def cpsealM (e : Enc) (E : Env) (m : Mach) : Mach :=
  let act := E.act e
  let unfinished := fun (f : Fibre) => (E.c.copies.any fun p => p.slot == f.slot && p.batch.isNone && !p.done) || decide (0 < f.moreOpen)
  if act.any fun f => 15 ≤ E.c.unfinished f.slot && unfinished f then
    m.hold E.c.id E.g.id true
  else
    let m1 := act.foldl (fun m f =>
      m.updCrew E.c.id fun c => (c.seal f.slot f.nextBatch).updFibre f.slot fun g =>
        { g with nextBatch := g.nextBatch + 1, moreBatches := g.moreBatches + (if 0 < g.moreOpen then 1 else 0), moreOpen := 0 }) m
    let m2 := if e.mb 49 then m1.pendLanes E false e.vd 1 (act.map fun f => (f, f.nextBatch.toNat)) else m1
    (m2.advance E e).tick E.c.core 1

/-- Whether a fibre's batches are far enough for a CPWAIT. -/
def cpwaitMet (c : Crew) (e : Enc) (f : Fibre) : Bool :=
  if e.mb 49 then
    c.copies.all fun p => p.slot != f.slot || p.done ||
      match p.batch with
      | some b => decide (toSigned 32 (f.reg e.vb + 2 ^ 32 - b.toNat) < 0)
      | none => true
  else decide (c.unfinished f.slot ≤ e.va)

def cpwaitM (e : Enc) (E : Env) (m : Mach) : Mach :=
  let act := E.act e
  if !(act.all (cpwaitMet E.c e)) then m.hold E.c.id E.g.id true
  else if act.any fun f => f.copyErrs != 0 then
    ((takeTrap E m (maskOf act) 25 fun f => min f.copyErrs 0xFFFFFFFF).updCrew E.c.id fun c =>
      c.mapLanes E.g.course (maskOf act) fun f => { f with copyErrs := 0 }).tick E.c.core 1
  else (m.advance E e).tick E.c.core 1

/-! ### XFER and XSTAT (R249, R250, R255) -/

def Crew.channel (c : Crew) (n : Nat) : Option Channel := c.channels.find? fun h => h.n == n

def Mach.setChannel (m : Mach) (crew : Nat) (h : Channel) : Mach :=
  m.updCrew crew fun c => { c with channels := putBy (fun g => g.n == h.n) h c.channels }

/-- Channel states in use on a core. -/
def Mach.channelsOf (m : Mach) (core : Nat) : Nat :=
  (m.crews.filter fun c => c.core == core).foldl (fun n c => n + c.channels.length) 0

def Channel.start (n head order : Nat) (by_ : List Nat) : Channel :=
  { n := n, by_ := by_, state := 1, record := head, body := none, moved := 0, sent := 0, err := 0, status := 0, granted := 0, grants := [], msg := 0
    gap := none, rkey := 0, want := none, lost := false, wait := [], errorPage := none, order := order }

def xferM (e : Enc) (E : Env) (m : Mach) : Mach :=
  match E.act e with
  | [] => (m.advance E e).tick E.c.core 1
  | f :: t =>
    let head := f.val e.va 2
    let fs := f :: t
    if 2 ^ 57 ≤ head ∨ head % 64 ≠ 0 then (trapLanes E m e 4 [f]).tick E.c.core 1
    else
      let answer := fun (m : Mach) (v : Bool) => ((m.pendPreds E false e.vd (fs.map fun g => (g, v))).advance E e).tick E.c.core 1
      match E.c.channel e.vc with
      | none =>
        if Config.channelStates ≤ m.channelsOf E.c.core then m.hold E.c.id E.g.id false
        else answer ({ m.setChannel E.c.id (.start e.vc head m.nextId (fs.map (·.slot))) with nextId := m.nextId + 1 }) true
      | some h =>
        if h.state = 0 ∨ h.state = 3 then
          answer ({ m.setChannel E.c.id (.start e.vc head m.nextId (fs.map (·.slot))) with nextId := m.nextId + 1 }) true
        else answer m false

/-- The XSTAT word (R255). -/
def Channel.word (h : Channel) : Nat := h.state * 2 ^ 61 + h.record % 2 ^ 57 / 64 * 64 + if h.state = 3 then h.err % 64 else 0

def xstatM (e : Enc) (E : Env) (m : Mach) : Mach :=
  let v := match E.c.channel e.vc with | some h => h.word | none => 0
  ((m.pendLanes E false e.vd 2 ((E.act e).map fun f => (f, v))).advance E e).tick E.c.core 1

/-! ### Transfer records (R251, R252) -/

/-- Fields of a record. -/
def recNext (r : Nat) : Nat := r % 2 ^ 64
def recSrc (r : Nat) : Nat := bitsOf r 127 64
def recDst (r : Nat) : Nat := bitsOf r 191 128
def recLen (r : Nat) : Nat := bitsOf r 232 192
def recFinal (r : Nat) : Bool := bitOf r 381
def recRekey (r : Nat) : Bool := bitOf r 380
def recGate (r : Nat) : Nat := bitsOf r 351 336
def recPrio (r : Nat) : Nat := bitsOf r 379 377
def recNamesGauge (r : Nat) : Bool := bitOf r 376 || bitsOf r 319 256 != 0

/-- The gauge that a record names: none where the field is malformed. -/
def Mach.recGauge (m : Mach) (d : Dev) (x : Ctx) (c : Crew) (r : Nat) : Option Nat :=
  let g := bitsOf r 319 256
  if bitOf r 376 then
    if g < 2 ^ 32 ∧ g % 16 = 0 ∧ g + 16 ≤ c.scrSize then some (c.core * 2 ^ 18 + c.scrBase + g) else none
  else if g < 2 ^ 57 then
    match m.translate d x (c.core / 4) g 3 with
    | .window off =>
      match m.windowLoc x.addr off 16 true true with
      | some l => if l.space = .scr ∧ l.addr % 16 = 0 then some l.addr else none
      | none => none
    | _ => none
  else none

/-- Whether an address of a record has a form that R252 refuses. -/
def badForm (a : Nat) : Bool :=
  kindOf a == 3 || (kindOf a == 1 && decide (192 ≤ nodeOf a)) || (kindOf a == 0 && decide (2 ^ 57 ≤ a))

/-- The window entry of a record's kind-01 side, read at the record's issue (R401); none where neither side is class F. -/
def Mach.recRkey (m : Mach) (d : Dev) (x : Ctx) (cluster r : Nat) : Option RkeyRes :=
  if kindOf (recSrc r) = 1 then some (m.rkeyOf d x cluster (windowOf (recSrc r)))
  else if kindOf (recDst r) = 1 then some (m.rkeyOf d x cluster (windowOf (recDst r)))
  else none

/-- The checks of FORM, and of the gate a rekeyed record names (R252). -/
def Mach.recStatus (m : Mach) (d : Dev) (x : Ctx) (c : Crew) (r : Nat) : Nat :=
  if bitsOf r 439 384 ≠ 0 ∨ bitsOf r 375 352 ≠ 0 ∨ bitsOf r 335 320 ≠ 0 ∨ bitsOf r 255 233 ≠ 0 ∨ 2 ^ 40 < recLen r
      ∨ (!recRekey r ∧ recGate r ≠ 0) ∨ badForm (recSrc r) ∨ badForm (recDst r) ∨ (kindOf (recSrc r) = 1 ∧ kindOf (recDst r) = 1)
      ∨ (recNamesGauge r ∧ (m.recGauge d x c r).isNone) ∨ (recFinal r ∧ (recLen r < 16 ∨ recLen r % 8 ≠ 0))
      ∨ recNext r % 64 ≠ 0 ∨ 2 ^ 57 ≤ recNext r
      ∨ (kindOf (recSrc r) = 2 ∧ (x.named (slotOf (recSrc r))).isNone) ∨ (kindOf (recDst r) = 2 ∧ (x.named (slotOf (recDst r))).isNone) then 1
  else if recRekey r ∧ (m.gateEntry d x (m.launch c.launch) (recGate r)).isNone then 8
  else 0

/-! ### Moving (R254) -/

/-- One side of a packet: its places, a status that ends the record, or what the channel waits for. -/
inductive Side where
  | ok (a : Acc)
  | status (s : Nat)
  | fault (va cause level access : Nat)
  | object (slot extent : Nat)
  deriving DecidableEq, Repr

/-- The status of a check that a side fails (R252). -/
def sideStatus (code : Nat) : Nat :=
  match code with
  | 18 => 2
  | 19 => 3
  | 12 => 4
  | 13 => 10
  | 11 => 11
  | _ => 1

/-- A side of `n` bytes at `off` of a whole range, which an object's size must hold (R254). The cipher attribute of a class-F side is not
known here: it is taken as plaintext under key id 0, so that a gate with a key on that side ends GATE (log entry 87). -/
def Mach.side (m : Mach) (d : Dev) (x : Ctx) (cluster : Nat) (h : Channel) (a total off n access : Nat) : Side :=
  let tooLong := match x.slot (slotOf a) with
    | some s => kindOf a == 2 && s.state != 1 && decide (s.size < offsetOf a + total)
    | none => false
  if tooLong then .status 2
  else if kindOf a = 1 then
    let at_ := (nodeOf a, h.rkey, offsetOf a + off)
    .ok ⟨[⟨fabLoc at_.1 at_.2.1 at_.2.2, n, .f, some at_, 0⟩], .f, false, 0, a + off, none, 0, none, some at_⟩
  else
    match m.deref d x cluster ⟨none, h.errorPage⟩ ⟨n, access, 1, false, true, true⟩ (a + off) none none with
    | .trap _ code _ => .status (sideStatus code)
    | .fault va c l w => .fault va c l w
    | .object s e => if h.lost then .status 5 else .object s e
    | .lookup s => .object s 0
    | .ok acc => .ok acc

/-- Where the final write of a record starts: its last 8 bytes, and in a rekeyed record, whose units are whole, the unit that holds
them, unless it leaves for the fabric (R254, R426). -/
def finalStart (r : Nat) : Nat :=
  let at_ := recLen r - 8
  if !recFinal r then recLen r else if recRekey r ∧ kindOf (recDst r) ≠ 1 then at_ / 512 * 512 else at_

/-- Bytes that the next packet could have if nothing but the record bounded it, with the final write apart (R254). -/
def Channel.left (h : Channel) (r : Nat) : Nat := if h.sent < finalStart r then finalStart r - h.sent else recLen r - h.sent

/-- Bytes that the tokens of a push still grant. -/
def Channel.tokens (h : Channel) : Nat := (h.grants.map (·.2)).sum

/-- Bytes that may still leave without a token (R408). -/
def Channel.unscheduled (h : Channel) : Nat := h.granted - h.sent - h.tokens

/-- The tokens that have lapsed go, 32 µs after they came (R410; log entry 71). -/
def Channel.lapse (h : Channel) (now : Nat) : Channel :=
  { h with
    granted := h.granted - ((h.grants.filter fun t => decide (t.1 ≤ now)).map (·.2)).sum
    grants := h.grants.filter fun t => decide (now < t.1) }

/-- Bytes taken from the oldest tokens. -/
def spendTokens : Nat → List (Nat × Nat) → List (Nat × Nat)
  | _, [] => []
  | n, t :: r => if n < t.2 then (t.1, t.2 - n) :: r else spendTokens (n - t.2) r

/-- A packet of `n` bytes has left: the channel waits for nothing more, and its tokens grant as much less. -/
def Channel.ahead (h : Channel) (n : Nat) : Channel :=
  { h with
    state := 1, sent := h.sent + n, grants := spendTokens (n - h.unscheduled) h.grants, want := none, lost := false, errorPage := none }

/-- The offset in its region at which a record's fabric side starts. -/
def Channel.base (h : Channel) : Nat :=
  match h.body with
  | none => 0
  | some b => offsetOf (if kindOf (recSrc b.toNat) = 1 then recSrc b.toNat else recDst b.toNat)

/-- The record ends with a status, and the bytes of a packet at `off` are not moved (R252, R256). -/
def Channel.refuse (h : Channel) (s off : Nat) : Channel := { h with status := s, gap := some (min off (h.gap.getD off)) }

/-- Bytes of the next packet: at most 4 KiB and at most what the receiver has granted (R406, R408), and one unit when rekeyed
(R426). A packet ends at the end of a register of 4 bytes, so that none is seen half written (R116). -/
def Channel.packetLen (h : Channel) (r n : Nat) : Nat :=
  let left := h.left r
  let a := min (min n 4096) left
  let b := if kindOf (recSrc r) = 1 ∨ kindOf (recDst r) = 1 then min a (if h.unscheduled = 0 then h.granted - h.sent else h.unscheduled) else a
  let unit := min left (512 - h.sent % 512)
  if recRekey r then (if b < unit then 0 else unit)
  else if b < left then b - (recDst r + h.sent + b) % 4
  else b

/-- Whether a fabric record has sent all that it has been granted and waits for pull tokens (R253). -/
def Channel.wantsTokens (h : Channel) (r : Nat) : Bool :=
  (kindOf (recSrc r) == 1 || kindOf (recDst r) == 1) && decide (h.sent < recLen r) && decide (h.granted ≤ h.sent)

/-- Whether a request is a packet of a channel. -/
def FabOut.ofChannel (o : FabOut) (crew ch : Nat) : Bool :=
  o.crew == crew && match o.kind with | .packet n _ _ _ => n == ch | _ => false

/-- Whether fabric packets of a channel are still on their way. -/
def Mach.packetsOut (m : Mach) (crew ch : Nat) : Bool :=
  m.fabOut.any fun o => o.ofChannel crew ch

/-- Cipher attributes of a side, for a gate (R425). -/
def Mach.sideAttrs (m : Mach) (d : Dev) (x : Ctx) (cluster a len access : Nat) (acc : Acc) : List (Bool × Nat) :=
  if kindOf a = 0 then m.pageAttrs d x cluster a len access else [(acc.cipher, acc.keyId)]

/-- A unit of ciphertext of a side: its number, where its tag lies, and what it holds beyond the packet's `n` bytes. -/
structure SideUnit where
  u : Nat
  tag : LaneRes
  rest : LaneRes
  deriving DecidableEq, Repr

/-- The unit that a packet of a side lies in: none where the object's start is not known or a unit is not begun at its boundary (R421,
R422). -/
def Mach.sideUnit (m : Mach) (d : Dev) (x : Ctx) (cluster : Nat) (errorPage : Option Nat) (a off n access : Nat) (acc : Acc) : Option SideUnit :=
  let at_ := fun (slot : Option Slot) (start size o : Nat) =>
    if o % 512 ≠ 0 ∨ size = 0 then none
    else some (SideUnit.mk (o / 512) (m.tagRuns d x cluster errorPage slot start size (o / 512) access)
      (m.unitRest d x cluster errorPage slot start size o n access))
  if kindOf a = 2 then (x.slot (slotOf a)).bind fun s => at_ (some s) 0 s.size (offsetOf a + off)
  else
    acc.start.bind fun st =>
      at_ none st (match x.ranges.find? fun r => r.base == st with | some r => r.limit - r.base | none => 0) (acc.va - st)

/-- What a rekeyed packet needs beside its bytes: the numbers of its units, and where the tags and the rests of the units lie. -/
structure Units where
  su : Nat
  du : Nat
  stag : List Loc
  srest : List Loc
  dtag : List Loc
  drest : List Loc
  deriving DecidableEq, Repr

inductive Crossing where
  | ok (g : GateEntry) (u : Units)
  | plain
  | status (s : Nat)
  | fault (va cause level access : Nat)
  | object (slot extent : Nat)

/-- What a rekeyed packet needs of its gate and its tags (R425, R426). -/
def Mach.crossing (m : Mach) (d : Dev) (x : Ctx) (c : Crew) (h : Channel) (r : Nat) (sa da : Acc) : Crossing :=
  if !recRekey r then .plain
  else
    match m.gateEntry d x (m.launch c.launch) (recGate r) with
    | none => .status 8
    | some g =>
      let cl := c.core / 4
      if !sideAgrees g.skey (m.sideAttrs d x cl (recSrc r) (recLen r) 1 sa)
          || !sideAgrees g.dkey (m.sideAttrs d x cl (recDst r) (recLen r) 2 da) then .status 8
      else
        let unit := fun (key a access : Nat) (acc : Acc) =>
          if key = 0 then Crossing.ok g ⟨0, 0, [], [], [], []⟩
          else
            match m.sideUnit d x cl h.errorPage a h.sent (min 512 (recLen r - h.sent)) access acc with
            | none => .status 7
            | some u =>
              match u.tag.append u.rest, u.tag, u.rest with
              | .ok _, .ok t, .ok q => .ok g ⟨u.u, u.u, runLocs t.runs, runLocs q.runs, runLocs t.runs, runLocs q.runs⟩
              | .fault va cc l w, _, _ => .fault va cc l w
              | .object s e, _, _ => if h.lost then .status 5 else .object s e
              | .trap _ code _, _, _ => .status (if code = 12 ∨ code = 13 then sideStatus code else 7)
              | _, _, _ => .status 7
        match unit g.skey (recSrc r) 1 sa, unit g.dkey (recDst r) 2 da with
        | .ok _ a, .ok _ b => .ok g ⟨a.su, b.du, a.stag, a.srest, b.dtag, b.drest⟩
        | .ok .., z => z
        | z, _ => z

/-- A channel that must wait (R253). -/
def Mach.channelFault (m : Mach) (d : Dev) (x : Ctx) (c : Crew) (h : Channel) (va cause level access : Nat) : Mach :=
  let r := m.raiseFault d x c.core (.channel c.id h.n) va cause level access
  r.1.setChannel c.id { h with state := 2, wait := [r.2] }

def Mach.channelObject (m : Mach) (d : Dev) (c : Crew) (h : Channel) (slot extent : Nat) : Mach :=
  (m.waitSlot d c.ctx slot extent []).setChannel c.id { h with state := 2, want := some slot, lost := false }

/-- A unit's tag written behind a resident copy is written at its home too (R96, R421): of the unit that the slot's offset lies in. -/
def Mach.noteTag (m : Mach) (d : Dev) (x : Ctx) (object : Option (Nat × Nat)) (len : Nat) : Mach :=
  match object with
  | none => m
  | some (s, off) =>
    match (m.ctx x.addr).slot s with
    | some sl => m.noteWritten d x.addr s (tagOffset sl.size + 8 * (off / 512)) len
    | none => m

/-- The bytes of a packet reach their place in memory, and with `tag` the unit's tag (R254, R426). -/
def Mach.landPacket (m : Mach) (d : Dev) (x : Ctx) (g : Option GateEntry) (da : Acc) (dtag : List Loc) (data : List Byte)
    (tag : Option (List Byte)) : Mach :=
  let k : Key := match g with | some g => ⟨d.world x.fn, g.dcomp⟩ | none => x.key d
  let m1 := m.engineWrite k (runLocs da.runs) data
  let m2 := match da.object with
    | some (s, off) => m1.noteWritten d x.addr s off data.length
    | none => m1
  match tag with
  | some t => (m2.engineWrite k dtag t).noteTag d x da.object dtag.length
  | none => m2

/-- Whether a write to some runs must wait for a matrix post on a tile among them (R115). -/
def Mach.runsBlocked (m : Mach) (l : List Run) : Bool :=
  l.any fun r => r.loc.space == .acc && m.tileBusy (r.loc.addr / 2 ^ 16) (r.loc.addr % 2 ^ 16 / 0x4000)

def Mach.tileBlocked (m : Mach) (a : Acc) : Bool := m.runsBlocked a.runs

/-- The unit of a rekeyed record that its next bytes lie in, from its start: the place and length that its source is read at. -/
def Channel.unit (h : Channel) (r n : Nat) : Nat × Nat :=
  if recRekey r then (h.sent / 512 * 512, min 512 (recLen r - h.sent / 512 * 512)) else (h.sent, n)

/-- One packet of a record whose sides are both reached (R254). -/
def Mach.movePacket (m : Mach) (d : Dev) (x : Ctx) (c : Crew) (h : Channel) (r n : Nat) (sa da : Acc) : Mach :=
  match m.crossing d x c { h with sent := (h.unit r n).1 } r sa da with
  | .status s => m.setChannel c.id { h with status := s }
  | .fault va cc l w => m.channelFault d x c h va cc l w
  | .object s e => m.channelObject d c h s e
  | z =>
    let (g, u) : Option GateEntry × Units := match z with
      | .ok g u => (some g, u)
      | _ => (none, ⟨0, 0, [], [], [], []⟩)
    if m.tileBlocked da then m
    else
      match sa.fab with
      | some (node, rk, off) =>
        (m.sendFab d c.id 0 0 node rk off [] n (.packet h.n h.msg (recLen r) (recPrio r))).setChannel c.id (h.ahead n)
      | none =>
        let k : Key := match g with | some g => ⟨d.world x.fn, g.scomp⟩ | none => x.key d
        let kd : Key := match g with | some g => ⟨d.world x.fn, g.dcomp⟩ | none => x.key d
        let data := m.engineRead k sa.runs
        let out := match g with
          | some g => crossUnit d x.fn g u.su u.du data (u.srest.map (m.homeRead k)) (u.stag.map (m.homeRead k)) (u.drest.map (m.homeRead kd))
          | none => some (data, none)
        match out with
        | none => m.setChannel c.id { h with status := 7 }
        | some (b, tag) =>
          match da.fab with
          | some (node, rk, off) =>
            (m.sendFab d c.id 0 0 node rk off ((b.drop (h.sent - (h.unit r n).1)).take n) n
              (.packet h.n h.msg (if h.unscheduled = 0 then 0 else recLen r) (recPrio r))).setChannel c.id (h.ahead n)
          | none => (m.landPacket d x g da u.dtag b tag).setChannel c.id { h.ahead n with moved := h.moved + n }

/-- A response that brought a packet's bytes is written to its place. -/
def Mach.landAnswer (m : Mach) (d : Dev) (x : Ctx) (c : Crew) (h : Channel) (r : Nat) (o : FabOut) (err : Bool) (data : List Byte) : Mach :=
  let gone := { m with fabOut := m.fabOut.filter fun q => q.id != o.id }
  let off := o.off - h.base
  if err || data.length < o.len then gone.setChannel c.id (h.refuse 6 off)
  else
    match m.side d x (c.core / 4) h (recDst r) (recLen r) off o.len 2 with
    | .status s => gone.setChannel c.id (h.refuse s off)
    | .fault va cc l w => m.channelFault d x c h va cc l w
    | .object s e => m.channelObject d c h s e
    | .ok da =>
      if m.tileBlocked da then m
      else
      match m.crossing d x c { h with sent := off } r { da with fab := none, cipher := false, keyId := 0 } da with
      | .status s => gone.setChannel c.id (h.refuse s off)
      | .fault va cc l w => m.channelFault d x c h va cc l w
      | .object s e => m.channelObject d c h s e
      | .ok g u =>
        match crossUnit d x.fn g u.su u.du data [] [] (u.drest.map (m.homeRead ⟨d.world x.fn, g.dcomp⟩)) with
        | some (b, tag) => (gone.landPacket d x (some g) da u.dtag b tag).setChannel c.id { h.ahead 0 with moved := h.moved + o.len }
        | none => gone.setChannel c.id (h.refuse 7 off)
      | .plain => (gone.landPacket d x none da [] (data.take o.len) none).setChannel c.id { h.ahead 0 with moved := h.moved + o.len }

/-- The last notice of a message to its receiver (R412). -/
def Mach.notify (m : Mach) (node msg : Nat) (n : Option Nat) : Mach :=
  { m with notices := putBy (fun p => p.1 == node && p.2.1 == msg) (node, msg, n) m.notices }

/-- The message that grants the bytes of a channel's pull, and its tokens, go. -/
def Mach.dropPull (m : Mach) (crew ch : Nat) : Mach :=
  { m with
    tokens := m.tokens.filter fun t => !m.inMsgs.any fun i => i.id == t.msg && i.pull == some (crew, ch)
    inMsgs := m.inMsgs.filter fun i => i.pull != some (crew, ch) }

/-- The record is taken up: its status so far, its rkey, and for a record of class F its message. A push sends its first bytes without
a token, but when it resumes it asks for the rest from the acknowledged count (R408, R412); a pull grants its first, or next, 16 KiB by
an implicit token. -/
def Mach.beginRecord (m : Mach) (d : Dev) (x : Ctx) (c : Crew) (h : Channel) (r : Nat) (k : Option RkeyRes) : Mach :=
  let form := m.recStatus d x c r
  let (rkey, status) := match k with
    | none => (0, form)
    | some (.ok rk) => (rk, form)
    | some .unreadable => (0, if form = 1 then 1 else 10)
    | some .bad => (0, if form = 1 then 1 else 6)
    | some (.fault ..) => (0, if form = 1 then 1 else 4)
  let push := decide (kindOf (recDst r) = 1)
  let pulls := decide (kindOf (recSrc r) = 1)
  let resumes := push && h.msg != 0
  let first := min (recLen r - h.moved) 16384
  let granted := if resumes then h.moved else h.moved + first
  let h1 := { h with
    state := 1, body := some (BitVec.ofNat 512 r), status := status, rkey := rkey, errorPage := none, grants := [], gap := none
    msg := if resumes then h.msg else if push || pulls then m.nextId else 0
    granted := if push || pulls then granted else 0 }
  let pull : InMsg :=
    { id := m.nextId, node := nodeOf (recSrc r), msg := m.nextId, ctx := x.addr, queue := 0, region := 0, rkey := 0
      prio := recPrio r, total := recLen r, granted := granted, placed := 0, packets := [], order := m.nextId
      expired := 0, held := false, orphan := false, deferred := none, pull := some (c.id, h.n), oru := none }
  let m0 := { m with nextId := m.nextId + 1 }
  let m1 := if pulls && status = 0 then ({ m0 with inMsgs := m0.inMsgs ++ [pull] } : Mach).issueToken pull.id first
    else if resumes then m0.notify (nodeOf (recDst r)) h.msg (some h.moved) else m0
  m1.setChannel c.id h1

/-- The record that a channel stands at is read (R251, R253). -/
def Mach.readRecord (m : Mach) (d : Dev) (x : Ctx) (c : Crew) (h : Channel) : Mach :=
  match m.rangeRuns d x (c.core / 4) h.record 64 1 true with
  | .fault va cc l =>
    if h.errorPage == some (pageOf va) then m.setChannel c.id { h with state := 3, err := 4 }
    else m.channelFault d x c h va cc l 1
  | .window => m.setChannel c.id { h with state := 3, err := 11 }
  | .ok runs =>
    if (runLocs runs).any d.unreadable then m.setChannel c.id { h with state := 3, err := 10 }
    else
      let r := leNat (m.engineRead (x.key d) runs)
      if !bitOf r 383 then m.setChannel c.id { h with state := 0, moved := 0, sent := 0 }
      else
        match m.recRkey d x (c.core / 4) r with
        | some (.fault va cc l) =>
          if h.errorPage == some (pageOf va) ∨ m.recStatus d x c r = 1 then m.beginRecord d x c h r (some (.fault va cc l))
          else m.channelFault d x c h va cc l 1
        | k => m.beginRecord d x c h r k

/-- Whether the next packet of a channel is the final write, which waits for every other byte (R254). -/
def Mach.finalWaits (m : Mach) (crew : Nat) (h : Channel) (r : Nat) : Bool :=
  recFinal r && decide (finalStart r ≤ h.sent) && (decide (h.moved < h.sent) || m.packetsOut crew h.n)

/-- Whether a channel could issue a packet. -/
def Mach.couldIssue (m : Mach) (c : Crew) (h : Channel) : Bool :=
  h.state == 1 && h.wait == [] && h.status == 0 && !c.preempted && !c.stopped &&
    match h.body with
    | none => false
    | some b => (h.lapse m.dclock).packetLen b.toNat 4096 != 0 && decide (h.sent < recLen b.toNat) && !m.finalWaits c.id h b.toNat

def Channel.prio (h : Channel) : Nat := match h.body with | some b => bitsOf b.toNat 379 377 | none => 0

/-- Whether another channel of the core issues first: the highest class, then the oldest (R254). -/
def Mach.issuesAfter (m : Mach) (c : Crew) (h : Channel) : Bool :=
  m.crews.any fun k => k.core == c.core && k.channels.any fun g =>
    !(k.id == c.id && g.n == h.n) && m.couldIssue k g && (decide (h.prio < g.prio) || (g.prio == h.prio && decide (g.order < h.order)))

/-- A record that has failed takes the answers of its other packets no more (R253). -/
def Mach.dropAnswered (m : Mach) (c : Crew) (h : Channel) : Mach :=
  let mine := m.fabOut.filter fun o => o.ofChannel c.id h.n && o.answer.isSome
  ({ m with fabOut := m.fabOut.filter fun o => !(o.ofChannel c.id h.n && o.answer.isSome) } : Mach).setChannel c.id
    (mine.foldl (fun h o => h.refuse h.status (o.off - h.base)) h)

/-- A channel moves its next packet of at most `n` bytes, or first reads its record (R253, R254, R256). -/
def transferPacket (d : Dev) (crew ch n : Nat) (m : Mach) : Mach :=
  match m.crew crew with
  | none => m
  | some c =>
    match (c.channel ch).map fun h => h.lapse m.dclock with
    | none => m
    | some h =>
      let x := (m.ctx c.ctx).askedBy (engineAsker crew 1 ch)
      if (h.state ≠ 1 ∧ h.state ≠ 2) ∨ h.wait ≠ [] ∨ c.preempted ∨ c.stopped then m
      else
        match h.body with
        | none => m.readRecord d x c h
        | some body =>
          let r := body.toNat
          if h.status ≠ 0 then m.dropAnswered c h
          else
            match m.fabOut.find? fun o => o.ofChannel crew ch && o.answer.isSome with
            | some o => m.landAnswer d x c h r o (o.answer.getD (true, [])).1 (o.answer.getD (true, [])).2
            | none =>
              let k := h.packetLen r n
              if h.wantsTokens r then m.setChannel c.id { h with state := 2 }
              else if k = 0 ∨ recLen r ≤ h.sent ∨ m.finalWaits crew h r ∨ m.issuesAfter c h then m
              else
                match m.side d x (c.core / 4) h (recSrc r) (recLen r) (h.unit r k).1 (h.unit r k).2 1, m.side d x (c.core / 4) h (recDst r) (recLen r) h.sent k 2 with
                | .status s, _ | .ok _, .status s => m.setChannel c.id { h with status := s }
                | .fault va cc l w, _ | .ok _, .fault va cc l w => m.channelFault d x c h va cc l w
                | .object s e, .status t =>
                  if t = 5 then m.channelObject d c h s e else m.setChannel c.id { h with status := t }
                | .object s e, _ | .ok _, .object s e => m.channelObject d c h s e
                | .ok sa, .ok da => m.movePacket d x c h r k sa da

/-- The record at which a channel stands is finished: written back, then its arrival, then the next (R253). -/
def recordDone (d : Dev) (crew ch : Nat) (m : Mach) : Mach :=
  match m.crew crew with
  | none => m
  | some c =>
    match c.channel ch with
    | none => m
    | some h =>
      match h.body with
      | none => m
      | some body =>
        let r := body.toNat
        let x := (m.ctx c.ctx).askedBy (engineAsker crew 1 ch)
        if (h.state ≠ 1 ∧ h.state ≠ 2) ∨ h.wait ≠ [] ∨ c.preempted ∨ c.stopped ∨ m.packetsOut crew ch
            ∨ (h.status = 0 ∧ h.moved < recLen r) then m
        else
          match m.rangeRuns d x (c.core / 4) h.record 64 2 true with
          | .fault va cc l =>
            if h.errorPage == some (pageOf va) then m.setChannel c.id { h with state := 3, err := 4, body := none }
            else m.channelFault d x c h va cc l 2
          | .window => m.setChannel c.id { h with state := 3, err := 11, body := none }
          | .ok runs =>
            let gauge := if recNamesGauge r then m.recGauge d x c r else none
            -- A record that names a gauge found none to arrive at: its scratchpad has gone since its issue (R113).
            let valid := match gauge with
              | some a => (m.gauge a).valid
              | none => !recNamesGauge r
            let s := if h.status = 0 ∧ !valid then 9 else h.status
            let w := r % 2 ^ 383 % 2 ^ 440 + r / 2 ^ 384 % 2 ^ 56 * 2 ^ 384 + s * 2 ^ 440 + h.moved * 2 ^ 448
            let m1 := m.engineWrite (x.key d) (runLocs runs) (leBytes 64 w)
            let m2 := match gauge with
              | some a => (m1.arrive a 1 (recLen r) (s != 0)).1
              | none => m1
            let m3 := { m2.dropPull crew ch with notices := m2.notices.filter fun p => p.2.1 != h.msg }
            let h1 := { h with body := none, moved := 0, sent := 0, status := 0, granted := 0, grants := [], msg := 0, gap := none, want := none, lost := false, errorPage := none }
            if s ≠ 0 then m3.setChannel c.id { h1 with state := 3, err := s }
            else if recNext r = 0 then m3.setChannel c.id { h1 with state := 0 }
            else m3.setChannel c.id { h1 with state := 1, record := recNext r }

/-- CPA, W form (R246). -/
def execCpaW (f : WForm) (s : State) : Host.Outcome State Fault Refusal :=
  isa (checked (f.enc 0x150) (shapeOf (f.enc 0x150)) (cpaM (f.enc 0x150))) s

/-- CPA, L form (R246). -/
def execCpaL (f : LForm) (s : State) : Host.Outcome State Fault Refusal :=
  isa (checked (f.enc 0x150) (shapeOf (f.enc 0x150)) (cpaM (f.enc 0x150))) s

/-- CPSEAL, C form (R247). -/
def execCpsealC (f : CForm) (s : State) : Host.Outcome State Fault Refusal :=
  isa (checked (f.enc 0x151) (shapeOf (f.enc 0x151)) (cpsealM (f.enc 0x151))) s

/-- CPSEAL, W form (R247). -/
def execCpsealW (f : WForm) (s : State) : Host.Outcome State Fault Refusal :=
  isa (checked (f.enc 0x151) (shapeOf (f.enc 0x151)) (cpsealM (f.enc 0x151))) s

/-- CPWAIT, C form (R247). -/
def execCpwaitC (f : CForm) (s : State) : Host.Outcome State Fault Refusal :=
  isa (checked (f.enc 0x152) (shapeOf (f.enc 0x152)) (cpwaitM (f.enc 0x152))) s

/-- CPWAIT, W form (R247). -/
def execCpwaitW (f : WForm) (s : State) : Host.Outcome State Fault Refusal :=
  isa (checked (f.enc 0x152) (shapeOf (f.enc 0x152)) (cpwaitM (f.enc 0x152))) s

/-- XFER, W form (R250). -/
def execXfer (f : WForm) (s : State) : Host.Outcome State Fault Refusal :=
  isa (checked (f.enc 0x153) (shapeOf (f.enc 0x153)) (xferM (f.enc 0x153))) s

/-- XSTAT, W form (R255). -/
def execXstat (f : WForm) (s : State) : Host.Outcome State Fault Refusal :=
  isa (checked (f.enc 0x154) (shapeOf (f.enc 0x154)) (xstatM (f.enc 0x154))) s

/-- CPA_COPY_DONE (R246, R248). -/
def execCpaCopyDone (s : State) : Host.Outcome State Fault Refusal :=
  match s.arg with
  | .cpaCopyDone crew id remote err => .next { s with m := copyDone s.dev crew id remote err s.m }
  | _ => .refused .noOperands

/-- TRANSFER_PACKET (R253, R254). -/
def execTransferPacket (s : State) : Host.Outcome State Fault Refusal :=
  match s.arg with
  | .transferPacket crew ch bytes => .next { s with m := transferPacket s.dev crew ch.toNat bytes.toNat s.m }
  | _ => .refused .noOperands

/-- TRANSFER_RECORD_DONE (R253). -/
def execTransferRecordDone (s : State) : Host.Outcome State Fault Refusal :=
  match s.arg with
  | .transferRecordDone crew ch => .next { s with m := recordDone s.dev crew ch.toNat s.m }
  | _ => .refused .noOperands

end Sys2Proof.Machine
end

