-- ==== Sys2Proof/Machine/FloatOps.lean ====
section
/-! DEFINITION. Floating-point arithmetic, compare and classify, special functions, and conversion (R195 to R204). -/

namespace Sys2Proof.Machine

/-- Clocks of a floating-point instruction (R177). -/
def fltCost (e : Enc) : Nat := if tyOf e = .f64 then 4 else 1

def packed (t : ETy) : Bool := t == .f16x2 || t == .bf16x2

/-- Element k of an operand's bits (R44). -/
def elem (t : ETy) (v k : Nat) : Nat := if packed t then v / 2 ^ (16 * k) % 2 ^ 16 else v % 2 ^ t.bits

/-- How the instruction rounds (R174). -/
def modeOf (e : Enc) : RMode := ⟨e.rnd2, e.ftzo2, e.sat2⟩

/-- One element computed and rounded (R196). -/
def fltElem (e : Enc) (op : Bool → Num → Num → Num → Num) (a b c s : Nat) : Nat × Nat :=
  let f := fmtOf (tyOf e)
  f.round (modeOf e) (op (e.rnd2 == 3) (f.input e.ftzi2 a) (f.input e.ftzi2 b) (f.input e.ftzi2 c)) s

/-- An arithmetic instruction in one lane: element 0 before element 1, drawing from the lane's stream (R195, R198). -/
def fltLane (e : Enc) (useC : Bool) (op : Bool → Num → Num → Num → Num) (f : Fibre) : Fibre :=
  let t := tyOf e
  let a := aAt e t f
  let b := bAt e t f
  let c := if useC then cAt e t f else 0
  let r0 := fltElem e op (elem t a 0) (elem t b 0) (elem t c 0) f.stream.toNat
  if packed t then
    let r1 := fltElem e op (elem t a 1) (elem t b 1) (elem t c 1) r0.2
    { setD e t f (r0.1 + 2 ^ 16 * r1.1) with stream := BitVec.ofNat 64 r1.2 }
  else { setD e t f r0.1 with stream := BitVec.ofNat 64 r0.2 }

def faddM (e : Enc) : Env → Mach → Mach := regOp e (fltCost e) fun _ => fltLane e false fun rd a b _ => Num.add rd a b
def fsubM (e : Enc) : Env → Mach → Mach := regOp e (fltCost e) fun _ => fltLane e false fun rd a b _ => Num.add rd a b.neg
def fmulM (e : Enc) : Env → Mach → Mach := regOp e (fltCost e) fun _ => fltLane e false fun _ a b _ => Num.mul a b
def ffmaM (e : Enc) : Env → Mach → Mach := regOp e (fltCost e) fun _ => fltLane e true fun rd a b c => Num.fma rd a b c

/-- Whether a lies below b with −0 below +0 (R197); neither is NaN. -/
def Num.below (a b : Num) : Bool :=
  match a, b with
  | .fin true 0 _, .fin false 0 _ => true
  | _, _ => Num.cmp a b == .lt

/-- FMIN or FMAX of two bit patterns of a format (R197). -/
def fltMinMax (f : FFmt) (maximum : Bool) (a b : Nat) : Nat :=
  let x := f.decode a
  let y := f.decode b
  if x.isNan && y.isNan then f.nan
  else if x.isNan then b
  else if y.isNan then a
  else if Num.below x y != maximum then a else b

def fminmaxLane (e : Enc) (maximum : Bool) (f : Fibre) : Fibre :=
  let t := tyOf e
  let m := fmtOf t
  let inp := fun v => if e.ftzi2 then m.flush v else v
  let r := fltMinMax m maximum (inp (aAt e t f)) (inp (bAt e t f))
  setD e t f (if e.ftzo2 then m.flush r else r)

def fminM (e : Enc) : Env → Mach → Mach := regOp e (fltCost e) fun _ => fminmaxLane e false
def fmaxM (e : Enc) : Env → Mach → Mach := regOp e (fltCost e) fun _ => fminmaxLane e true

/-- FCMP's conditions (R199, R200). -/
def fcmpHolds (cond : Nat) (a b : Num) : Bool :=
  if a.isNan || b.isNan then cond == 1 || cond == 7
  else
    let o := Num.cmp a b
    match cond with
    | 0 => o == .eq
    | 1 => o != .eq
    | 2 => o == .lt
    | 3 => o != .gt
    | 4 => o == .gt
    | 5 => o != .lt
    | 6 => true
    | _ => false

def fcmpM (e : Enc) : Env → Mach → Mach :=
  regOp e (fltCost e) fun _ f =>
    let t := tyOf e
    let m := fmtOf t
    f.setPred e.vd (fcmpHolds e.cond2 (m.input e.ftzi2 (aAt e t f)) (m.input e.ftzi2 (bAt e t f)))

/-- The class of a bit pattern, as the number of the bit set (R201). -/
def classBitOf (f : FFmt) (v : Nat) : Nat :=
  match f.decode v with
  | .nan => 8
  | .inf s => if s then 0 else 7
  | .fin s m _ =>
    if m = 0 then (if s then 3 else 4) else if f.subnormal v then (if s then 2 else 5) else (if s then 1 else 6)

def fclassM (e : Enc) : Env → Mach → Mach :=
  regOp e (fltCost e) fun _ f => f.setReg e.vd (2 ^ classBitOf (fmtOf (tyOf e)) (aAt e (tyOf e) f))

/-! ### Special functions (R202, R203) -/

/-- The whole square root, bit by bit from the highest. -/
def isqrt (n : Nat) : Nat :=
  (List.range (Nat.log2 n / 2 + 1)).reverse.foldl (fun a i => if (a + 2 ^ i) * (a + 2 ^ i) ≤ n then a + 2 ^ i else a) 0

/-- 1 / (m × 2^e) to 100 bits with a sticky last bit, so that every rounding is the exact value's. -/
def recipNum (neg : Bool) (m : Nat) (e : Int) : Num :=
  let k := Nat.log2 m + 100
  .fin neg (2 * (2 ^ k / m) + b2n (2 ^ k % m != 0)) (-e - (k : Int) - 1)

/-- The square root of m × 2^e with a sticky last bit. -/
def sqrtNum (m : Nat) (e : Int) : Num :=
  let m' := if e % 2 = 0 then m * 2 ^ 200 else 2 * m * 2 ^ 200
  let e' := if e % 2 = 0 then e else e - 1
  let s := isqrt m'
  .fin false (2 * s + b2n (s * s != m')) (e' / 2 - 101)

/-- 1 / √(m × 2^e) to 100 bits. -/
def rsqNum (m : Nat) (e : Int) : Num :=
  let m' := if e % 2 = 0 then m else 2 * m
  let e' := if e % 2 = 0 then e else e - 1
  let k := Nat.log2 m' + 240
  let k := k + k % 2
  let s := isqrt (2 ^ k / m')
  .fin false s (-(e' / 2) - (k : Int) / 2)

/-- ln 2 and 2π in units of 2^−128. -/
def ln2Fix : Nat := 0xB17217F7D1CF79ABC9E3B39803F2F6AF
def twoPiFix : Nat := 0x6487ED5110B4611A62633145C06E0E689

/-- A magnitude m × 2^e in units of 2^−128, cut below. -/
def toFix (m : Nat) (e : Int) : Nat :=
  if 0 ≤ e + 128 then m * 2 ^ (e + 128).toNat else m / 2 ^ (-(e + 128)).toNat

/-- e^y for 0 ≤ y < 1, in units of 2^−128: forty terms of the series. -/
def expFix (y : Nat) : Nat :=
  ((List.range 40).foldl (fun (p : Nat × Nat) k => let t := p.2 * y / 2 ^ 128 / (k + 1); (p.1 + t, t)) (2 ^ 128, 2 ^ 128)).1

/-- sin or cos of an angle below a right angle, in units of 2^−128. -/
def trigFix (y : Nat) (cosine : Bool) : Nat :=
  let y2 := y * y / 2 ^ 128
  let first := if cosine then 2 ^ 128 else y
  let r := (List.range 20).foldl
    (fun (p : Int × Nat) k =>
      let j : Nat := 2 * k + if cosine then 1 else 2
      let t : Nat := p.2 * y2 / 2 ^ 128 / (j * (j + 1))
      (if k % 2 = 0 then p.1 - Int.ofNat t else p.1 + Int.ofNat t, t)) (Int.ofNat first, first)
  r.1.toNat

/-- 2^(x / 2^128) for an integer x, as 2^n × s with s in units of 2^−128. -/
def exp2Fix (x : Int) : Nat × Int := (expFix ((x % 2 ^ 128).toNat * ln2Fix / 2 ^ 128), x / 2 ^ 128)

/-- Approximations good to far more than the bounds of R202; an exact value where one is due. -/
def exp2Num (neg : Bool) (m : Nat) (e : Int) : Num :=
  if 2 ^ 140 ≤ toFix m e then .fin false 1 (if neg then -400 else 400)
  else if toFix m e < 2 ^ 64 then .fin false (if m = 0 then 1 else if neg then 2 ^ 65 - 1 else 2 ^ 65 + 1) (if m = 0 then 0 else -65)
  else
    let x : Int := if neg then -(toFix m e : Int) else (toFix m e : Int)
    let p := exp2Fix x
    .fin false p.1 (p.2 - 128)

/-- log2 of m × 2^e by repeated squaring, 100 bits below the point. -/
def log2Num (m : Nat) (e : Int) : Num :=
  let top := Nat.log2 m
  let z := if top ≤ 128 then m * 2 ^ (128 - top) else m / 2 ^ (top - 128)
  let r := (List.range 100).foldl
    (fun (p : Nat × Nat) _ => let w := p.1 * p.1 / 2 ^ 128; if 2 ^ 129 ≤ w then (w / 2, 2 * p.2 + 1) else (w, 2 * p.2)) (z, 0)
  let v : Int := ((top : Int) + e) * 2 ^ 100 + (r.2 : Int)
  .fin (decide (v < 0)) v.natAbs (-100)

/-- The fraction of a turn in units of 2^−128, and whether it is a whole number of quarters: an exact reduction (R202). -/
def turnFix (m : Nat) (e : Int) : Nat × Bool :=
  if 0 ≤ e then (0, true)
  else
    let k := (-e).toNat
    let t := m % 2 ^ k
    (t * 2 ^ 128 / 2 ^ k, 4 * t % 2 ^ k == 0)

/-- sin(2πx) or cos(2πx) of a positive x; an exact 0 carries the sign of the function just past the point (R202). -/
def trigNum (cosine : Bool) (m : Nat) (e : Int) : Num :=
  let (t, exact) := turnFix m e
  let quad := (t * 4 / 2 ^ 128 + if cosine then 1 else 0) % 4
  if exact then
    match quad with
    | 0 => .fin false 0 0
    | 1 => .fin false 1 0
    | 2 => .fin true 0 0
    | _ => .fin true 1 0
  else
    -- The angle is cut below, so that a sine lies above what is computed from it, and a cosine below.
    let y := t % 2 ^ 126 * twoPiFix / 2 ^ 128
    let v := 2 * trigFix y (quad % 2 == 1)
    .fin (decide (2 ≤ quad)) (if quad % 2 = 1 then v - 1 else v + 1) (-129)

/-- tanh of a magnitude m × 2^e: below the magnitude itself, however small that is. -/
def tanhNum (neg : Bool) (m : Nat) (e : Int) : Num :=
  let a := toFix m e
  if 16 * 2 ^ 128 ≤ a then .fin neg (2 ^ 128 - 1) (-128)
  else if (Nat.log2 m : Int) + e < -12 then
    .fin neg (m * 2 ^ 80 - max 1 (m * m * m * 2 ^ 80 / (3 * 2 ^ (-2 * e).toNat))) (e - 80)
  else
    let p := exp2Fix ((2 * a * 2 ^ 128 / ln2Fix : Nat) : Int)
    let n := p.1 * 2 ^ p.2.toNat
    .fin neg ((n - 2 ^ 128) * 2 ^ 128 / (n + 2 ^ 128)) (-128)

/-- The bound of a special function: units in the last place of the value, or an absolute power of two (R202). -/
inductive Bound where
  | exact
  | ulps (n : Nat)
  | abs (e : Int)
  deriving DecidableEq, Repr

/-- Whether an FP32 pattern is finite and lies within the bound of a value. -/
def within (b : Bound) (c : Nat) (x : Num) : Bool :=
  match x, fmt32.decode c with
  | .fin s m e, .fin s' m' e' =>
    match Num.add false (.fin s m e) (.fin (!s') m' e') with
    | .fin _ d k =>
      match b with
      | .exact => false
      | .ulps n => Num.cmp (.fin false d k) (.fin false n (max ((Nat.log2 m : Int) + e - 23) fmt32.qmin)) != .gt
      | .abs q => Num.cmp (.fin false d k) (.fin false 1 q) != .gt
    | _ => false
  | _, _ => false

/-- The result of a function whose bound leaves it open: a free value of the operand where that value keeps the bound, and
the value rounded to nearest otherwise (log entry 5). The same operand always gives the same bits (R70, R202). -/
def boundedResult (tag x : Nat) (b : Bound) (v : Num) : Nat :=
  let c := (Config.freeOf tag x 0).toNat % 2 ^ 32
  let rn := (fmt32.round ⟨0, false, false⟩ v 0).1
  if b = .exact then rn else if within b c v && decide (rn % 2 ^ 31 < 0x7F800000) then c else rn

/-- FEXP2's result is never negative: below the normal range it is subnormal or +0 (R203). -/
def exp2Result (x : Nat) (b : Bound) (v : Num) : Nat :=
  let r := boundedResult 0x08B x b v
  if r < 2 ^ 31 then r else (fmt32.round ⟨0, false, false⟩ v 0).1

/-- A special function at FP32 with RN only (R202, R203), FTZO included. -/
def specialFn (op : Nat) (ftzi ftzo : Bool) (x : Nat) : Nat :=
  let v := fmt32.input ftzi x
  let x' := if ftzi then fmt32.flush x else x
  let one := 0x3F800000
  let r := match v with
    | .nan => fmt32.nan
    | .inf s =>
      match op with
      | 0x089 => if s then fmt32.nan else 0
      | 0x08B => if s then 0 else fmt32.infBits false
      | 0x08C => if s then fmt32.nan else fmt32.infBits false
      | 0x08F => if s then 0xBF800000 else one
      | _ => fmt32.nan
    | .fin s m e =>
      if m = 0 then
        match op with
        | 0x089 => fmt32.infBits s
        | 0x08B => one
        | 0x08C => fmt32.infBits true
        | 0x08E => one
        | _ => x'
      else
        match op with
        | 0x089 =>
          if s then fmt32.nan
          else
            let y := rsqNum m e
            let rn := (fmt32.round ⟨0, false, false⟩ y 0).1
            let ex : Bool := match fmt32.decode rn with
              | .fin _ n k => Num.cmp (Num.mul (Num.mul (.fin false n k) (.fin false n k)) (.fin false m e)) (.fin false 1 0) == .eq
              | _ => false
            boundedResult 0x089 x' (if ex then .exact else .ulps 1) y
        | 0x08B =>
          let y := exp2Num s m e
          let whole := decide (0 ≤ e) || m % 2 ^ (-e).toNat == 0
          let ex : Bool := match y with
            | .fin _ n k => whole && decide (-126 ≤ (Nat.log2 n : Int) + k)
            | _ => false
          exp2Result x' (if ex then .exact else .ulps 2) y
        | 0x08C =>
          if s then fmt32.nan
          else
            let pow2 := m == 2 ^ Nat.log2 m
            let near := Num.cmp v (.fin false 1 (-1)) != .lt && Num.cmp v (.fin false 1 1) != .gt
            boundedResult 0x08C x' (if pow2 then .exact else if near then .abs (-22) else .ulps 2) (log2Num m e)
        | 0x08D =>
          -- FSIN is odd and FCOS even (R202).
          let r := boundedResult 0x08D (x' % 2 ^ 31) (if (turnFix m e).2 then .exact else .abs (-22)) (trigNum false m e)
          if s then (r + 2 ^ 31) % 2 ^ 32 else r
        | 0x08E => boundedResult 0x08E (x' % 2 ^ 31) (if (turnFix m e).2 then .exact else .abs (-22)) (trigNum true m e)
        | _ => boundedResult 0x08F x' (.ulps 2) (tanhNum s m e)
  if ftzo then fmt32.flush r else r

def specialM (e : Enc) : Env → Mach → Mach :=
  regOp e 4 fun _ f => f.setReg e.vd (specialFn e.op e.ftzi2 e.ftzo2 (f.reg e.va))

def frsqM (e : Enc) : Env → Mach → Mach := specialM e
def fexp2M (e : Enc) : Env → Mach → Mach := specialM e
def flog2M (e : Enc) : Env → Mach → Mach := specialM e
def fsinM (e : Enc) : Env → Mach → Mach := specialM e
def fcosM (e : Enc) : Env → Mach → Mach := specialM e
def ftanhM (e : Enc) : Env → Mach → Mach := specialM e

/-- FRCP and FSQRT, rounded correctly in every mode (R202, R203). -/
def rcpValue (x : Num) : Num :=
  match x with
  | .nan => .nan
  | .inf s => .fin s 0 0
  | .fin s m e => if m = 0 then .inf s else recipNum s m e

def sqrtValue (x : Num) : Num :=
  match x with
  | .nan => .nan
  | .inf s => if s then .nan else .inf false
  | .fin s m e => if m = 0 then .fin s 0 0 else if s then .nan else sqrtNum m e

def correctM (fn : Num → Num) (e : Enc) : Env → Mach → Mach :=
  regOp e (if tyOf e = .f64 then 16 else 4) fun _ f =>
    let t := tyOf e
    let r := (fmtOf t).round (modeOf e) (fn ((fmtOf t).input e.ftzi2 (aAt e t f))) f.stream.toNat
    { setD e t f r.1 with stream := BitVec.ofNat 64 r.2 }

def frcpM (e : Enc) : Env → Mach → Mach := correctM rcpValue e
def fsqrtM (e : Enc) : Env → Mach → Mach := correctM sqrtValue e

/-! ### Conversion (R62, R204) -/

/-- A value converted to a floating-point format: an infinity saturates where asked (R62). -/
def toFloat (f : FFmt) (o : RMode) (x : Num) (s : Nat) : Nat × Nat :=
  match x with
  | .inf neg => (if o.sat then f.maxBits neg else if f.e4m3 then f.nan else f.infBits neg, s)
  | _ => f.round o x s

/-- A floating-point value converted to an integer type (R62): NaN gives 0, anything out of range the nearer end. -/
def toInt (t : ETy) (rnd : Nat) (x : Num) (s : Nat) : Int × Nat :=
  match x with
  | .nan => (0, s)
  | .inf neg => (if neg then minOf t else maxOf t, s)
  | .fin neg m e =>
    if 0 < m ∧ 100 < (Nat.log2 m : Int) + e then (if neg then minOf t else maxOf t, s)
    else
      let r := roundInt rnd neg m e s
      (clampInt t r.1, r.2)

/-- A value converted to an E8M0 byte (R62). -/
def toE8m0 (o : RMode) (x : Num) : Nat :=
  match x with
  | .fin false m e =>
    if m = 0 then 255
    else
      let p := Nat.log2 m
      let up := match o.rnd with
        | 1 | 3 => false
        | 2 => m != 2 ^ p
        | _ => decide (3 * 2 ^ p ≤ 2 * m)
      let k : Int := (p : Int) + e + if up then 1 else 0
      if k < -127 then (if o.sat then 0 else 255) else if 127 < k then (if o.sat then 254 else 255) else (k + 127).toNat
  | _ => 255

/-- CVT in one lane: the value of the source, converted to the destination, with the stream after. -/
def cvtValue (e : Enc) (d st : ETy) (v s : Nat) : Nat × Nat :=
  let o := modeOf e
  if st.isInt && d.isInt then
    let x := extAt st v
    (wrap d.bits (if o.sat then clampInt d x else x), s)
  else
    let x : Num :=
      if st.isInt then .ofInt (extAt st v) else if st == .e8m0 then e8m0 (v % 256) else (fmtOf st).input e.ftzi2 v
    if d.isInt then
      let r := toInt d o.rnd x s
      (wrap d.bits r.1, r.2)
    else if d == .e8m0 then (toE8m0 o x, s)
    else toFloat (fmtOf d) o x s

/-- A narrow integer result extended to 32 bits by its own signedness (R204). -/
def widenInt (d : ETy) (v : Nat) : Nat := if d.bits < 32 && d.signed then wrap 32 (toSigned d.bits v) else v

def cvtLane (e : Enc) (f : Fibre) : Fibre :=
  let d := tyOf e
  let st := e.srcTy.getD .b32
  if packed d then
    let el := if d == .f16x2 then ETy.f16 else ETy.bf16
    let r0 := cvtValue e el .f32 (f.reg e.va) f.stream.toNat
    let r1 := cvtValue e el .f32 (f.reg e.vc) r0.2
    { f.setReg e.vd (r0.1 + 2 ^ 16 * r1.1) with stream := BitVec.ofNat 64 r1.2 }
  else
    let r := cvtValue e d st (f.val e.va st.regs % 2 ^ st.bits) f.stream.toNat
    { f.setVal e.vd d.regs (widenInt d r.1) with stream := BitVec.ofNat 64 r.2 }

def cvtM (e : Enc) : Env → Mach → Mach :=
  regOp e (if tyOf e = .f64 ∨ e.srcTy = some .f64 then 2 else 1) fun _ => cvtLane e

/-- FADD, W form (R196). -/
def execFaddW (f : WForm) (s : State) : Host.Outcome State Fault Refusal :=
  isa (checked (f.enc 0x080) (shapeOf (f.enc 0x080)) (faddM (f.enc 0x080))) s

/-- FADD, L form (R196). -/
def execFaddL (f : LForm) (s : State) : Host.Outcome State Fault Refusal :=
  isa (checked (f.enc 0x080) (shapeOf (f.enc 0x080)) (faddM (f.enc 0x080))) s

/-- FSUB, W form (R196). -/
def execFsubW (f : WForm) (s : State) : Host.Outcome State Fault Refusal :=
  isa (checked (f.enc 0x081) (shapeOf (f.enc 0x081)) (fsubM (f.enc 0x081))) s

/-- FSUB, L form (R196). -/
def execFsubL (f : LForm) (s : State) : Host.Outcome State Fault Refusal :=
  isa (checked (f.enc 0x081) (shapeOf (f.enc 0x081)) (fsubM (f.enc 0x081))) s

/-- FMUL, W form (R196). -/
def execFmulW (f : WForm) (s : State) : Host.Outcome State Fault Refusal :=
  isa (checked (f.enc 0x082) (shapeOf (f.enc 0x082)) (fmulM (f.enc 0x082))) s

/-- FMUL, L form (R196). -/
def execFmulL (f : LForm) (s : State) : Host.Outcome State Fault Refusal :=
  isa (checked (f.enc 0x082) (shapeOf (f.enc 0x082)) (fmulM (f.enc 0x082))) s

/-- FFMA, W form (R196). -/
def execFfmaW (f : WForm) (s : State) : Host.Outcome State Fault Refusal :=
  isa (checked (f.enc 0x083) (shapeOf (f.enc 0x083)) (ffmaM (f.enc 0x083))) s

/-- FFMA, L form (R196). -/
def execFfmaL (f : LForm) (s : State) : Host.Outcome State Fault Refusal :=
  isa (checked (f.enc 0x083) (shapeOf (f.enc 0x083)) (ffmaM (f.enc 0x083))) s

/-- FMIN, W form (R197). -/
def execFminW (f : WForm) (s : State) : Host.Outcome State Fault Refusal :=
  isa (checked (f.enc 0x084) (shapeOf (f.enc 0x084)) (fminM (f.enc 0x084))) s

/-- FMIN, L form (R197). -/
def execFminL (f : LForm) (s : State) : Host.Outcome State Fault Refusal :=
  isa (checked (f.enc 0x084) (shapeOf (f.enc 0x084)) (fminM (f.enc 0x084))) s

/-- FMAX, W form (R197). -/
def execFmaxW (f : WForm) (s : State) : Host.Outcome State Fault Refusal :=
  isa (checked (f.enc 0x085) (shapeOf (f.enc 0x085)) (fmaxM (f.enc 0x085))) s

/-- FMAX, L form (R197). -/
def execFmaxL (f : LForm) (s : State) : Host.Outcome State Fault Refusal :=
  isa (checked (f.enc 0x085) (shapeOf (f.enc 0x085)) (fmaxM (f.enc 0x085))) s

/-- FCMP, W form (R199). -/
def execFcmpW (f : WForm) (s : State) : Host.Outcome State Fault Refusal :=
  isa (checked (f.enc 0x086) (shapeOf (f.enc 0x086)) (fcmpM (f.enc 0x086))) s

/-- FCMP, L form (R199). -/
def execFcmpL (f : LForm) (s : State) : Host.Outcome State Fault Refusal :=
  isa (checked (f.enc 0x086) (shapeOf (f.enc 0x086)) (fcmpM (f.enc 0x086))) s

/-- FCLASS, W form (R201). -/
def execFclass (f : WForm) (s : State) : Host.Outcome State Fault Refusal :=
  isa (checked (f.enc 0x087) (shapeOf (f.enc 0x087)) (fclassM (f.enc 0x087))) s

/-- FRCP, W form (R202). -/
def execFrcp (f : WForm) (s : State) : Host.Outcome State Fault Refusal :=
  isa (checked (f.enc 0x088) (shapeOf (f.enc 0x088)) (frcpM (f.enc 0x088))) s

/-- FRSQ, W form (R202). -/
def execFrsq (f : WForm) (s : State) : Host.Outcome State Fault Refusal :=
  isa (checked (f.enc 0x089) (shapeOf (f.enc 0x089)) (frsqM (f.enc 0x089))) s

/-- FSQRT, W form (R202). -/
def execFsqrt (f : WForm) (s : State) : Host.Outcome State Fault Refusal :=
  isa (checked (f.enc 0x08A) (shapeOf (f.enc 0x08A)) (fsqrtM (f.enc 0x08A))) s

/-- FEXP2, W form (R202). -/
def execFexp2 (f : WForm) (s : State) : Host.Outcome State Fault Refusal :=
  isa (checked (f.enc 0x08B) (shapeOf (f.enc 0x08B)) (fexp2M (f.enc 0x08B))) s

/-- FLOG2, W form (R202). -/
def execFlog2 (f : WForm) (s : State) : Host.Outcome State Fault Refusal :=
  isa (checked (f.enc 0x08C) (shapeOf (f.enc 0x08C)) (flog2M (f.enc 0x08C))) s

/-- FSIN, W form (R202). -/
def execFsin (f : WForm) (s : State) : Host.Outcome State Fault Refusal :=
  isa (checked (f.enc 0x08D) (shapeOf (f.enc 0x08D)) (fsinM (f.enc 0x08D))) s

/-- FCOS, W form (R202). -/
def execFcos (f : WForm) (s : State) : Host.Outcome State Fault Refusal :=
  isa (checked (f.enc 0x08E) (shapeOf (f.enc 0x08E)) (fcosM (f.enc 0x08E))) s

/-- FTANH, W form (R202). -/
def execFtanh (f : WForm) (s : State) : Host.Outcome State Fault Refusal :=
  isa (checked (f.enc 0x08F) (shapeOf (f.enc 0x08F)) (ftanhM (f.enc 0x08F))) s

/-- CVT, W form (R204). -/
def execCvt (f : WForm) (s : State) : Host.Outcome State Fault Refusal :=
  isa (checked (f.enc 0x090) (shapeOf (f.enc 0x090)) (cvtM (f.enc 0x090))) s

end Sys2Proof.Machine
end

