-- ==== Sys2Proof/Machine/Tiles.lean ====
section
/-! DEFINITION. Matrix elements and quantised tiles: the Q4 family and scale bytes (R48 to R50), tiles and trailers (R52 to R55),
quantising a block (R51, R285), amax words (R67, R68), and one element's step of an MMA (R63 to R66, R273). -/

namespace Sys2Proof.Machine

/-! ### Formats (R270) -/

/-- Bits of an element by format code. -/
def fmtBits (f : Nat) : Nat := [32, 16, 16, 8, 8, 4, 8].getD f 8

/-- Elements of a block by block code 1 to 3. -/
def blockLen (b : Nat) : Nat := 8 * 2 ^ b

/-- Element `i` of packed codes, the low nibble of a byte first (R47). -/
def codeAt (f : Nat) (l : List Byte) (i : Nat) : Nat :=
  if f = 5 then (l.getD (i / 2) 0).toNat / 16 ^ (i % 2) % 16
  else leNat ((l.drop (i * (fmtBits f / 8))).take (fmtBits f / 8))

def wordBytes (l : List Word) : List Byte := l.flatMap fun w => leBytes 4 w.toNat

/-- Magnitudes of the Q4 types in quarters, by code (R50); INT4's negative codes reach one further. -/
def q4Quarters (t : Nat) : List Nat :=
  match t with
  | 0 => [0, 4, 8, 12, 16, 20, 24, 28]
  | 1 => [0, 2, 4, 6, 8, 12, 16, 24]
  | 2 => [0, 1, 2, 4, 8, 16, 32, 64]
  | _ => [0, 4, 8, 12, 16, 24, 32, 48]

/-- The value of a Q4 code (R50). -/
def q4Value (t code : Nat) : Num :=
  if t = 0 then .ofInt (toSigned 4 code) else .fin (bitOf code 3) ((q4Quarters t).getD (code % 8) 0) (-2)

def fltFmt (f : Nat) : FFmt :=
  match f with
  | 0 => fmt32
  | 1 => fmtBf
  | 2 => fmt16
  | 3 => fmtE4
  | _ => fmtE5

/-- An element's value, before its scale; `qt` is the Q4 type of its block. -/
def elemValue (f qt : Nat) (ftzi : Bool) (code : Nat) : Num :=
  if f = 5 then q4Value qt code
  else if f = 6 then .ofInt (toSigned 8 code)
  else (fltFmt f).input ftzi code

/-- An element inside a matrix step: an infinity is read as the largest finite value (R65). -/
def stepValue (f qt : Nat) (ftzi : Bool) (code : Nat) : Num :=
  match elemValue f qt ftzi code with
  | .inf s => (fltFmt f).decode ((fltFmt f).maxBits s)
  | v => v

/-- A scale byte under a scale kind: none, E8M0, Q4 typed (R48, R49, R64). -/
def scaleValue (kind b : Nat) : Num :=
  match kind with
  | 0 => .fin false 1 0
  | 1 => e8m0 b
  | _ => if b % 64 = 63 then .nan else .fin false 1 ((b % 64 : Nat) - 31)

/-! ### Descriptor words and trailers (R53, R55, R280) -/

def dFmt (w : Nat) : Nat := w / 2 ^ 28 % 16
def dBlock (w : Nat) : Nat := w / 2 ^ 26 % 4
def dScale (w : Nat) : Nat := w / 2 ^ 24 % 4
def dCount (w : Nat) : Nat := w % 2 ^ 24

/-- The rules of R53 for format, block, scale kind and count. -/
def ok53 (w : Nat) : Bool :=
  decide (dFmt w < 7) && decide (1 ≤ dCount w)
    && (if dFmt w = 5 then dScale w == 2 && dBlock w != 0 && dCount w % 2 == 0
        else (dScale w == 0 && dBlock w == 0) || (dScale w == 1 && dBlock w != 0))
    && (dBlock w == 0 || dCount w % blockLen (dBlock w) == 0)

def codeBytes (w : Nat) : Nat := dCount w * fmtBits (dFmt w) / 8
def scaleBytes (w : Nat) : Nat := if dBlock w = 0 then 0 else dCount w / blockLen (dBlock w)
def pad16 (n : Nat) : Nat := (n + 15) / 16 * 16

/-- Bytes of an image: a tile of formats 3 to 6 with its trailer, a raw image otherwise (R52, R280). -/
def imageBytes (w : Nat) : Nat :=
  if dFmt w < 3 then codeBytes w + scaleBytes w else pad16 (codeBytes w + scaleBytes w) + 16

/-- The check of a tile's trailer against a valid descriptor word (R55). -/
def trailerOk (w : Nat) (data : List Byte) : Bool :=
  let n := codeBytes w + scaleBytes w
  let t := leNat ((data.drop (pad16 n)).take 16)
  t / 2 ^ 96 == w && bitsOf t 95 64 == crc32c (data.take n)

/-- A trailer (R53). -/
def trailer (w crc sat amax : Nat) : List Byte := leBytes 16 (w * 2 ^ 96 + crc * 2 ^ 64 + min sat 0xFFFFFFFF * 2 ^ 32 + amax)

/-! ### Quantising (R51, R285) -/

def Num.magnitude : Num → Num
  | .fin _ m e => .fin false m e
  | .inf _ => .inf false
  | .nan => .nan

/-- The largest magnitude of some values, NaN aside. -/
def maxMagnitude (l : List Num) : Num :=
  l.foldl (fun a v => if v.isNan then a else if Num.cmp a v.magnitude == .lt then v.magnitude else a) (.fin false 0 0)

/-- The least x up to `top` with m ≤ M × 2^(x − bias), else `top` (R285). -/
def leastScale (big bias top : Nat) (m : Num) : Nat :=
  ((List.range (top + 1)).find? fun (x : Nat) => Num.cmp m (.fin false big ((x : Int) - (bias : Int))) != .gt).getD top

/-- What quantising a block gives: codes, scale byte, exact Σ|v − q| over finite elements, clamps, stream. -/
structure Quant where
  codes : List Nat
  scale : Nat
  err : Num
  sat : Nat
  stream : Nat
  deriving DecidableEq, Repr

/-- Magnitudes that one sign of a Q4 type has. -/
def q4Mags (t : Nat) (neg : Bool) : List Nat := if t = 0 ∧ neg then q4Quarters 0 ++ [32] else q4Quarters t

def q4Code (t : Nat) (neg : Bool) (i : Nat) : Nat := if t = 0 then (if neg then (16 - i) % 16 else i) else 8 * b2n neg + i

/-- One finite or infinite value under type t and scale 2^k (R51): code, clamped, |v − q|, stream. -/
def q4Elem (t rnd : Nat) (k : Int) (v : Num) (s : Nat) : Nat × Bool × Num × Nat :=
  match v with
  | .nan => (0, false, .fin false 0 0, s)
  | .inf neg => (q4Code t neg ((q4Mags t neg).length - 1), true, .fin false 0 0, s)
  | .fin neg m e =>
    let mags := q4Mags t neg
    let x : Int := e - k + 2
    -- quarters of the scale: n over d
    let n := if 0 ≤ x then m * 2 ^ x.toNat else m
    let d := if 0 ≤ x then 1 else 2 ^ (-x).toNat
    let i := (mags.filter fun q => q * d ≤ n).length - 1
    let lo := mags.getD i 0
    let unit : Int := if 0 ≤ x then k - 2 else e
    if i + 1 = mags.length then (q4Code t neg i, decide (lo * d < n), .fin false (n - lo * d) unit, s)
    else
      let width := (mags.getD (i + 1) 0 - lo) * d
      let r := n - lo * d
      let (up, s') : Bool × Nat :=
        if r = 0 then (false, s)
        else
          match rnd with
          | 0 => (decide (width < 2 * r) || (2 * r == width && i % 2 == 1), s)
          | 1 => (false, s)
          | 2 => (!neg, s)
          | 3 => (neg, s)
          | _ => (decide (2 ^ 32 ≤ r * 2 ^ 32 / width + drawOf (drawStep s)), drawStep s)
      if up then (q4Code t neg (i + 1), false, .fin false (width - r) unit, s')
      else (q4Code t neg i, false, .fin false r unit, s')

/-- A block under one Q4 type. -/
def q4Block (t rnd : Nat) (l : List Num) (s : Nat) : Quant :=
  if l.any (·.isNan) then ⟨l.map fun _ => 0, t * 64 + 63, .fin false 0 0, 0, s⟩
  else
    let x := leastScale ([7, 6, 16, 12].getD t 7) 31 62 (maxMagnitude l)
    let r := l.foldl
      (fun (q : Quant) v =>
        let e := q4Elem t rnd ((x : Int) - 31) v q.stream
        ⟨e.1 :: q.codes, q.scale, Num.add false q.err e.2.2.1, q.sat + b2n e.2.1, e.2.2.2⟩)
      ⟨[], t * 64 + x, .fin false 0 0, 0, s⟩
    { r with codes := r.codes.reverse }

/-- A block under the type of least error, the lowest of equals (R285). -/
def q4Auto (rnd : Nat) (l : List Num) (s : Nat) : Quant :=
  [1, 2, 3].foldl (fun a t => let q := q4Block t rnd l s; if Num.cmp q.err a.err == .lt then q else a) (q4Block 0 rnd l s)

/-- Whether a finite value overflows a format in a rounding mode: its rounding with one more exponent bit exceeds the largest
finite value (R62). -/
def FFmt.overflows (f : FFmt) (rnd : Nat) (m : Nat) (neg : Bool) (e : Int) (s : Nat) : Bool :=
  let g : FFmt := ⟨f.eb + 1, f.mb, f.bias, false⟩
  Num.cmp (g.decode ((g.roundFin ⟨rnd, false, false⟩ neg m e s).1)).magnitude (f.decode (f.maxBits false)) == .gt

/-- One value divided by 2^k as E4M3, E5M2 or INT8 (R285): code, clamped, stream. -/
def q8Elem (f rnd : Nat) (k : Int) (v : Num) (s : Nat) : Nat × Bool × Nat :=
  if f = 6 then
    match v with
    | .nan => (0, false, s)
    | .inf neg => (if neg then 128 else 127, true, s)
    | .fin neg m e =>
      let r := roundInt rnd neg m (e - k) s
      (wrap 8 (max (-128) (min 127 r.1)), decide (127 < r.1 ∨ r.1 < -128), r.2)
  else
    let o : RMode := ⟨rnd, false, true⟩
    match v with
    | .nan => ((fltFmt f).nan, false, s)
    | .inf neg => ((fltFmt f).maxBits neg, true, s)
    | .fin neg m e =>
      let r := (fltFmt f).roundFin o neg m (e - k) s
      (r.1, (fltFmt f).overflows rnd m neg (e - k) s, r.2)

def q8Block (f rnd : Nat) (scaled : Bool) (l : List Num) (s : Nat) : Quant :=
  let x := if scaled then leastScale ([448, 57344, 0, 127].getD (f - 3) 0) 127 254 (maxMagnitude l) else 127
  let r := l.foldl
    (fun (q : Quant) v =>
      let e := q8Elem f rnd ((x : Int) - 127) v q.stream
      ⟨e.1 :: q.codes, q.scale, q.err, q.sat + b2n e.2.1, e.2.2⟩)
    ⟨[], x, .fin false 0 0, 0, s⟩
  { r with codes := r.codes.reverse }

/-- A list cut into pieces of `n`. -/
def pieces {α : Type} (n : Nat) (l : List α) : List (List α) :=
  (List.range ((l.length + n - 1) / n)).map fun i => (l.drop (i * n)).take n

/-- Codes packed into bytes (R47). -/
def packCodes (f : Nat) (l : List Nat) : List Byte :=
  if f = 5 then (pieces 2 l).map fun p => BitVec.ofNat 8 (p.getD 0 0 + 16 * p.getD 1 0) else l.map (BitVec.ofNat 8)

/-- The quantised tile of some values: its descriptor word, codes and scales, clamps, and the stream after (R285). `fmt` is
CVTQ's field, `n` the count. -/
def quantise (fmt block qtype rnd : Nat) (l : List Num) (s : Nat) : Nat × List Byte × Nat × Nat :=
  let f := [3, 4, 6, 5].getD fmt 3
  let one := fun (b : List Num) (s : Nat) =>
    if fmt = 3 then (if qtype = 4 then q4Auto rnd b s else q4Block qtype rnd b s) else q8Block f rnd (qtype == 1) b s
  let r := (pieces (if block = 0 then l.length else blockLen block) l).foldl
    (fun (p : List Nat × List Nat × Nat × Nat) b =>
      let q := one b p.2.2.2
      (p.1 ++ q.codes, p.2.1 ++ [q.scale], p.2.2.1 + q.sat, q.stream)) ([], [], 0, s)
  let kind := if fmt = 3 then 2 else qtype
  (f * 2 ^ 28 + block * 2 ^ 26 + kind * 2 ^ 24 + l.length,
    packCodes f r.1 ++ (if kind = 0 then [] else r.2.1.map (BitVec.ofNat 8)), r.2.2.1, r.2.2.2)

/-! ### Amax words (R67, R68) -/

/-- The largest |value| as FP32 bits, and whether any is NaN; an INT32 value enters as its RN conversion (R283). -/
def amaxOf (int : Bool) (l : List Nat) : Nat × Bool :=
  l.foldl
    (fun a v =>
      let b := (if int then (fmt32.round ⟨0, false, false⟩ (.ofInt (toSigned 32 v)) 0).1 else v) % 2 ^ 31
      if 0x7F800000 < b then (a.1, true) else (max a.1 b, a.2)) (0, false)

def amaxWord (a : Nat × Bool) : Nat := if a.2 then 0x800000007FC00000 else a.1
def amaxField (a : Nat × Bool) : Nat := if a.2 then 0x7FC00000 else a.1

/-! ### Accumulator values -/

/-- An accumulator element as an exact value. -/
def accValue (int : Bool) (v : Nat) : Num := if int then .ofInt (toSigned 32 v) else fmt32.decode v

/-- The types of R282's otype codes, ASTORE's column. -/
def storeType (o : Nat) : ETy := [ETy.f32, .f16, .bf16, .e4m3, .e5m2, .s32, .s8].getD o .f32

/-- One element converted as CVT does (R62, R204, R283), with the stream after. -/
def accConvert (int : Bool) (d : ETy) (o : RMode) (v s : Nat) : Nat × Nat :=
  if int && d.isInt then (wrap d.bits (if o.sat then clampInt d (toSigned 32 v) else toSigned 32 v), s)
  else if d.isInt then let r := toInt d o.rnd (accValue int v) s; (wrap d.bits r.1, r.2)
  else toFloat (fmtOf d) o (accValue int v) s

def convertAll (int : Bool) (d : ETy) (o : RMode) : List Nat → Nat → List Nat × Nat
  | [], s => ([], s)
  | v :: t, s =>
    let r := accConvert int d o v s
    let q := convertAll int d o t r.2
    (r.1 :: q.1, q.2)

/-! ### Format words and steps (R270, R271, R273) -/

def wAfmt (w : Nat) : Nat := w % 16
def wBfmt (w : Nat) : Nat := w / 16 % 16
def wBlock (w : Nat) : Nat := w / 2 ^ 8 % 4
def wScale (w : Nat) : Nat := w / 2 ^ 10 % 4
def wAsp (w : Nat) : Bool := bitOf w 12
def wBsp (w : Nat) : Bool := bitOf w 13
def wInt (w : Nat) : Bool := w / 2 ^ 14 % 4 == 1

/-- Bits of the wider of the two formats. -/
def wWide (w : Nat) : Nat := max (fmtBits (wAfmt w)) (fmtBits (wBfmt w))
/-- Elements of a row, and of a step. -/
def wK (w : Nat) : Nat := 3072 / wWide w
def wStep (w : Nat) : Nat := 64 / wWide w
/-- Elements of a block: all of K without scales. -/
def wBk (w : Nat) : Nat := if wBlock w = 0 then wK w else blockLen (wBlock w)

/-- The seven conditions of R271. -/
def wordOk (sparse : Bool) (w : Nat) : Bool :=
  w / 2 ^ 16 == 0 && decide (w / 2 ^ 14 % 4 < 2) && wScale w != 3 && decide (wAfmt w < 7) && decide (wBfmt w < 7)
    && ((wAfmt w == 6) == (wBfmt w == 6))
    && (!wInt w || (wAfmt w == 6 && wScale w == 0))
    && ((wAfmt w != 5 && wBfmt w != 5) || wScale w == 2)
    && ((wScale w == 0) == (wBlock w == 0))
    && wK w % wBk w == 0
    && ((wAsp w || wBsp w) == sparse)

/-- Registers of an A row, of its scale bytes, and of one bitmap. -/
def wRowRegs (w : Nat) : Nat := wK w * fmtBits (wAfmt w) / 32
def wScaleRegs (w : Nat) : Nat := if wScale w = 0 then 0 else (wK w / wBk w + 3) / 4
def wMapRegs (w : Nat) : Nat := wK w / 32

def mapBit (l : List Word) (k : Nat) : Bool := (l.getD (k / 32) 0).getLsbD (k % 32)

/-- The k of every step, in order: steps never cross a block (R273). -/
def stepList (w : Nat) (a : KeptA) (bbm : List Word) : List (List Nat) :=
  let live := fun (k : Nat) =>
    (!wAsp w || a.rows.any fun r => mapBit r.2.2.2 k) && (!wBsp w || mapBit bbm k)
  (List.range (wK w / wBk w)).flatMap fun b =>
    pieces (wStep w) (((List.range (wBk w)).map (b * wBk w + ·)).filter live)

/-- A row of A made ready: element codes, scale bytes, bitmap. -/
structure ARow where
  lane : Nat
  codes : List Byte
  scales : List Byte
  map : List Word
  deriving DecidableEq, Repr

def aRows (a : KeptA) : List ARow := a.rows.map fun r => ⟨r.1, wordBytes r.2.1, wordBytes r.2.2.1, r.2.2.2⟩

/-- The step's exact sum for one element (R63): its products added from the first on, scaled; NaN where R65 says. -/
def stepSum (w : Nat) (ftzi : Bool) (a : ARow) (codes scales : List Byte) (c : Nat) (ks : List Nat) : Num :=
  let block := (ks.headD 0) / wBk w
  let sa := (a.scales.getD block 0).toNat
  let sb := (scales.getD ((c * wK w + ks.headD 0) / wBk w) 0).toNat
  let prods := ks.map fun k =>
    let x := if wAsp w && !mapBit a.map k then Num.fin false 0 0 else stepValue (wAfmt w) (sa / 64) ftzi (codeAt (wAfmt w) a.codes k)
    Num.mul x (stepValue (wBfmt w) (sb / 64) ftzi (codeAt (wBfmt w) codes (c * wK w + k)))
  let s := match prods with
    | [] => Num.fin false 0 0
    | p :: t => t.foldl (Num.add false) p
  Num.mul (Num.mul s (scaleValue (wScale w) sa)) (scaleValue (wScale w) sb)

/-- The sum added to an accumulator element, and whether it overflowed or was clamped (R63, R65, R66). An element already infinite
stays so (log entry 64). -/
def stepAdd (int sat ftzo : Bool) (acc : Nat) (x : Num) : Nat × Bool :=
  if int then
    let v : Int := toSigned 32 acc + match x with
      | .fin s m e => (if s then -1 else 1) * ((m * 2 ^ e.toNat : Nat) : Int)
      | _ => 0
    if sat then (wrap 32 (clampInt .s32 v), decide (clampInt .s32 v ≠ v)) else (wrap 32 v, false)
  else
    match Num.add false (fmt32.decode acc) x with
    | .nan => (fmt32.nan, false)
    | .inf s => (fmt32.infBits s, false)
    | .fin s m e =>
      let r := (fmt32.roundFin ⟨0, ftzo, false⟩ s m e 0).1
      if r = fmt32.infBits s then (if sat then fmt32.maxBits s else r, true) else (r, false)

end Sys2Proof.Machine
end

