-- ==== Sys2Proof/Machine/Matrix.lean ====
section
/-! DEFINITION. Collective instructions and the reservation table (R260 to R264), accumulators and stationary slots (R266 to R269),
MMA and MMAS (R270 to R279), BLD (R280, R281), and what ASTORE, ASTZ, CVTQ, DQ and TCHK do when they issue (R282 to R287). The steps of
the posts stand in Posts. -/

namespace Sys2Proof.Machine

/-! ### Collective instructions (R260, R261) -/

/-- The usual end of an instruction that did nothing more. -/
def done (e : Enc) (E : Env) (m : Mach) : Mach := (m.advance E e).tick E.c.core 1

/-- A trap of a collective instruction: every active lane takes it (R346). -/
def trapAct (e : Enc) (E : Env) (m : Mach) (code info : Nat) : Mach := (takeTrap E m (maskOf (E.act e)) code fun _ => info).tick E.c.core 1

/-- The mask that a collective instruction reports unless its entry says otherwise. -/
def actMask (e : Enc) (E : Env) : Nat := (maskOf (E.act e)).toNat

/-- The checks of a collective instruction's ranges as one: the earliest trap, else the first fault, else passed (R231, R261). -/
def combineRes (rs : List LaneRes) : LaneRes :=
  let trap := rs.foldl
    (fun (a : Option (Nat × LaneRes)) r =>
      match r, a with
      | .trap k _ _, some (b, _) => if k < b then some (k, r) else a
      | .trap k _ _, none => some (k, r)
      | _, _ => a) none
  match trap with
  | some (_, r) => r
  | none => (rs.find? fun r => match r with | .ok _ => false | _ => true).getD (.ok .none)

/-- A collective instruction with at least one active lane: its checks made once for all active lanes, which trap or park together;
then `eff`. -/
def collect (e : Enc) (rs : List LaneRes) (eff : Mach → Mach) (E : Env) (m : Mach) : Mach :=
  let r := combineRes rs
  (byLanes e ((E.act e).map fun f => (f, r)) (fun _ m => eff m) (fun m => m.advance E e) E m).tick E.c.core 1

/-- Whether all of some checks have passed. -/
def allOk (rs : List LaneRes) : Bool := rs.all fun r => match r with | .ok _ => true | _ => false

/-- Ranges that passed. -/
def accOf (r : LaneRes) : Acc := match r with | .ok a => a | _ => .none
def Acc.area (a : Acc) : Area := ⟨a.runs, a.object⟩

/-- The gauge operand of a collective instruction, and its check (R265). -/
def gaugeCheck (g : Bool) (E : Env) (e : Enc) (f : Fibre) : LaneRes :=
  if g then scratchLane E.c (f.reg e.vc : Int) 16 16 else .ok .none
def gaugeAt (g : Bool) (E : Env) (e : Enc) (f : Fibre) : Option Nat :=
  if g then some (E.c.core * 2 ^ 18 + E.c.scrBase + f.reg e.vc) else none

/-- An operand of `n` registers on which every active lane agrees with the lowest (R260). -/
def voted (e : Enc) (reg n : Nat) (F : Fibre → Env → Mach → Mach) (E : Env) (m : Mach) : Mach :=
  match E.act e with
  | [] => done e E m
  | f :: t =>
    let bad := t.filter fun g => g.val reg n != f.val reg n
    if bad != [] then (trapLanes E m e 27 bad).tick E.c.core 1 else F f E m

/-- A collective instruction without a vote. -/
def lowest (e : Enc) (F : Fibre → Env → Mach → Mach) (E : Env) (m : Mach) : Mach :=
  match E.act e with
  | [] => done e E m
  | f :: _ => F f E m

/-- A range of an engine at an address: it may not run out of the address's own space (R75, R84). -/
def Mach.engineRange (m : Mach) (E : Env) (f : Fibre) (w : Want) (a : Nat) : LaneRes :=
  if kindOf a = 0 ∧ a < 2 ^ 57 ∧ 2 ^ 57 < a + w.width then .trap 20 4 0
  else if kindOf a = 1 ∧ 2 ^ 40 < offsetOf a + w.width then .trap 20 4 0
  else if kindOf a = 2 ∧ 2 ^ 40 < offsetOf a + w.width then .trap 40 18 0
  else m.deref E.d (E.xOf f) E.cluster f.carry w a none none

/-! ### The reservation table (R262, R263) -/

def partnerCore (core : Nat) : Nat := Nat.xor core 1

def Mach.tableRoom (m : Mach) (cluster : Nat) : Bool :=
  decide ((m.posts.filter fun p => p.core / 4 == cluster).length < Config.reservation)

/-- A post enters the table. -/
def Mach.enter (m : Mach) (E : Env) (f : Fibre) (acc sslot : Option Nat) (pair : Bool) (gauge : Option Nat) (op : PostOp) : Mach :=
  let p : Post :=
    { id := m.nextId, crew := E.c.id, gang := E.g.id, lanes := E.lanes.map (·.slot), slot := f.slot, stream := f.stream
      core := E.c.core, acc := acc, sslot := sslot, pair := pair, prio := E.l.prio, entered := m.clock E.c.core, aged := false
      started := false, stopped := false, worked := false, failed := false, step := 0, gauge := gauge, op := op }
  { m with posts := m.posts ++ [p], nextId := m.nextId + 1 }

/-- A post once its checks have passed: it waits for room in the table. -/
def posted (e : Enc) (rs : List LaneRes) (eff : Mach → Mach) (E : Env) (m : Mach) : Mach :=
  if allOk rs && !m.tableRoom E.cluster then m.hold E.c.id E.g.id false else collect e rs eff E m

/-! ### Tiles and slots -/

def Mach.sslot (m : Mach) (core n : Nat) : Option StatSlot := m.sslots.find? fun s => s.core == core && s.n == n && s.crew != 0

def Mach.setSslot (m : Mach) (s : StatSlot) : Mach :=
  { m with sslots := putBy (fun t => t.core == s.core && t.n == s.n) s m.sslots }

/-- The cores that a post acts on. -/
def coresOf (core : Nat) (pair : Bool) : List Nat := if pair then [core, partnerCore core] else [core]

/-- Every element of a tile 0, and its counts (R268). -/
def Mach.zeroTile (m : Mach) (core n : Nat) : Mach :=
  let lo := accIndex core n 0 0
  { m.setTile { m.tile core n with sat := 0, steps := 0, step := 0 } with
    accs := m.accs.filter fun p => p.1 < lo || lo + 4096 ≤ p.1 }

def Tile.ofCrew (t : Tile) (crew : Nat) : Bool := t.bound && t.crew == crew

/-- A tile bound, and zeroed at once when it was not the crew's, so that nothing of its last owner can be read (R268). -/
def Mach.bindTile (m : Mach) (crew core n : Nat) (int pair : Bool) : Mach :=
  let m1 := if (m.tile core n).ofCrew crew then m else m.zeroTile core n
  m1.setTile { m1.tile core n with crew := crew, int := int, pair := pair, bound := true, stopped := false }

/-- A crew's binding of a tile number released on its core, and on the partner of a pair (R266, R268). -/
def Mach.freeTile (m : Mach) (crew core n : Nat) : Mach :=
  (coresOf core true).foldl
    (fun m k =>
      let t := m.tile k n
      if t.ofCrew crew then m.setTile { t with crew := 0, bound := false, pair := false, int := false, stopped := false } else m) m

/-- A crew's slot released, and its other half. -/
def Mach.freeSlot (m : Mach) (crew core n : Nat) : Mach :=
  { m with sslots := m.sslots.map fun s =>
      if (coresOf core true).contains s.core && s.n == n && s.crew == crew then { s with crew := 0 } else s }

/-- AZERO (R266, R268). It binds its tile when it issues, and AZERO.free gives the tile up when it issues (log entry 23). -/
def azeroM (e : Enc) : Env → Mach → Mach :=
  lowest e fun f E m =>
    let n := e.m 62 61
    let int := e.mb 59
    let pair := e.mb 60
    if e.mb 58 then
      if !(m.tile E.c.core n).ofCrew E.c.id then done e E m
      else posted e [] (fun m => (m.freeTile E.c.id E.c.core n).enter E f (some n) none false none (.azero int true)) E m
    else
      let cores := coresOf E.c.core pair
      if cores.any fun k => !(m.tile k n).ofCrew E.c.id && ((m.tile k n).bound || m.tileBusy k n) then m.hold E.c.id E.g.id false
      else
        posted e []
          (fun m => (cores.foldl (fun m k => m.bindTile E.c.id k n int pair) m).enter E f (some n) none pair none (.azero int false))
          E m

/-- ARD (R269): the row of each active lane and the status word. -/
def ardM (e : Enc) : Env → Mach → Mach :=
  lowest e fun f E m =>
    let n := e.m 62 61
    let c := b32At e f
    let t := m.tile E.c.core n
    if c % 4 ≠ 0 ∨ 124 < c then trapAct e E m 28 (actMask e E)
    else if !t.ofCrew E.c.id then trapAct e E m 29 1
    else if e.mb 60 ∧ !t.pair then trapAct e E m 29 6
    else
      let core := if e.mb 60 then partnerCore E.c.core else E.c.core
      let row := fun (g : Fibre) =>
        leNat ((List.range 4).flatMap fun i => leBytes 4 (wordAt m.accs (accIndex core n g.lane (c + i))).toNat)
      let m1 := m.pendLanes E true e.vd 4 ((E.act e).map fun g => (g, row g))
      done e E (m1.pendLanes E true e.vc 2 ((E.act e).map fun g => (g, m.statusWord core n)))

/-! ### MMA and MMAS (R271 to R276) -/

/-- What an MMA finds of its tile, its slot and the latch. -/
inductive Ready where
  | ok
  | wait
  | trap (code info : Nat)
  deriving DecidableEq, Repr

/-- Whether a BLD of a slot is still in the table (R272). -/
def Mach.loadComing (m : Mach) (core s : Nat) : Bool :=
  m.posts.any fun p => p.sslot == some s && (coresOf p.core p.pair).contains core && match p.op with | .bld .. => true | _ => false

/-- The checks of R272 and R276 in the order of their subcodes. -/
def Mach.mmaReady (m : Mach) (E : Env) (e : Enc) (w : Nat) (n s : Nat) (pair : Bool) : Ready :=
  let t := m.tile E.c.core n
  let latch := match E.g.kept with
    | some k => k.afmt != wAfmt w || k.block != wBlock w || k.scale != wScale w || k.asp != wAsp w || k.mask != maskOf (E.act e)
    | none => false
  if !t.ofCrew E.c.id then .trap 29 1
  else if t.int ≠ wInt w ∨ (t.pair ∧ !pair) then .trap 29 2
  else
    match m.sslot E.c.core s with
    | none => .trap 29 3
    | some b =>
      if b.crew ≠ E.c.id then .trap 29 3
      else if b.state = 0 ∨ m.loadComing E.c.core s then .wait
      else if b.state ≠ 1 then .trap b.state (actMask e E)
      else if b.fmt ≠ wBfmt w ∨ b.block ≠ wBlock w ∨ b.scale ≠ wScale w ∨ b.k ≠ wK w then .trap 29 4
      else if latch then .trap 29 5
      else if pair ∧ (!t.pair ∨ !b.pair) then .trap 29 6
      else .ok

/-- A lane's A operands from its registers (R271). -/
def aOperands (w : Nat) (e : Enc) (f : Fibre) : Nat × List Word × List Word × List Word :=
  let regs := fun (k n : Nat) => (List.range n).map fun i => f.regs.getD (k + i) 0
  (f.lane, regs e.va (wRowRegs w), regs (e.va + wRowRegs w) (wScaleRegs w), if wAsp w then regs e.vd (wMapRegs w) else [])

/-- Kept A in a crew image: 576 bytes a row (R359). -/
def keptOffset (lane : Nat) : Nat := 0x400 + 576 * lane

def keptBytes (r : Nat × List Word × List Word × List Word) : List Byte :=
  let b := wordBytes (r.2.1 ++ r.2.2.1 ++ r.2.2.2)
  b ++ List.replicate (576 - b.length) 0

/-- The kept A of a gang written to its crew's image (R275, R359). -/
def Mach.spillOne (m : Mach) (d : Dev) (c : Crew) (g : Gang) : Mach :=
  match g.kept with
  | none => m
  | some k =>
    if k.spilled then m
    else
      (k.rows.foldl (fun m r => m.imageWrite ((m.ctx c.ctx).key d) c (keptOffset r.1) (keptBytes r)) m).updGang c.id g.id
        fun g => { g with kept := some { k with spilled := true } }

/-- The kept A of every other gang of some cores leaves the latch for its owner's image (R275). -/
def Mach.spillKept (m : Mach) (d : Dev) (cores : List Nat) (crew gang : Nat) : Mach :=
  (m.crews.filter fun c => cores.contains c.core).foldl
    (fun m c => (c.gangs.filter fun g => !(c.id == crew && g.id == gang)).foldl (fun m g => m.spillOne d c g) m) m

/-- Kept A as the post takes it: from the image when it was written there and no other gang's lies over it (R275, R359). -/
def Mach.loadKept (m : Mach) (d : Dev) (c : Crew) (k : KeptA) : KeptA :=
  if !k.spilled ∨ 1 < (c.gangs.filter fun g => g.kept.any (·.spilled)).length then { k with spilled := false }
  else
    let key := (m.ctx c.ctx).key d
    { k with
      spilled := false
      rows := k.rows.map fun r =>
        let words := (List.range 144).map fun i => BitVec.ofNat 32 (m.imageNat key c (keptOffset r.1 + 4 * i) 4)
        let na := r.2.1.length
        let ns := r.2.2.1.length
        (r.1, words.take na, (words.drop na).take ns, (words.drop (na + ns)).take r.2.2.2.length) }

/-- The checks of an MMA after the vote of its format word, and its entry into the table (R273 to R275). -/
def mmaPost (sparse : Bool) (e : Enc) (f : Fibre) (E : Env) (m : Mach) : Mach :=
  let w := f.reg e.vb
  let n := e.m 62 61
  let s := e.m 60 60
  let pair := e.mb 58
  let maps := wMapRegs w * (b2n (wAsp w) + b2n (wBsp w))
  let bbmReg := e.vd + if wAsp w then wMapRegs w else 0
  if !wordOk sparse w then trapAct e E m 28 w
  else if E.c.nregs < e.va + wRowRegs w + wScaleRegs w ∨ E.c.nregs < e.vd + maps then trapAll E m 2 e.parcel
  else
    let differ := if wBsp w then (E.act e).filter fun g => g.val bbmReg (wMapRegs w) != f.val bbmReg (wMapRegs w) else []
    if differ != [] then (trapLanes E m e 27 differ).tick E.c.core 1
    else
      let g := [gaugeCheck (e.mb 57) E e f]
      if !allOk g then collect e g id E m
      else
        match m.mmaReady E e w n s pair with
        | .trap code info => trapAct e E m code info
        | .wait => m.hold E.c.id E.g.id false
        | .ok =>
          posted e g
            (fun m =>
              let a : KeptA := match E.g.kept with
                | some k => m.loadKept E.d E.c k
                | none => ⟨wAfmt w, wBlock w, wScale w, wAsp w, maskOf (E.act e), (E.act e).map (aOperands w e), false⟩
              let bbm := if wBsp w then (List.range (wMapRegs w)).map fun i => f.regs.getD (bbmReg + i) 0 else []
              let m1 := m.spillKept E.d (coresOf E.c.core pair) E.c.id E.g.id
              let m2 := m1.updGang E.c.id E.g.id fun g => { g with kept := if e.mb 59 then some a else none }
              let m3 := m2.enter E f (some n) (some s) pair (gaugeAt (e.mb 57) E e f)
                (.mma w (e.mb 56) (e.mb 55) (e.mb 54) a bbm)
              -- A enters the latch at 1 KiB a clock
              m3.tick E.c.core (if E.g.kept.isSome then 0 else (a.rows.length * wRowRegs w * 4 + 1023) / 1024 - 1)) E m

def mmaM (e : Enc) : Env → Mach → Mach := voted e e.vb 1 (mmaPost false e)
def mmasM (e : Enc) : Env → Mach → Mach := voted e e.vb 1 (mmaPost true e)

/-! ### Images and tiles in memory (R280, R286, R320, R421, R422) -/

/-- The displacement of R265. -/
def dispOf (e : Enc) : Int := if e.bImm then toSigned 32 e.imm32 else 0

/-- The address that an address mode forms, when its record can be read. -/
def Mach.addressOf (m : Mach) (E : Env) (f : Fibre) (amode va n : Nat) (disp : Int) : Option Nat :=
  if amode < 2 then some (wrap 64 (((if amode = 0 then f.reg va else f.val va 2 : Nat) : Int) + disp))
  else
    match m.record E f.carry.errorPage n with
    | .inl r => some (wrap 64 ((bitsOf r 191 128 : Int) + (if amode = 2 then (f.reg va : Int) else 0) + disp))
    | .inr _ => none

/-- What maps a byte of a region of this device (R402 to R404): the context that receives there, the byte's address in it and what that
translates to. -/
def Mach.regionPlace (m : Mach) (d : Dev) (rk off : Nat) : Option (Ctx × Nat × Xlate) :=
  let w := m.queueDesc d (bitsOf rk 31 18)
  let y := m.view d (descFn w) (descCtx w)
  match m.rangeRuns d y 0 (bitsOf y.fabric.toNat 383 320 + 32 * bitsOf rk 17 8) 32 1 false with
  | .ok r =>
    let va := bitsOf (leNat ((runLocs r).map (m.homeRead (y.key d)))) 255 192 + off
    match m.translate d y 0 va 1 with
    | .ok t => some (y, va, t)
    | _ => none
  | _ => none

/-- Cipher attribute and key id of a tile behind a kind-01 pair with no record: those of the range entry or page that maps it (R320).
Of a tile on another node, or of a region that does not translate as the instruction issues, the part's own state does not hold them, and
they are free (log entry 57). -/
def Mach.fabAttr (m : Mach) (d : Dev) (node rk off : Nat) : Bool × Nat :=
  let free := Config.freeOf 320 (node * 2 ^ 32 + rk) off
  match (if node = d.node then m.regionPlace d rk off else none) with
  | some (_, _, t) => (t.cipher, t.keyId)
  | none => (free.getLsbD 0, free.toNat / 2 % 256)

/-- The object of a ciphertext tile behind a kind-01 pair, as the offset in it, its start and its size: of the range entry that maps it, or
free where the part's own state does not hold it, and then perhaps only a page maps it (R422; log entry 57). -/
def Mach.fabObject (m : Mach) (d : Dev) (node rk off : Nat) : Option (Nat × Nat × Nat) :=
  let free := fun (n : Nat) => (Config.freeOf n (node * 2 ^ 32 + rk) off).toNat
  match (if node = d.node then m.regionPlace d rk off else none) with
  | some (y, va, t) => t.start.bind fun st => (y.ranges.find? fun r => r.base == st).map fun r => (va - st, st, r.limit - r.base)
  | none => if free 321 % 2 = 0 then none else some (free 322, free 323, free 324)

/-- A tile's range: the record first, then the alignment that its format asks for, then the rest of R231, and the agreement of a
class-N record with its slot (R320). -/
def Mach.tileRange (m : Mach) (E : Env) (e : Enc) (f : Fibre) (amode n : Nat) (disp : Int) (size : Nat) (aligned report : Bool) : LaneRes :=
  let r := m.memLane E amode e.va disp n ⟨size, 1, 1, false, false, report⟩ f
  let early := match r with
    | .trap k _ _ => decide (k ≤ 12)
    | _ => false
  let odd := match m.addressOf E f amode e.va n disp with
    | some a => decide (a % 16 ≠ 0)
    | none => false
  if early then r
  else if aligned && odd then .trap 15 28 0
  else
    match r with
    | .ok a =>
      if amode < 2 then
        match a.fab with
        | some (node, rk, off) => .ok { a with cipher := (m.fabAttr E.d node rk off).1, keyId := (m.fabAttr E.d node rk off).2 }
        | none => r
      else
        match m.record E f.carry.errorPage n with
        | .inl w =>
          if kindOf (bitsOf w 191 128) = 2 ∧ (a.cipher ≠ bitOf w 4 ∨ a.keyId ≠ bitsOf w 15 8) then .trap 43 6 0 else r
        | .inr x => x
    | _ => r

/-- A tile's object: the offset in it, its slot if any, its start and its size (R422); none when only a page names it. -/
def Mach.objectOf (m : Mach) (E : Env) (f : Fibre) (amode n : Nat) (a : Acc) : Option (Nat × Option Slot × Nat × Nat) :=
  match a.object with
  | some (s, off) => (E.x.slot s).map fun sl => (off, some sl, 0, sl.size)
  | none =>
    if 2 ≤ amode then
      match m.record E f.carry.errorPage n with
      | .inl r => some ((a.va + 2 ^ 64 - bitsOf r 191 128) % 2 ^ 64, none, bitsOf r 191 128, bitsOf r 104 64)
      | .inr _ => none
    else
      match a.start, a.fab with
      | none, some (node, rk, off) =>
        (m.fabObject E.d node rk off).map fun p => (p.1, none, p.2.1, p.2.2)
      | none, none => none
      | some st, _ => (E.x.ranges.find? fun r => r.base == st).map fun r => (a.va - st, none, st, r.limit - r.base)

/-- What a ciphertext image needs: no key or an unknown or uneven start (CIPHER_USE), or its first unit with the whole units that
it touches and their tags. -/
inductive Sealed where
  | bad
  | ok (unit : Nat) (data tags : LaneRes)
  deriving DecidableEq, Repr

/-- Runs across the fabric moved within their region. -/
def fabRuns (a : Acc) (shift : Int) (len : Nat) : LaneRes :=
  match a.fab with
  | some (node, rk, off) =>
    .ok { a with runs := [⟨fabLoc node rk (off + shift).toNat, len, .f, some (node, rk, (off + shift).toNat), 0⟩] }
  | none => .ok a

def Mach.unseal (m : Mach) (E : Env) (f : Fibre) (amode va n : Nat) (disp : Int) (size : Nat) (a : Acc) : Sealed :=
  match m.objectOf E f amode n a with
  | none => .bad
  | some (off, slot, start, osize) =>
    if off % 512 ≠ 0 ∨ E.x.comp = 0 ∨ a.keyId = 0 then .bad
    else
      let units := (size + 511) / 512
      let len := min (units * 512) (osize - off)
      if a.fab.isSome then
        .ok (off / 512) (fabRuns a 0 len) (fabRuns a ((tagOffset osize + 8 * (off / 512) : Nat) - (off : Int)) (8 * units))
      else
        .ok (off / 512) (m.memLane E amode va disp n ⟨len, 1, 1, false, false, false⟩ f)
          (((List.range units).map fun i => m.tagRuns E.d E.x E.cluster f.carry.errorPage slot start osize (off / 512 + i) 1).foldl LaneRes.append
            (.ok .none))

/-- Ciphertext units checked against their tags and decrypted (R421, R422); none where a tag fails. -/
def Dev.openUnits (d : Dev) (fn comp kid unit : Nat) (data tags : List Byte) : Option (List Byte) :=
  let key := d.weightsKey fn comp kid
  let us := pieces 512 data
  if (List.range us.length).all fun i => unitTag key (unit + i) kid (us.getD i []) == (tags.drop (8 * i)).take 8 then
    some ((List.range us.length).flatMap fun i => unitDecrypt key (unit + i) (us.getD i []))
  else none

/-! ### BLD (R280, R281) -/

/-- Elements of one column. -/
def bldDepth (w : Nat) (pair : Bool) : Nat := dCount w / (if pair then 256 else 128)

/-- The descriptor word of a BLD (R280). -/
def bldOk (w : Nat) (pair : Bool) : Bool :=
  ok53 w && dCount w % (if pair then 256 else 128) == 0 && decide (bldDepth w pair * fmtBits (dFmt w) ≤ 3072)
    && (dBlock w == 0 || bldDepth w pair % blockLen (dBlock w) == 0)

/-- A crew's slot taken for a load. -/
def Mach.bindSlot (m : Mach) (crew core n w : Nat) (pair : Bool) : Mach :=
  let old := m.sslots.find? fun s => s.core == core && s.n == n
  m.setSslot
    { core := core, n := n, crew := crew, pair := pair, fmt := dFmt w, block := dBlock w, scale := dScale w, k := bldDepth w pair
      codes := (old.map (·.codes)).getD [], scales := (old.map (·.scales)).getD [], state := 0 }

def bldPost (e : Enc) (f : Fibre) (E : Env) (m : Mach) : Mach :=
  let s := e.m 62 62
  let pair := e.mb 61
  let am := e.m 60 59
  let n := e.m 56 49
  let w := f.reg e.vd
  let cores := coresOf E.c.core pair
  if !bldOk w pair then trapAct e E m 28 (actMask e E)
  else if cores.any fun k => (m.sslot k s).any fun b => b.crew != E.c.id then m.hold E.c.id E.g.id false
  else
    let size := imageBytes w
    let r := m.tileRange E e f am n (dispOf e) size (decide (3 ≤ dFmt w)) false
    let a := accOf r
    let sealed := m.unseal E f am e.va n (dispOf e) size a
    let more : List LaneRes := if a.cipher then (match sealed with | .ok _ d t => [d, t] | .bad => []) else []
    let rs := [r, gaugeCheck (e.mb 58) E e f] ++ more
    let op : PostOp := if a.cipher then
        (match sealed with
          | .ok u d t => .bld (BitVec.ofNat 32 w) (accOf d).area true a.keyId u (accOf t).runs
          | .bad => .bld (BitVec.ofNat 32 w) a.area true 0 0 [])
      else .bld (BitVec.ofNat 32 w) a.area false 0 0 []
    posted e rs
      (fun m =>
        (cores.foldl (fun m k => m.bindSlot E.c.id k s w pair) (m.touchSlots E.x.addr [(f, a)])).enter E f none (some s) pair
          (gaugeAt (e.mb 58) E e f) op) E m

/-- BLD (R266, R271). It binds its slot when it issues, and BLD.free gives the slot up when it issues (log entry 23). -/
def bldM (e : Enc) : Env → Mach → Mach :=
  if e.mb 57 then
    lowest e fun f E m =>
      posted e [] (fun m => (m.freeSlot E.c.id E.c.core (e.m 62 62)).enter E f none (some (e.m 62 62)) false none .bldFree) E m
  else withRecord e (e.m 60 59) (e.m 56 49) (voted e e.vd 1 (bldPost e))

/-! ### ASTORE, ASTZ, CVTQ (R282 to R285) -/

/-- The tile's state as R282 asks. -/
def Mach.storeReady (m : Mach) (E : Env) (n : Nat) (pair : Bool) : Option Nat :=
  let t := m.tile E.c.core n
  if !t.ofCrew E.c.id then some 1 else if pair ∧ !t.pair then some 6 else none

/-- The amax cell: an 8-byte word of global memory, read and written (R67, R283). A cell across the fabric has no matrix-path
atomic (log entry 14). -/
def Mach.cell (m : Mach) (E : Env) (f : Fibre) (a : Nat) : LaneRes :=
  if kindOf a = 1 then .trap 20 4 0 else m.engineRange E f ⟨8, 3, 8, true, false, false⟩ a

def writeWant (n : Nat) : Want := ⟨n, 2, 1, false, false, false⟩

/-- ASTORE and ASTZ share their fields. -/
def storeM (z : Bool) (e : Enc) : Env → Mach → Mach :=
  lowest e fun f E m =>
    let o := e.m 62 60
    let size := (storeType o).bits / 8
    let pair := e.mb 53
    let n := e.m 52 51
    let a := f.val e.va 2
    let b := b32At e f
    match m.storeReady E n pair with
    | some sub => trapAct e E m 29 sub
    | none =>
      let row := size * if pair then 256 else 128
      let stride := toSigned 32 b
      if (if z then a % 16 ≠ 0 else a % size ≠ 0 ∨ stride % (size : Int) ≠ 0 ∨ stride < (row : Int)) then
        trapAct e E m 28 (actMask e E)
      else
        let dst := if z then [m.engineRange E f (writeWant (max b 528 * if pair then 2 else 1)) a]
          else (List.range 32).map fun (r : Nat) =>
            if kindOf a = 2 ∧ (2 ^ 40 : Int) < (offsetOf a : Int) + (r : Int) * stride + (row : Int) then .trap 40 18 0
            else m.engineRange E f (writeWant row) (wrap 64 ((a : Int) + (r : Int) * stride))
        let cell := if e.mb 54 then [m.cell E f (f.val e.vd 2)] else []
        let amax := cell.head?.map fun c => (accOf c).area
        let int := (m.tile E.c.core n).int
        let op : PostOp := if z then
            .astz int o (e.m 59 57) (e.mb 56) (e.mb 55) amax b ((dst.head?.map fun r => (accOf r).area).getD ⟨[], none⟩)
          else .astore int o (e.m 59 57) (e.mb 56) (e.mb 55) amax (dst.map fun r => (accOf r).area)
        posted e (dst ++ cell ++ [gaugeCheck (e.mb 50) E e f])
          (fun m => (m.touchSlots E.x.addr ((dst ++ cell).map fun r => (f, accOf r))).enter E f (some n) none pair
            (gaugeAt (e.mb 50) E e f) op) E m

def astoreM (e : Enc) : Env → Mach → Mach := storeM false e
def astzM (e : Enc) : Env → Mach → Mach := storeM true e

/-- The combinations of CVTQ's fields (R285). -/
def cvtqOk (fmt block qtype : Nat) : Bool :=
  if fmt = 3 then block != 0 && qtype ≤ 4 else (qtype == 0 && block == 0) || (qtype == 1 && block != 0)

def cvtqM (e : Enc) : Env → Mach → Mach :=
  lowest e fun f E m =>
    let fmt := e.m 62 61
    let block := e.m 60 59
    let qtype := e.m 58 56
    let pair := e.mb 52
    let n := e.m 51 50
    let a := wrap 64 ((f.val e.va 2 : Int) + dispOf e)
    match m.storeReady E n pair with
    | some sub => trapAct e E m 29 sub
    | none =>
      if !cvtqOk fmt block qtype ∨ a % 16 ≠ 0 then trapAct e E m 28 (actMask e E)
      else
        let w := [3, 4, 6, 5].getD fmt 3 * 2 ^ 28 + block * 2 ^ 26 + if pair then 8192 else 4096
        let dst := m.engineRange E f (writeWant (imageBytes w)) a
        let c := f.val e.vd 2
        let cell := if c = 0 then [] else [m.cell E f c]
        posted e (dst :: cell ++ [gaugeCheck (e.mb 49) E e f])
          (fun m => (m.touchSlots E.x.addr ((dst :: cell).map fun r => (f, accOf r))).enter E f (some n) none pair
            (gaugeAt (e.mb 49) E e f)
            (.cvtq (m.tile E.c.core n).int fmt block qtype (e.m 55 53) (cell.head?.map fun r => (accOf r).area) (accOf dst).area)) E m

/-! ### DQ and TCHK (R286, R287) -/

/-- Bytes that an engine reads while its gang waits. -/
inductive Got where
  | ok (b : List Byte)
  | wait
  | lost
  deriving DecidableEq, Repr

/-- Bytes of runs read on the mat path; a part across the fabric is asked for and awaited. -/
def Mach.readRuns (m : Mach) (E : Env) (slot : Nat) (l : List Run) : Mach × Got :=
  match l.findSome? (·.fab) with
  | none => (m, .ok ((runLocs l).map (m.homeRead E.key)))
  | some (node, rk, off) =>
    let len := l.foldl (fun n r => n + r.len) 0
    match m.fabOut.find? fun o => o.kind == .tile && o.crew == E.c.id && o.slot == slot && o.node == node && o.rkey == rk
        && o.off == off && o.len == len with
    | some o =>
      match o.answer with
      | none => (m, .wait)
      | some (err, b) => (m, if err || b.length < len then .lost else .ok b)
    | none => (m.sendFab E.d E.c.id E.g.id slot node rk off [] len .tile, .wait)

/-- Answers taken by a gang that goes on. -/
def Mach.dropTiles (m : Mach) (E : Env) : Mach :=
  { m with fabOut := m.fabOut.filter fun o => !(o.kind == .tile && o.crew == E.c.id && o.gang == E.g.id) }

/-- A gang's reads asked for in turn, each with its answer. -/
def Mach.readAll (m : Mach) (E : Env) : List (Nat × List Run) → Mach × List Got
  | [] => (m, [])
  | (slot, l) :: t =>
    let r := m.readRuns E slot l
    let q := Mach.readAll r.1 E t
    (q.1, r.2 :: q.2)

def anyWait (l : List Got) : Bool := l.any fun g => g == .wait
def gotBytes (g : Got) : List Byte := match g with | .ok b => b | _ => []

/-- DQ's types (R282). -/
def dqType (o : Nat) : ETy := [ETy.f32, .f16, .bf16].getD o .f32

/-- A tile's elements as numbers of a type (R286). -/
def dequantise (w : Nat) (d : ETy) (data : List Byte) : List Byte :=
  let codes := data.take (codeBytes w)
  let scales := data.drop (codeBytes w)
  (List.range (dCount w)).flatMap fun i =>
    let sb := if dScale w = 0 then 0 else (scales.getD (i / blockLen (dBlock w)) 0).toNat
    let x := Num.mul (elemValue (dFmt w) (sb / 64) false (codeAt (dFmt w) codes i)) (scaleValue (dScale w) sb)
    leBytes (d.bits / 8) (toFloat (fmtOf d) ⟨0, false, false⟩ x 0).1

def dqPost (e : Enc) (f : Fibre) (E : Env) (m : Mach) : Mach :=
  let w := f.reg e.vd
  let am := e.m 60 59
  let n := e.m 56 49
  let d := dqType (e.m 62 61)
  let len := dCount w * (d.bits / 8)
  if !ok53 w ∨ dFmt w < 3 then trapAct e E m 28 (actMask e E)
  else
    let r := m.tileRange E e f am n 0 (imageBytes w) true true
    let a := accOf r
    let dst := if e.mb 57 then scratchLane E.c (((if e.isL then e.lit else f.reg e.vb) : Nat) : Int) len (d.bits / 8)
      else m.engineRange E f (writeWant len) (f.val e.vb 2)
    let cipher : LaneRes := if a.cipher then .trap 60 32 0 else .ok .none
    let rs := [r, dst, gaugeCheck (e.mb 58) E e f, cipher]
    if !allOk rs then collect e rs id E m
    else if !m.tableRoom E.cluster then m.hold E.c.id E.g.id false
    else
      let g := m.readRuns E f.slot a.runs
      match g.2 with
      | .wait => g.1.stall E.c.id E.g.id
      | .lost => trapAct e E (g.1.dropTiles E) 13 (actMask e E)
      | .ok b =>
        if !trailerOk w b then trapAct e E (g.1.dropTiles E) 30 (actMask e E)
        else
          posted e rs
            (fun m => (m.touchSlots E.x.addr [(f, a), (f, accOf dst)]).enter E f none none false (gaugeAt (e.mb 58) E e f)
              (.dq (dequantise w d b) (accOf dst).area)) E (g.1.dropTiles E)

def dqM (e : Enc) : Env → Mach → Mach := withRecord e (e.m 60 59) (e.m 56 49) (voted e e.vd 1 (dqPost e))

/-- One lane's checks of a TCHK before its tile is read, and what it reads: its bytes, and the unit, key id and tags of ciphertext. -/
def tchkLane (m : Mach) (E : Env) (e : Enc) (f : Fibre) : LaneRes × List Run × Option (Nat × Nat × List Run) :=
  let w := f.reg e.vc
  let am := e.m 60 59
  let n := e.m 56 49
  if !ok53 w ∨ dFmt w < 3 then (.trap 5 28 0, [], none)
  else
    let r := match m.tileRange E e f am n (dispOf e) (imageBytes w) true true with
      | .trap 15 28 i => LaneRes.trap 5 28 i
      | r => r
    let a := accOf r
    if !a.cipher then (r, a.runs, none)
    else
      match m.unseal E f am e.va n (dispOf e) (imageBytes w) a with
      | .bad => (.trap 60 32 0, [], none)
      | .ok u d t => (combineRes [r, d, t], (accOf d).runs, some (u, a.keyId, (accOf t).runs))

/-- A lane's outcome once its bytes are there: passed, or the rank and code of the failure. -/
def tchkResult (E : Env) (w : Nat) (data : Got) (sealed : Option (Nat × Nat × Got)) : LaneRes :=
  match data, sealed with
  | .lost, _ => .trap 52 13 0
  | _, some (_, _, .lost) => .trap 52 13 0
  | g, some (u, kid, t) =>
    match E.d.openUnits E.x.fn E.x.comp kid u (gotBytes g) (gotBytes t) with
    | none => .trap 61 31 0
    | some p => if trailerOk w p then .ok .none else .trap 62 30 0
  | g, none => if trailerOk w (gotBytes g) then .ok .none else .trap 62 30 0

/-- TCHK (R287): per lane. -/
def tchkM (e : Enc) : Env → Mach → Mach :=
  withRecord e (e.m 60 59) (e.m 56 49) fun E m =>
    let q := e.mb 58
    let ls := (E.act e).map fun f => (f, tchkLane m E e f)
    let rs := ls.map fun p => (p.1, p.2.1)
    let goes := ls.filter fun p => match p.2.1 with | .ok _ => true | _ => false
    if (worst rs).isSome then (byLanes e rs (fun _ m => m) (fun m => m.advance E e) E (m.dropTiles E)).tick E.c.core 1
    else
      let d := m.readAll E (goes.map fun p => (p.1.slot, p.2.2.1))
      let t := d.1.readAll E (goes.map fun p => (p.1.slot, (p.2.2.2.map fun s => s.2.2).getD []))
      if anyWait d.2 || anyWait t.2 then t.1.stall E.c.id E.g.id
      else
        let out := ((goes.zip d.2).zip t.2).map fun p =>
          (p.1.1.1, tchkResult E (p.1.1.1.reg e.vc) p.1.2 (p.1.1.2.2.2.map fun s => (s.1, s.2.1, p.2)))
        let soft := fun (r : LaneRes) => match r with
          | .trap _ 31 _ => true
          | .trap _ 30 _ => true
          | _ => false
        let final := if q then out.map fun p => (p.1, if soft p.2 then LaneRes.ok .none else p.2) else out
        let preds := out.map fun p => (p.1, match p.2 with | .ok _ => true | _ => false)
        let rest := rs.filter fun p => match p.2 with | .ok _ => false | _ => true
        (byLanes e (final ++ rest) (fun _ m => m.pendPreds E true e.vd preds) (fun m => m.advance E e) E (t.1.dropTiles E)).tick
          E.c.core 1

/-- MMA, W form (R273). -/
def execMmaW (f : WForm) (s : State) : Host.Outcome State Fault Refusal :=
  isa (checked (f.enc 0x180) (shapeOf (f.enc 0x180)) (mmaM (f.enc 0x180))) s

/-- MMAS, W form (R273). -/
def execMmasW (f : WForm) (s : State) : Host.Outcome State Fault Refusal :=
  isa (checked (f.enc 0x181) (shapeOf (f.enc 0x181)) (mmasM (f.enc 0x181))) s

/-- BLD, W form (R280). -/
def execBldW (f : WForm) (s : State) : Host.Outcome State Fault Refusal :=
  isa (checked (f.enc 0x182) (shapeOf (f.enc 0x182)) (bldM (f.enc 0x182))) s

/-- BLD, L form (R280). -/
def execBldL (f : LForm) (s : State) : Host.Outcome State Fault Refusal :=
  isa (checked (f.enc 0x182) (shapeOf (f.enc 0x182)) (bldM (f.enc 0x182))) s

/-- AZERO, W form (R268). -/
def execAzero (f : WForm) (s : State) : Host.Outcome State Fault Refusal :=
  isa (checked (f.enc 0x183) (shapeOf (f.enc 0x183)) (azeroM (f.enc 0x183))) s

/-- ARD, W form (R269). -/
def execArd (f : WForm) (s : State) : Host.Outcome State Fault Refusal :=
  isa (checked (f.enc 0x184) (shapeOf (f.enc 0x184)) (ardM (f.enc 0x184))) s

/-- ASTORE, W form (R283). -/
def execAstoreW (f : WForm) (s : State) : Host.Outcome State Fault Refusal :=
  isa (checked (f.enc 0x185) (shapeOf (f.enc 0x185)) (astoreM (f.enc 0x185))) s

/-- ASTORE, L form (R283). -/
def execAstoreL (f : LForm) (s : State) : Host.Outcome State Fault Refusal :=
  isa (checked (f.enc 0x185) (shapeOf (f.enc 0x185)) (astoreM (f.enc 0x185))) s

/-- ASTZ, W form (R284). -/
def execAstzW (f : WForm) (s : State) : Host.Outcome State Fault Refusal :=
  isa (checked (f.enc 0x186) (shapeOf (f.enc 0x186)) (astzM (f.enc 0x186))) s

/-- ASTZ, L form (R284). -/
def execAstzL (f : LForm) (s : State) : Host.Outcome State Fault Refusal :=
  isa (checked (f.enc 0x186) (shapeOf (f.enc 0x186)) (astzM (f.enc 0x186))) s

/-- CVTQ, W form (R285). -/
def execCvtqW (f : WForm) (s : State) : Host.Outcome State Fault Refusal :=
  isa (checked (f.enc 0x187) (shapeOf (f.enc 0x187)) (cvtqM (f.enc 0x187))) s

/-- CVTQ, L form (R285). -/
def execCvtqL (f : LForm) (s : State) : Host.Outcome State Fault Refusal :=
  isa (checked (f.enc 0x187) (shapeOf (f.enc 0x187)) (cvtqM (f.enc 0x187))) s

/-- DQ, W form (R286). -/
def execDqW (f : WForm) (s : State) : Host.Outcome State Fault Refusal :=
  isa (checked (f.enc 0x188) (shapeOf (f.enc 0x188)) (dqM (f.enc 0x188))) s

/-- DQ, L form (R286). -/
def execDqL (f : LForm) (s : State) : Host.Outcome State Fault Refusal :=
  isa (checked (f.enc 0x188) (shapeOf (f.enc 0x188)) (dqM (f.enc 0x188))) s

/-- TCHK, W form (R287). -/
def execTchkW (f : WForm) (s : State) : Host.Outcome State Fault Refusal :=
  isa (checked (f.enc 0x189) (shapeOf (f.enc 0x189)) (tchkM (f.enc 0x189))) s

/-- TCHK, L form (R287). -/
def execTchkL (f : LForm) (s : State) : Host.Outcome State Fault Refusal :=
  isa (checked (f.enc 0x189) (shapeOf (f.enc 0x189)) (tchkM (f.enc 0x189))) s

end Sys2Proof.Machine
end

