-- ==== Sys2Proof/Machine/Coord.lean ====
section
/-! DEFINITION. The coordinate engine (R289 to R295, R311, R312): streams and their next coordinates, the cursor instructions, and the
step CURSOR_STEP. -/

namespace Sys2Proof.Machine

/-! ### Streams (R289) -/

/-- Bytes of a unit by encoding. -/
def unitBytes (enc : Nat) : Nat := [4, 2, 8].getD enc 4

/-- What reading stream bytes gives. -/
inductive StreamUnit where
  | ok (v : Nat)
  | fault (va cause level : Nat)
  | object (slot extent : Nat)
  /-- A read error, with the trap code it would be in an instruction. -/
  | error (code : Nat)
  deriving DecidableEq, Repr

/-- Who reads: the context, its cluster, and what a wait ended in an error leaves. -/
structure Reader where
  d : Dev
  x : Ctx
  cluster : Nat
  carry : Carry
  lost : Bool
  deriving DecidableEq, Repr

/-- Bytes read at home at an address, of the first slot or space `base` names (R289, R311). -/
def Mach.readUnit (m : Mach) (r : Reader) (base a n : Nat) : StreamUnit :=
  if kindOf a ≠ kindOf base ∨ kindOf a = 1 ∨ (kindOf a = 2 ∧ slotOf a ≠ slotOf base) then .error 4
  else
    match m.deref r.d r.x r.cluster r.carry ⟨n, 1, 1, false, false, true⟩ a none none with
    | .ok acc => .ok (leNat (m.engineRead (r.x.key r.d) acc.runs))
    | .fault va c l _ => .fault va c l
    | .object s e => if r.lost then .error 22 else .object s e
    | .lookup s => if r.lost then .error 22 else .object s 0
    | .trap _ code _ => .error code

/-- The next coordinate of a stream. -/
inductive Next where
  /-- The coordinate, and the unit that follows it. -/
  | coord (c unit : Nat)
  | ended
  | unsorted (v : Nat)
  | fault (va cause level : Nat)
  | object (slot extent : Nat)
  | error (code : Nat)
  deriving DecidableEq, Repr

def StreamUnit.next (u : StreamUnit) (h : Nat → Next) : Next :=
  match u with
  | .ok v => h v
  | .fault va c l => .fault va c l
  | .object s e => .object s e
  | .error code => .error code

def CurStream.addr (s : CurStream) (u : Nat) : Nat := (s.base + unitBytes s.enc * u) % 2 ^ 64

/-- The lowest set bit at or above `lo` of a 64-bit word. -/
def lowBit (w lo : Nat) : Option Nat := (List.range 64).find? fun i => lo ≤ i && bitOf w i

/-- The first set bit of a BM64 stream's remaining units at or above its floor; the number bounds the units looked at. -/
def Mach.nextBit (m : Mach) (r : Reader) (s : CurStream) : Nat → Nat → Next
  | 0, _ => .ended
  | n + 1, u =>
    if s.stop ≤ u then .ended
    else
      let base := s.floor0 + 64 * (u - s.start)
      (m.readUnit r s.base (s.addr u) 8).next fun w =>
        match lowBit w (s.floor - base) with
        | some i => .coord (base + i) u
        | none => Mach.nextBit m r s n (u + 1)

/-- The next coordinate (R289, R312); an entry is read only when it is needed. `sorted` asks for the check of IX32. -/
def Mach.nextCoord (m : Mach) (r : Reader) (sorted : Bool) (s : CurStream) : Next :=
  if s.stop ≤ s.unit then .ended
  else
    match s.enc with
    | 0 =>
      (m.readUnit r s.base (s.addr s.unit) 4).next fun c => if sorted && decide (c < s.floor) then .unsorted c else .coord c (s.unit + 1)
    | 1 =>
      let give := fun (d u : Nat) =>
        if d = 0 ∨ 0xFFFFFFFF < s.floor + d - 1 then Next.unsorted ((s.floor + d + (2 ^ 32 - 1)) % 2 ^ 32) else .coord (s.floor + d - 1) u
      (m.readUnit r s.base (s.addr s.unit) 2).next fun d =>
        if d ≠ 0 then give d (s.unit + 1)
        else if s.stop ≤ s.unit + 2 then give 0 (s.unit + 3)
        else (m.readUnit r s.base (s.addr (s.unit + 1)) 4).next fun d => give d (s.unit + 3)
    | _ => m.nextBit r s (s.stop - s.unit) s.unit

/-- A stream past a coordinate. -/
def CurStream.pass (s : CurStream) (c unit : Nat) : CurStream := { s with unit := unit, floor := c + 1, ord := (s.ord + 1) % 2 ^ 32 }

/-! ### Descriptors and saved states (R290, R293) -/

def streamOf (w off enc skip : Nat) : CurStream :=
  let f := fun (k : Nat) => w / 2 ^ (off + k) % 2 ^ 32
  { enc := enc, base := w / 2 ^ (off + 128) % 2 ^ 64, start := f 64, stop := f 96, skip := skip, floor0 := f 0, unit := f 64
    floor := f 0 + skip, ord := f 32 }

def CurStream.formOk (s : CurStream) : Bool :=
  s.enc != 3 && decide (s.start ≤ s.stop) && s.base % unitBytes s.enc == 0 && (s.enc == 2 || s.skip == 0)
    && !(s.enc == 2 && decide (s.start < s.stop) && decide (2 ^ 32 < s.floor0 + 64 * (s.stop - s.start)))

/-- An OPEN cursor on a descriptor; none where R290 calls for CURSOR_FORM. -/
def openCursor (n desc w : Nat) : Option Cursor :=
  let entry := bitsOf w 511 448
  let a := streamOf w 0 (bitsOf w 401 400) (bitsOf w 389 384)
  let b := streamOf w 192 (bitsOf w 403 402) (bitsOf w 397 392)
  if bitsOf w 415 405 ≠ 0 ∨ bitsOf w 399 398 ≠ 0 ∨ bitsOf w 391 390 ≠ 0 ∨ !a.formOk ∨ !b.formOk ∨ 2 ^ 57 ≤ entry ∨ entry % 8 ≠ 0 then none
  else
    some
      { n := n, by_ := [], state := 1, desc := desc, raw := BitVec.ofNat 512 w, entry := entry, tag := BitVec.ofNat 32 (bitsOf w 447 416)
        merge := bitOf w 404, a := a, b := b, fstream := false, rep := false, gerr := false, emitted := 0, gauge := none, offending := 0
        previous := 0, wait := [], errorPage := none, want := none, lost := false }

/-- The 32 bytes that CESAVE writes. -/
def Cursor.word (h : Cursor) : Nat :=
  b2n h.gerr + 2 ^ 8 * h.state + 2 ^ 11 * b2n h.rep + 2 ^ 12 * b2n h.fstream + 2 ^ 13 * (h.desc / 64 % 2 ^ 51)
    + 2 ^ 64 * (h.a.unit % 2 ^ 32) + 2 ^ 96 * h.a.ord + 2 ^ 128 * (h.a.floor % 2 ^ 32)
    + 2 ^ 160 * (h.b.unit % 2 ^ 32) + 2 ^ 192 * h.b.ord + 2 ^ 224 * (h.b.floor % 2 ^ 32)

/-- A cursor with the units, ordinals and floors of a saved state; none where a unit lies outside its stream. -/
def Cursor.restore (h : Cursor) (w : Nat) : Option Cursor :=
  let f := fun (k : Nat) => w / 2 ^ k % 2 ^ 32
  let inside := fun (s : CurStream) (u : Nat) => decide (s.start ≤ u) && decide (u ≤ s.stop)
  if !inside h.a (f 64) ∨ !inside h.b (f 160) then none
  else
    some { h with
      a := { h.a with unit := f 64, ord := f 96, floor := f 128 }
      b := { h.b with unit := f 160, ord := f 192, floor := f 224 } }

def Crew.cursor (c : Crew) (n : Nat) : Option Cursor := c.cursors.find? fun h => h.n == n

def Mach.setCursor (m : Mach) (crew : Nat) (h : Cursor) : Mach :=
  m.updCrew crew fun c => { c with cursors := putBy (fun g => g.n == h.n) h c.cursors }

def Mach.cursorsOf (m : Mach) (core : Nat) : Nat :=
  (m.crews.filter fun c => c.core == core).foldl (fun n c => n + c.cursors.length) 0

/-- Running or stalled. -/
def Cursor.live (h : Cursor) : Bool := h.state == 2 || h.state == 3

/-- A cursor stopped at a pair boundary, left OPEN (R293). -/
def Cursor.halt (h : Cursor) : Cursor := if h.live then { h with state := 1, wait := [], want := none, lost := false } else h

/-! ### The cursor instructions -/

def cursorNo (e : Enc) : Nat := e.m 62 61

/-- A report of R292 not yet made is made by the first instruction that names the cursor, which has no other effect. -/
def reported (e : Enc) (F : Fibre → Env → Mach → Mach) : Env → Mach → Mach :=
  lowest e fun f E m =>
    match E.c.cursor (cursorNo e) with
    | some h =>
      if (h.state = 5 ∨ h.state = 6) ∧ !h.rep then
        let m1 := m.setCursor E.c.id { h with rep := true }
        if h.state = 5 then trapAct e E m1 34 (h.offending.toNat + 2 ^ 32 * h.previous.toNat)
        else trapAct e E m1 35 (actMask e E)
      else F f E m
    | none => F f E m

/-- A range whose address form comes first, then the alignment that the entry asks for with its own trap. -/
def Mach.alignedRange (m : Mach) (E : Env) (f : Fibre) (w : Want) (a align : Nat) : LaneRes :=
  if kindOf a = 1 then .trap 20 4 0
  else
    match m.engineRange E f w a with
    | .trap 20 c i => .trap 20 c i
    | .trap 21 c i => .trap 21 c i
    | r => if a % align ≠ 0 then .trap 22 33 0 else r

/-- Whether a cursor name holds a state or can take one (R249, R289). -/
def cursorRoom (m : Mach) (E : Env) (n : Nat) : Bool := (E.c.cursor n).isSome || decide (m.cursorsOf E.c.core < Config.cursorStates)

def readWant (n : Nat) : Want := ⟨n, 1, 1, false, false, true⟩

def ceopenM (e : Enc) : Env → Mach → Mach :=
  reported e fun f E m =>
    if !cursorRoom m E (cursorNo e) then m.stall E.c.id E.g.id
    else
      let r := m.alignedRange E f (readWant 64) (f.val e.va 2) 64
      match r with
      | .ok a =>
        match openCursor (cursorNo e) a.va (leNat (m.engineRead E.key a.runs)) with
        | none => trapAct e E m 33 (actMask e E)
        | some h => collect e [r] (fun m => (m.touchSlots E.x.addr [(f, a)]).setCursor E.c.id h) E m
      | _ => collect e [r] id E m

def cerunM (e : Enc) : Env → Mach → Mach :=
  reported e fun f E m =>
    let answer := fun (v : Bool) (m : Mach) => m.pendPreds E true e.vd ((E.act e).map fun g => (g, v))
    match E.c.cursor (cursorNo e) with
    | some h =>
      if h.state = 1 then
        collect e [gaugeCheck (e.mb 60) E e f]
          (fun m => answer true (m.setCursor E.c.id
            { h with state := 2, emitted := 0, gauge := gaugeAt (e.mb 60) E e f, by_ := (E.act e).map (·.slot) })) E m
      else done e E (answer false m)
    | none => done e E (answer false m)

def cesaveM (e : Enc) : Env → Mach → Mach :=
  lowest e fun f E m =>
    let a := wrap 64 ((f.val e.va 2 : Int) + dispOf e)
    let r := m.alignedRange E f (writeWant 32) a 32
    let h := (E.c.cursor (cursorNo e)).map Cursor.halt
    collect e [r]
      (fun m =>
        let m1 := match h with | some h => m.setCursor E.c.id h | none => m
        let m2 := m1.engineWrite E.key (runLocs (accOf r).runs) (leBytes 32 ((h.map Cursor.word).getD 0))
        match (accOf r).object with
        | some (s, off) => m2.noteWritten E.d E.x.addr s off 32
        | none => m2) E m

def celoadM (e : Enc) : Env → Mach → Mach :=
  reported e fun f E m =>
    if !cursorRoom m E (cursorNo e) then m.stall E.c.id E.g.id
    else
      let a := wrap 64 ((f.val e.va 2 : Int) + dispOf e)
      let r := m.alignedRange E f (readWant 32) a 32
      match r with
      | .ok sa =>
        let w := leNat (m.engineRead E.key sa.runs)
        let desc := bitsOf w 63 13 * 64
        let q := m.engineRange E f (readWant 64) desc
        let saved := bitsOf w 10 8
        if bitsOf w 7 1 ≠ 0 ∨ saved = 0 ∨ saved = 7 then trapAct e E m 33 (actMask e E)
        else
          match q with
          | .ok da =>
            match (openCursor (cursorNo e) desc (leNat (m.engineRead E.key da.runs))).bind fun h => h.restore w with
            | none => trapAct e E m 33 (actMask e E)
            | some h => collect e [r, q] (fun m => m.setCursor E.c.id { h with state := if saved = 4 then 4 else 1 }) E m
          | _ => collect e [r, q] id E m
      | _ => collect e [r] id E m

def cestatM (e : Enc) : Env → Mach → Mach :=
  lowest e fun _ E m =>
    let v := match E.c.cursor (cursorNo e) with
      | some h =>
        h.state + 8 * b2n h.fstream + 16 * b2n h.gerr + 32 * b2n h.rep + 2 ^ 32 * h.a.ord + 2 ^ 64 * h.b.ord
          + 2 ^ 96 * (h.emitted % 2 ^ 32)
      | none => 0
    done e E (m.pendLanes E true e.vd 4 ((E.act e).map fun g => (g, v)))

def cecloseM (e : Enc) : Env → Mach → Mach :=
  reported e fun _ E m =>
    done e E (m.updCrew E.c.id fun c => { c with cursors := c.cursors.filter fun h => h.n != cursorNo e })

/-! ### CESPLIT (R294) -/

/-- An entry that remains: its coordinate, and the unit, ordinal and floor before it. -/
structure Entry where
  c : Nat
  unit : Nat
  ord : Nat
  floor : Nat
  deriving DecidableEq, Repr

/-- Every remaining entry of a stream and the stream after them, or why it cannot be read; the number bounds the entries. -/
def Mach.scan (m : Mach) (r : Reader) (sorted : Bool) : Nat → CurStream → (List Entry × CurStream) ⊕ (Next × CurStream)
  | 0, s => .inl ([], s)
  | n + 1, s =>
    match m.nextCoord r sorted s with
    | .ended => .inl ([], if s.enc = 2 then { s with unit := s.stop } else s)
    | .coord c u =>
      match Mach.scan m r sorted n (s.pass c u) with
      | .inl (l, t) => .inl (⟨c, if s.enc = 2 then u else s.unit, s.ord, s.floor⟩ :: l, t)
      | z => z
    | z => .inr (z, s)

def CurStream.bound (s : CurStream) : Nat := (s.stop - s.unit) * (if s.enc = 2 then 64 else 1) + 1

/-- The base coordinate of a unit of a BM64 stream. -/
def CurStream.baseOf (s : CurStream) (u : Nat) : Nat := s.floor0 + 64 * (u - s.start)

/-- The greatest base coordinate of a remaining unit not above `v`. -/
def CurStream.baseBelow (s : CurStream) (v : Nat) : Option Nat :=
  if v < s.baseOf s.unit ∨ s.stop ≤ s.unit then none
  else some (s.baseOf (min (s.start + (v - s.floor0) / 64) (s.stop - 1)))

/-- A split coordinate lowered to a unit boundary of every BM64 stream, or to the smaller floor (R294). -/
def lowered (a b : CurStream) (v : Nat) : Nat :=
  let low := min a.floor b.floor
  let base := match (if a.enc = 2 then some (a.baseBelow v) else none), (if b.enc = 2 then some (b.baseBelow v) else none) with
    | some (some x), some (some y) =>
      let z := min x y
      if x % 64 = y % 64 ∧ a.baseOf a.unit ≤ z ∧ b.baseOf b.unit ≤ z then z else low
    | some (some x), none => x
    | none, some (some y) => y
    | _, _ => low
  if (a.enc ≠ 2 ∧ b.enc ≠ 2) ∨ v ≤ low then v else max low base

/-- Entries before the first that reaches a coordinate. -/
def entriesBelow (l : List Entry) (v : Nat) : Nat := (l.takeWhile fun x => x.c < v).length

/-- One stream's part of a descriptor, of the coordinates from `lo` up to `hi` (the stream's end where there is none), which hold the
entries from i up to j: floor, ordinal, start, end and skip. Where `lo` or `hi` is not above the current floor a BM64 stream's part
starts or ends at the unit where the cursor stands. -/
def partOf (s : CurStream) (l : List Entry) (after : CurStream) (lo : Nat) (hi : Option Nat) (i j : Nat) : Nat × Nat × Nat × Nat × Nat :=
  let here := min (max s.unit (s.start + (s.floor - s.floor0) / 64)) s.stop
  let reach := match l[j]? with | some x => x.unit | none => after.unit
  let stop := if s.enc = 2 ∧ (hi.any fun v => decide (v ≤ s.floor)) then here else reach
  let at_ := match l[i]? with | some x => x | none => ⟨0, after.unit, after.ord, after.floor⟩
  if s.enc = 2 then
    let unit := if lo ≤ s.floor then here else at_.unit
    let c := if lo ≤ s.floor then some s.floor else (l[i]?).map (·.c)
    let base := s.baseOf unit
    (base, at_.ord, unit, stop, match c with | some v => if unit < stop then v - base else 0 | none => 0)
  else (at_.floor, at_.ord, at_.unit, stop, 0)

/-- A field of a descriptor replaced. -/
def putField (w lo len v : Nat) : Nat := w - w / 2 ^ lo % 2 ^ len * 2 ^ lo + v % 2 ^ len * 2 ^ lo

def putPart (w off skipLo : Nat) (p : Nat × Nat × Nat × Nat × Nat) : Nat :=
  putField (putField (putField (putField (putField w off 32 p.1) (off + 32) 32 p.2.1) (off + 64) 32 p.2.2.1) (off + 96) 32 p.2.2.2.1)
    skipLo 6 p.2.2.2.2

/-- The k descriptors. -/
def splitTable (h : Cursor) (la lb : List Entry) (ea eb : CurStream) (k : Nat) : List Byte :=
  let all := (la ++ lb).map (·.c) |>.insertionSort (· ≤ ·)
  let cuts := (List.range (k - 1)).foldl
    (fun (l : List (Nat × Nat × Nat)) i =>
      let last := l.getLastD (0, 0, 0)
      match all[(i + 1) * all.length / k]? with
      | some v =>
        let s := lowered h.a h.b v
        l ++ [(s, max last.2.1 (entriesBelow la s), max last.2.2 (entriesBelow lb s))]
      | none => l ++ [last]) [(0, 0, 0)]
  (List.range k).flatMap fun i =>
    let lo := cuts.getD i (0, 0, 0)
    let hi := cuts[i + 1]?
    let ends := (hi.map (·.2)).getD (la.length, lb.length)
    let w := putPart h.raw.toNat 0 384 (partOf h.a la ea lo.1 (hi.map (·.1)) lo.2.1 ends.1)
    leBytes 64 (putPart w 192 392 (partOf h.b lb eb lo.1 (hi.map (·.1)) lo.2.2 ends.2))

/-- What a stream that could not be read makes of the instruction. -/
def Next.res (z : Next) : LaneRes :=
  match z with
  | .fault va c l => .fault va c l 1
  | .object s e => .object s e
  | .error code => .trap 52 code 0
  | _ => .ok .none

/-! Two IX32 streams are divided by a search, without a check of floors (R294). -/

/-- The coordinate of the k-th remaining entry of an IX32 stream. -/
def Mach.entryAt (m : Mach) (r : Reader) (s : CurStream) (k : Nat) : Next := m.nextCoord r false { s with unit := s.unit + k }

/-- How many entries of `a` come before merged position `p`, an entry of `a` before an equal one of `b`: between `lo` and `hi`,
halving the interval at each turn (log entry 7). -/
def Mach.searchCut (m : Mach) (r : Reader) (a b : CurStream) (p : Nat) : Nat → Nat → Nat → Nat ⊕ Next
  | 0, lo, _ => .inl lo
  | n + 1, lo, hi =>
    if hi ≤ lo then .inl lo
    else
      let mid := (lo + hi) / 2
      match m.entryAt r a mid, m.entryAt r b (p - 1 - mid) with
      | .coord x _, .coord y _ => if x ≤ y then Mach.searchCut m r a b p n (mid + 1) hi else Mach.searchCut m r a b p n lo mid
      | .coord _ _, z => .inr z
      | z, _ => .inr z

/-- The floor of a part that starts at the k-th remaining entry: one more than the coordinate before it, or the current floor. -/
def Mach.floorAt (m : Mach) (r : Reader) (s : CurStream) (k : Nat) : Nat ⊕ Next :=
  if k = 0 then .inl s.floor
  else
    match m.entryAt r s (k - 1) with
    | .coord c _ => .inl (c + 1)
    | z => .inr z

/-- Whether the remaining entries that can be read are in order. -/
def inOrder : Nat → List Nat → Bool
  | _, [] => true
  | lo, c :: t => decide (lo ≤ c) && inOrder (c + 1) t

def Next.coordOf (z : Next) : Option (Nat × Nat) := match z with | .coord c u => some (c, u) | _ => none

def Mach.coords (m : Mach) (r : Reader) (s : CurStream) : List Nat :=
  (List.range (s.stop - s.unit)).filterMap fun k => (m.entryAt r s k).coordOf.map (·.1)

/-- Where the part that starts at merged position `p` starts in each stream, after `last`: equal coordinates stay in one part.
Where a stream is not in order the place is free (log entry 5). -/
def Mach.ixCut (m : Mach) (r : Reader) (h : Cursor) (p : Nat) (last : Nat × Nat) : (Nat × Nat) ⊕ Next :=
  let na := h.a.stop - h.a.unit
  let nb := h.b.stop - h.b.unit
  if !(inOrder h.a.floor (m.coords r h.a) && inOrder h.b.floor (m.coords r h.b)) then
    let x := h.raw.toNat + 2 ^ 512 * p
    let y := (m.coords r h.a ++ m.coords r h.b).foldl (fun v c => 2 ^ 32 * v + c) 0
    .inl (max last.1 ((Config.freeOf 294 x y).toNat % (na + 1)), max last.2 ((Config.freeOf 295 x y).toNat % (nb + 1)))
  else
    match m.searchCut r h.a h.b p 33 (p - nb) (min p na) with
    | .inr z => .inr z
    | .inl i =>
      let j := p - i
      if i = 0 ∨ nb ≤ j then .inl (i, j)
      else
        match m.entryAt r h.b j, m.entryAt r h.a (i - 1) with
        | .coord y _, .coord x _ => .inl (if x = y then i - 1 else i, j)
        | .coord _ _, z => .inr z
        | z, _ => .inr z

/-- The starts of the parts from the first, with their floors; none of it where an entry cannot be read. -/
def Mach.ixCuts (m : Mach) (r : Reader) (h : Cursor) (k : Nat) : Nat → (List (Nat × Nat × Nat × Nat)) ⊕ Next
  | 0 => .inl [(0, h.a.floor, 0, h.b.floor)]
  | n + 1 =>
    match Mach.ixCuts m r h k n with
    | .inr z => .inr z
    | .inl l =>
      let last := l.getLastD (0, 0, 0, 0)
      match m.ixCut r h ((n + 1) * (h.a.stop - h.a.unit + (h.b.stop - h.b.unit)) / k) (last.1, last.2.2.1) with
      | .inr z => .inr z
      | .inl (i, j) =>
        match m.floorAt r h.a i, m.floorAt r h.b j with
        | .inl f, .inl g => .inl (l ++ [(i, f, j, g)])
        | .inr z, _ => .inr z
        | _, .inr z => .inr z

/-- The k descriptors of a cursor on two IX32 streams. -/
def Mach.ixTable (m : Mach) (r : Reader) (h : Cursor) (k : Nat) : List Byte ⊕ Next :=
  match m.ixCuts r h k (k - 1) with
  | .inr z => .inr z
  | .inl l =>
    let ends := l.tail.map (fun c => (c.1, c.2.2.1)) ++ [(h.a.stop - h.a.unit, h.b.stop - h.b.unit)]
    .inl ((l.zip ends).flatMap fun c =>
      let part := fun (s : CurStream) (i f j : Nat) => (f, (s.ord + i) % 2 ^ 32, s.unit + i, s.unit + j, 0)
      leBytes 64 (putPart (putPart h.raw.toNat 0 384 (part h.a c.1.1 c.1.2.1 c.2.1)) 192 392 (part h.b c.1.2.2.1 c.1.2.2.2 c.2.2)))

def cesplitM (e : Enc) : Env → Mach → Mach :=
  reported e fun f E m =>
    let k := b32At e f
    let a := f.val e.va 2
    match E.c.cursor (cursorNo e) with
    | none => trapAct e E m 33 (actMask e E)
    | some h =>
      if h.state ≠ 1 ∨ k < 1 ∨ 64 < k ∨ a % 64 ≠ 0 then trapAct e E m 33 (actMask e E)
      else
        let r : Reader := ⟨E.d, E.x, E.cluster, f.carry, false⟩
        let dst := if kindOf a = 1 then LaneRes.trap 20 4 0 else m.engineRange E f (writeWant (64 * k)) a
        let give := fun (table : List Byte) =>
          collect e [dst]
            (fun m =>
              let m1 := m.engineWrite E.key (runLocs (accOf dst).runs) table
              match (accOf dst).object with
              | some (s, off) => m1.noteWritten E.d E.x.addr s off (64 * k)
              | none => m1) E m
        let unsorted := fun (v : Nat) (s : CurStream) => trapAct e E m 34 (v + 2 ^ 32 * ((s.floor + 2 ^ 32 - 1) % 2 ^ 32))
        if h.a.enc = 0 ∧ h.b.enc = 0 then
          match m.ixTable r h k with
          | .inl table => give table
          | .inr z => collect e [dst, z.res] id E m
        else
          match m.scan r true h.a.bound h.a, m.scan r true h.b.bound h.b with
          | .inr (.unsorted v, s), _ => unsorted v s
          | .inr (z, _), _ => collect e [dst, z.res] id E m
          | .inl _, .inr (.unsorted v, s) => unsorted v s
          | .inl _, .inr (z, _) => collect e [dst, z.res] id E m
          | .inl (la, ea), .inl (lb, eb) => give (splitTable h la lb ea eb k)

/-! ### Running (R291, R292) -/

/-- What one turn of the loop of R291 does. -/
inductive Turn where
  | advance (h : Cursor)
  | emit (c ao bo : Nat) (h : Cursor)
  | ended
  | stop (z : Next) (b : Bool) (h : Cursor)

def Next.blocked (z : Next) : Bool := match z with | .coord .. => false | .ended => false | _ => true

def Mach.turn (m : Mach) (r : Reader) (h : Cursor) : Turn :=
  let a := m.nextCoord r true h.a
  if a.blocked then .stop a false h
  else if !h.merge && a == .ended then .ended
  else
    let b := m.nextCoord r true h.b
    if b.blocked then .stop b true h
    else
      let none32 := 0xFFFFFFFF
      match a.coordOf, b.coordOf with
      | none, none => .ended
      | some (c, u), none => if h.merge then .emit c h.a.ord none32 { h with a := h.a.pass c u } else .ended
      | none, some (c, u) => if h.merge then .emit c none32 h.b.ord { h with b := h.b.pass c u } else .ended
      | some (c, u), some (c', u') =>
        if c = c' then .emit c h.a.ord h.b.ord { h with a := h.a.pass c u, b := h.b.pass c' u' }
        else if c < c' then
          (if h.merge then .emit c h.a.ord none32 { h with a := h.a.pass c u } else .advance { h with a := h.a.pass c u })
        else if h.merge then .emit c' none32 h.b.ord { h with b := h.b.pass c' u' } else .advance { h with b := h.b.pass c' u' }

/-- A cursor's run ends: its arrival (R291, R292), and gerr where the gauge is not valid (R113). -/
def Mach.endCursor (m : Mach) (crew : Nat) (h : Cursor) (state : Nat) : Mach :=
  let h1 := { h with state := state, rep := false, wait := [], want := none, lost := false, errorPage := none }
  match h.gauge with
  | none => m.setCursor crew h1
  | some a =>
    let r := m.arrive a 1 0 (state != 4)
    r.1.setCursor crew { h1 with gerr := h1.gerr || !r.2 }

/-- CURSOR_STEP: one turn of a cursor's loop. -/
def cursorStep (d : Dev) (crew n : Nat) (m : Mach) : Mach :=
  match m.crew crew with
  | none => m
  | some c =>
    match c.cursor n with
    | none => m
    | some h =>
      if !h.live || h.wait != [] || c.preempted || c.stopped then m
      else
        let x := (m.ctx c.ctx).askedBy (engineAsker crew 2 n)
        match m.turn ⟨d, x, c.core / 4, ⟨none, h.errorPage⟩, h.lost⟩ h with
        | .ended => m.endCursor crew h 4
        | .advance h' => m.setCursor crew { h' with state := 2, want := none, lost := false, errorPage := none }
        | .emit co ao bo h' =>
          let l := m.launch c.launch
          match c.placeFibre (m.clock c.core) (m.clock c.core + springClocks l) h.entry
              [h.tag, BitVec.ofNat 32 co, BitVec.ofNat 32 ao, BitVec.ofNat 32 bo] with
          | none => m.setCursor crew { h with state := 3 }
          | some c' =>
            let m1 := m.updCrew crew fun _ => c'
            (m1.setCursor crew
              { h' with state := 2, emitted := h.emitted + 1, want := none, lost := false, errorPage := none }).launchBins crew 16
        | .stop (.unsorted v) b h' =>
          let s := if b then h'.b else h'.a
          m.endCursor crew { h' with
            fstream := b, offending := BitVec.ofNat 32 v, previous := BitVec.ofNat 32 ((s.floor + 2 ^ 32 - 1) % 2 ^ 32) } 5
        | .stop (.fault va cause level) _ h' =>
          let r := m.raiseFault d x c.core (.cursor crew n) va cause level 1
          r.1.setCursor crew { h' with state := 3, wait := [r.2] }
        | .stop (.object s ext) _ h' => (m.waitSlot d c.ctx s ext []).setCursor crew { h' with state := 3, want := some s }
        | .stop _ _ h' => m.endCursor crew h' 6

/-- CEOPEN, W form (R290). -/
def execCeopen (f : WForm) (s : State) : Host.Outcome State Fault Refusal :=
  isa (checked (f.enc 0x1C0) (shapeOf (f.enc 0x1C0)) (ceopenM (f.enc 0x1C0))) s

/-- CERUN, W form (R291). -/
def execCerun (f : WForm) (s : State) : Host.Outcome State Fault Refusal :=
  isa (checked (f.enc 0x1C1) (shapeOf (f.enc 0x1C1)) (cerunM (f.enc 0x1C1))) s

/-- CESPLIT, W form (R294). -/
def execCesplit (f : WForm) (s : State) : Host.Outcome State Fault Refusal :=
  isa (checked (f.enc 0x1C2) (shapeOf (f.enc 0x1C2)) (cesplitM (f.enc 0x1C2))) s

/-- CESAVE, W form (R293). -/
def execCesaveW (f : WForm) (s : State) : Host.Outcome State Fault Refusal :=
  isa (checked (f.enc 0x1C3) (shapeOf (f.enc 0x1C3)) (cesaveM (f.enc 0x1C3))) s

/-- CESAVE, L form (R293). -/
def execCesaveL (f : LForm) (s : State) : Host.Outcome State Fault Refusal :=
  isa (checked (f.enc 0x1C3) (shapeOf (f.enc 0x1C3)) (cesaveM (f.enc 0x1C3))) s

/-- CELOAD, W form (R293). -/
def execCeloadW (f : WForm) (s : State) : Host.Outcome State Fault Refusal :=
  isa (checked (f.enc 0x1C4) (shapeOf (f.enc 0x1C4)) (celoadM (f.enc 0x1C4))) s

/-- CELOAD, L form (R293). -/
def execCeloadL (f : LForm) (s : State) : Host.Outcome State Fault Refusal :=
  isa (checked (f.enc 0x1C4) (shapeOf (f.enc 0x1C4)) (celoadM (f.enc 0x1C4))) s

/-- CESTAT, W form (R293). -/
def execCestat (f : WForm) (s : State) : Host.Outcome State Fault Refusal :=
  isa (checked (f.enc 0x1C5) (shapeOf (f.enc 0x1C5)) (cestatM (f.enc 0x1C5))) s

/-- CECLOSE, W form (R293). -/
def execCeclose (f : WForm) (s : State) : Host.Outcome State Fault Refusal :=
  isa (checked (f.enc 0x1C6) (shapeOf (f.enc 0x1C6)) (cecloseM (f.enc 0x1C6))) s

/-- CURSOR_STEP (R291, R292). -/
def execCursorStep (s : State) : Host.Outcome State Fault Refusal :=
  match s.arg with
  | .cursorStep crew n => .next { s with m := cursorStep s.dev crew n.toNat s.m }
  | _ => .refused .noOperands

end Sys2Proof.Machine
end

