-- ==== Sys2Proof/Machine/Binning.lean ====
section
/-! DEFINITION. The binning engine (R296 to R299): its descriptor, BINIT, BAPP, BREPLAY, BSTAT, and the step BIN_REPLAY_REGION. -/

namespace Sys2Proof.Machine

/-! ### The descriptor (R296) -/

def bSoff (w : Nat) : Nat := w % 2 ^ 32
def bRlog (w : Nat) : Nat := bitsOf w 36 32
def bOp (w : Nat) : Nat := bitsOf w 41 40
def bType (w : Nat) : ETy := [ETy.s32, .n32, .f32, .b32].getD (bitsOf w 43 42) .b32
def bCount (w : Nat) : Nat := bitsOf w 95 64
def bBytes (w : Nat) : Nat := bitsOf w 127 96
def bTarget (w : Nat) : Nat := bitsOf w 191 128
def bBins (w : Nat) : Nat := bitsOf w 255 192

/-- Regions, and pairs that one region's bin holds. -/
def bRegions (w : Nat) : Nat := (bCount w + 2 ^ bRlog w - 1) / 2 ^ bRlog w
def bPairs (w : Nat) : Nat := if bRegions w = 0 then 0 else bBytes w / (8 * bRegions w)

/-- Whether BINIT accepts a descriptor (R296). An exact 0 elements has no region that could hold too few pairs. A scratchpad offset that
is not a multiple of 128 is refused with the rest, BINNING_FORM (log entry 83). -/
def binOk (c : Crew) (w : Nat) : Bool :=
  bitsOf w 63 44 == 0 && bitsOf w 39 37 == 0 && decide (4 ≤ bRlog w) && decide (bRlog w ≤ 16) && bSoff w % 128 == 0
    && decide (bBins w < 2 ^ 57) && bBins w % 64 == 0 && bTarget w % 4 == 0 && bBytes w % 64 == 0
    && (bRegions w == 0 || decide (1 ≤ bPairs w)) && decide (bSoff w + 2 ^ bRlog w * 4 ≤ c.scrSize)

/-- A context as BINIT sets it. -/
def Binning.start (w : BitVec 256) : Binning :=
  { by_ := [], desc := w, state := 1, code := 0, pairs := [], region := 0, limit := 0, gauge := none, wait := []
    errorPage := none, want := none, lost := false }

def Mach.setBinning (m : Mach) (crew : Nat) (b : Binning) : Mach := m.updCrew crew fun c => { c with binning := some b }

/-- A replay begun: of every pair received so far, from region 0 on (R298). -/
def Binning.replay (b : Binning) (by_ : List Nat) (gauge : Option Nat) : Binning :=
  { b with by_ := by_, state := 2, region := 0, limit := b.pairs.length, gauge := gauge }

/-! ### Operations on an element (R298) -/

/-- Order of two bit patterns at an integer type. -/
def intLess (t : ETy) (a b : Nat) : Bool := decide (extAt t a < extAt t b)

/-- One pair's operation on the old element. -/
def binApply (op : Nat) (t : ETy) (old v : Nat) : Nat :=
  match op with
  | 0 => if t = .f32 then (fmt32.round ⟨0, false, false⟩ (Num.add false (fmt32.decode old) (fmt32.decode v)) 0).1 else (old + v) % 2 ^ 32
  | 1 => if t = .f32 then fltMinMax fmt32 false old v else if intLess t v old then v else old
  | 2 => if t = .f32 then fltMinMax fmt32 true old v else if intLess t old v then v else old
  | _ => v

/-! ### One region (R297, R298) -/

/-- What a replay of a region comes to. -/
inductive Replay where
  | done (m : Mach)
  | fault (va cause level access : Nat)
  | object (slot extent : Nat)
  | error (code : Nat)

/-- Bytes of a region's elements. -/
def regionBytes (w g : Nat) : Nat := 4 * (min (bCount w) ((g + 1) * 2 ^ bRlog w) - g * 2 ^ bRlog w)

/-- A region loaded into the buffer, its pairs applied in order, and the region written back at home (R298 steps 1 to 3). -/
def Mach.replayRegion (m : Mach) (d : Dev) (c : Crew) (b : Binning) (g : Nat) (pairs : List (Nat × Word)) : Replay :=
  let x := (m.ctx c.ctx).askedBy (engineAsker c.id 3 0)
  let w := b.desc.toNat
  let a := (bTarget w + 4 * g * 2 ^ bRlog w) % 2 ^ 64
  let len := regionBytes w g
  if kindOf a ≠ kindOf (bTarget w) ∨ kindOf a = 1 ∨ (kindOf a = 2 ∧ slotOf a ≠ slotOf (bTarget w)) then .error 1
  else
    match m.deref d x (c.core / 4) ⟨none, b.errorPage⟩ ⟨len, 3, 1, false, false, true⟩ a none none with
    | .trap _ code _ => .error (sideStatus code)
    | .fault va cc l acc => .fault va cc l acc
    | .object s e => if b.lost then .error 5 else .object s e
    | .lookup s => if b.lost then .error 5 else .object s 0
    | .ok acc =>
      let k := x.key d
      let old := m.engineRead k acc.runs
      let words := (List.range (len / 4)).map fun i => leNat ((old.drop (4 * i)).take 4)
      let new := pairs.foldl
        (fun (l : List Nat) p => l.modify (p.1 - g * 2 ^ bRlog w) fun v => binApply (bOp w) (bType w) v p.2.toNat) words
      let bytes := new.flatMap (leBytes 4)
      -- the region buffer holds the region as it was written back
      let m1 := m.engineWrite k ((List.range len).map fun i => ⟨.scr, c.core * 2 ^ 18 + c.scrBase + bSoff w + i⟩) bytes
      let m2 := m1.engineWrite k (runLocs acc.runs) bytes
      .done (match acc.object with | some (s, off) => m2.noteWritten d c.ctx s off len | none => m2)

def inRegion (w g : Nat) (p : Nat × Word) : Bool := p.1 / 2 ^ bRlog w == g

/-- A replay stops in ERROR, with the arrival that R264 and R298 ask for. -/
def Mach.binError (m : Mach) (crew : Nat) (b : Binning) (code : Nat) : Mach :=
  let m1 := match b.gauge with
    | some a => if b.state = 2 then (m.arrive a 1 0 true).1 else m
    | none => m
  m1.setBinning crew { b with state := 3, code := code, gauge := none, wait := [], want := none, lost := false }

/-- The replay's end: its arrival (R298, R299). -/
def Mach.binEnd (m : Mach) (crew : Nat) (b : Binning) : Mach :=
  let r := match b.gauge with
    | some a => m.arrive a 1 0 false
    | none => (m, true)
  r.1.setBinning crew { b with state := 1, gauge := none, limit := 0, region := 0, code := if r.2 then b.code else 9 }

/-- BIN_REPLAY_REGION: the next region of a replay that holds pairs, or the replay's end. -/
def binReplayRegion (d : Dev) (crew : Nat) (m : Mach) : Mach :=
  match m.crew crew with
  | none => m
  | some c =>
    match c.binning with
    | none => m
    | some b =>
      let w := b.desc.toNat
      if b.state ≠ 2 ∨ b.wait ≠ [] ∨ c.preempted ∨ c.stopped then m
      else if bRegions w ≤ b.region then m.binEnd crew b
      else
        let now := b.pairs.take b.limit
        let mine := now.filter (inRegion w b.region)
        let left := (now.filter fun p => !inRegion w b.region p) ++ b.pairs.drop b.limit
        let b1 := { b with
          pairs := left, limit := b.limit - mine.length, region := b.region + 1, want := none, lost := false, errorPage := none }
        if mine = [] then m.setBinning crew b1
        else
          match m.replayRegion d c b b.region mine with
          | .done m1 => m1.setBinning crew b1
          | .fault va cc l acc =>
            let r := m.raiseFault d (m.ctx c.ctx) c.core (.binning crew) va cc l acc
            r.1.setBinning crew { b with wait := [r.2] }
          | .object s e => (m.waitSlot d c.ctx s e []).setBinning crew { b with want := some s }
          | .error code => m.binError crew b code

/-! ### BINIT, BAPP, BREPLAY, BSTAT -/

/-- BINIT (R296): with pairs held it first replays them, and the gang goes on once the new context stands. -/
def binitM (e : Enc) : Env → Mach → Mach :=
  lowest e fun f E m =>
    let a := wrap 64 ((f.val e.va 2 : Int) + dispOf e)
    let busy := match E.c.binning with
      | some b => b.state == 2 || (b.state == 1 && b.pairs != [])
      | none => false
    let r := if kindOf a = 1 then LaneRes.trap 20 4 0 else m.engineRange E f (readWant 32) a
    match r with
    | .ok acc =>
      let w := leNat (m.engineRead E.key acc.runs)
      if !binOk E.c w then trapAct e E m 37 (actMask e E)
      else if busy then
        let m1 := match E.c.binning with
          | some b => if b.state = 1 then m.setBinning E.c.id (b.replay ((E.act e).map Fibre.slot) none) else m
          | none => m
        m1.stall E.c.id E.g.id
      else collect e [r] (fun m => m.setBinning E.c.id (Binning.start (BitVec.ofNat 256 w))) E m
    | _ => collect e [r] id E m

/-- One append (R297): a full bin's region is replayed first. -/
def Mach.binAppend (m : Mach) (d : Dev) (crew : Nat) (p : Nat × Word) : Mach × Option (LaneRes) :=
  match m.crew crew with
  | none => (m, none)
  | some c =>
    match c.binning with
    | none => (m, none)
    | some b =>
      let w := b.desc.toNat
      let g := p.1 / 2 ^ bRlog w
      let held := b.pairs.filter (inRegion w g)
      if held.length < bPairs w then (m.setBinning crew { b with pairs := b.pairs ++ [p] }, none)
      else
        match m.replayRegion d c b g held with
        | .done m1 =>
          let left := b.pairs.filter fun q => !inRegion w g q
          (m1.setBinning crew { b with
            pairs := left ++ [p], limit := ((b.pairs.take b.limit).filter fun q => !inRegion w g q).length, errorPage := none, want := none
            lost := false }, none)
        | .fault va cc l acc => (m, some (.fault va cc l acc))
        | .object s e => (m, some (.object s e))
        | .error code => (m.binError crew b code, none)

def Mach.binAppends (m : Mach) (d : Dev) (crew : Nat) : List (Nat × Word) → Mach × List (Nat × Word) × Option LaneRes
  | [] => (m, [], none)
  | p :: t =>
    match m.binAppend d crew p with
    | (m1, none) => Mach.binAppends m1 d crew t
    | (m1, some r) => (m1, p :: t, some r)

/-- BAPP (R297): vector in its operands, one order in the engine. A replay that an append needs may have to wait for a translation,
whose record names the engine (R374), or an object: the lanes whose pairs are not in yet park and append when they resume. -/
def bappM (e : Enc) (E : Env) (m : Mach) : Mach :=
  let act := E.act e
  match E.c.binning with
  | none => if act = [] then done e E m else trapAct e E m 38 (actMask e E)
  | some b =>
    if act = [] then done e E m
    else if b.state = 3 then trapAct e E m 38 (actMask e E)
    else
      let bad := act.filter fun f => bCount b.desc.toNat ≤ f.reg e.va
      if bad != [] then (trapLanes E m e 36 bad).tick E.c.core 1
      else
        let r := m.binAppends E.d E.c.id (act.map fun f => (f.reg e.va, BitVec.ofNat 32 (b32At e f)))
        match r.2.2 with
        | none => done e E (r.1.settleLanes E act)
        | some z =>
          let left := act.drop (act.length - r.2.1.length)
          let asked := match z with
            | .fault va cc l acc => (r.1.raiseFault E.d E.x E.c.core (.binning E.c.id) va cc l acc).1
            | _ => r.1
          if left.any fun f => f.carry.name.isSome then done e E (r.1.binError E.c.id (((r.1.crew E.c.id).bind (·.binning)).getD b) 5)
          else
            (byLanes e (act.map fun (f : Fibre) => (f, if left.any fun (g : Fibre) => g.slot == f.slot then z else .ok .none)) (fun _ m => m)
              (fun m => m.advance E e) E asked).tick E.c.core 1

/-- BREPLAY (R298). One that finds a replay in progress waits for it. -/
def breplayM (e : Enc) : Env → Mach → Mach :=
  lowest e fun f E m =>
    match E.c.binning with
    | none => trapAct e E m 38 (actMask e E)
    | some b =>
      if b.state = 3 then trapAct e E m 38 (actMask e E)
      else if b.state = 2 then m.stall E.c.id E.g.id
      else
        collect e [gaugeCheck (e.mb 62) E e f]
          (fun m => m.setBinning E.c.id (b.replay ((E.act e).map fun (q : Fibre) => q.slot) (gaugeAt (e.mb 62) E e f))) E m

/-- The BSTAT word (R299). -/
def Binning.word (b : Binning) : Nat := b.state * 2 ^ 61 + b.code % 32 * 2 ^ 56 + b.pairs.length % 2 ^ 32

def bstatM (e : Enc) : Env → Mach → Mach :=
  lowest e fun _ E m =>
    let v := match E.c.binning with | some b => b.word | none => 0
    done e E (m.pendLanes E true e.vd 2 ((E.act e).map fun g => (g, v)))

/-- BINIT, W form (R296). -/
def execBinitW (f : WForm) (s : State) : Host.Outcome State Fault Refusal :=
  isa (checked (f.enc 0x1D0) (shapeOf (f.enc 0x1D0)) (binitM (f.enc 0x1D0))) s

/-- BINIT, L form (R296). -/
def execBinitL (f : LForm) (s : State) : Host.Outcome State Fault Refusal :=
  isa (checked (f.enc 0x1D0) (shapeOf (f.enc 0x1D0)) (binitM (f.enc 0x1D0))) s

/-- BAPP, W form (R297). -/
def execBapp (f : WForm) (s : State) : Host.Outcome State Fault Refusal :=
  isa (checked (f.enc 0x1D1) (shapeOf (f.enc 0x1D1)) (bappM (f.enc 0x1D1))) s

/-- BREPLAY, W form (R298). -/
def execBreplay (f : WForm) (s : State) : Host.Outcome State Fault Refusal :=
  isa (checked (f.enc 0x1D2) (shapeOf (f.enc 0x1D2)) (breplayM (f.enc 0x1D2))) s

/-- BSTAT, W form (R299). -/
def execBstat (f : WForm) (s : State) : Host.Outcome State Fault Refusal :=
  isa (checked (f.enc 0x1D3) (shapeOf (f.enc 0x1D3)) (bstatM (f.enc 0x1D3))) s

/-- BIN_REPLAY_REGION (R298). -/
def execBinReplayRegion (s : State) : Host.Outcome State Fault Refusal :=
  match s.arg with
  | .binReplayRegion crew => .next { s with m := binReplayRegion s.dev crew s.m }
  | _ => .refused .noOperands

end Sys2Proof.Machine
end

