-- ==== Sys2Proof/Machine/Posts.lean ====
section
/-! DEFINITION. The steps of matrix posts: POST_GRANT and POST_AGE (R263), MATRIX_STEP (R273, R277, R279) and POST_DONE (R264), with the
work that each post other than an MMA does when it is done (R268, R278, R280 to R286). -/

namespace Sys2Proof.Machine

/-! ### Grants (R263) -/

def Post.cores (p : Post) : List Nat := coresOf p.core p.pair

def Post.isMma (p : Post) : Bool := match p.op with | .mma .. => true | _ => false

/-- Whether two posts name a common tile or slot. -/
def Post.shares (p q : Post) : Bool :=
  (p.cores.any q.cores.contains) && ((p.acc.isSome && p.acc == q.acc) || (p.sslot.isSome && p.sslot == q.sslot))

/-- Whether the crew of a post lets it start or step: not while the crew is pre-empted, nor once its launch has ended (R279, R357). -/
def Mach.postRuns (m : Mach) (p : Post) : Bool :=
  match m.crew p.crew with
  | some c => !c.preempted && !c.stopped
  | none => false

/-- Whether a page of host memory that a post uses has to be mapped again first (R395). -/
def Mach.postStale (m : Mach) (p : Post) : Bool :=
  match m.crew p.crew with
  | some c => p.op.reads.any (m.staleRun (m.ctx c.ctx).fn false) || p.op.writes.any (m.staleRun (m.ctx c.ctx).fn true)
  | none => false

/-- Not started, and no earlier post of the table shares a tile or slot. -/
def Mach.postReady (m : Mach) (p : Post) : Bool :=
  !p.started && m.postRuns p && !m.postStale p && m.posts.all fun q => p.id ≤ q.id || !p.shares q

/-- Whether an MMA or MMAS is at work on a core's array; a pair post is at work on both of its cores. -/
def Mach.arrayBusy (m : Mach) (core : Nat) : Bool :=
  m.posts.any fun q => q.isMma && q.started && !q.stopped && q.cores.contains core

/-- Whether a pair post of the partner core, of any kind, is at work on a core, which then serves no post of its own crews (R277). -/
def Mach.pairedAway (m : Mach) (core : Nat) : Bool :=
  m.posts.any fun q => q.started && !q.stopped && q.core != core && q.cores.contains core

/-- Whether the arrays of a post can take it: no pair post of the partner is at work here, a pair post wants a partner core that serves
nothing else (R277), and an MMA or MMAS arrays that are not at work. -/
def Mach.arraysFree (m : Mach) (p : Post) : Bool :=
  !m.pairedAway p.core
    && (p.cores.all fun k => k == p.core || m.posts.all fun q => !(q.started && !q.stopped && q.cores.contains k))
    && (!p.isMma || p.cores.all fun k => !m.arrayBusy k)

/-- Whether a post has waited more than 4096 clocks (R263). -/
def Mach.hasAged (m : Mach) (p : Post) : Bool := p.aged || decide (p.entered + 4096 < m.clock p.core)

/-- Whether p is granted before q: aged first, then the higher priority, then the older (R263). -/
def Mach.grantsFirst (m : Mach) (p q : Post) : Bool :=
  if m.hasAged p != m.hasAged q then m.hasAged p else if p.prio ≠ q.prio then q.prio < p.prio else p.id ≤ q.id

/-- A post granted: a stopped one goes on at its saved step (R279). -/
def postGrant (id : Nat) (m : Mach) : Mach :=
  match m.posts.find? fun p => p.id == id with
  | none => m
  | some p =>
    let first := m.posts.all fun q => !(m.postReady q && q.cores.any p.cores.contains) || m.grantsFirst p q
    if !m.postReady p || !first || !m.arraysFree p then m
    else
      let m1 := { m with posts := m.posts.map fun q => if q.id == id then { q with started := true, stopped := false } else q }
      match p.op with
      | .mma w _ _ _ a bbm =>
        p.cores.foldl
          (fun m k =>
            m.setTile { m.tile k (p.acc.getD 0) with
              stopped := false, step := p.step, steps := (stepList w a bbm).length }) m1
      | _ => m1

/-- A post ages once it has waited more than 4096 clocks (R263). -/
def postAge (id : Nat) (m : Mach) : Mach :=
  { m with posts := m.posts.map fun p => if p.id == id && decide (p.entered + 4096 < m.clock p.core) then { p with aged := true } else p }

/-! ### One step of an MMA (R273) -/

/-- Every active row and every column of one core's tile after step `ks`; with it the elements that overflowed or were clamped. -/
def stepTile (w : Nat) (sat ftzi ftzo : Bool) (rows : List ARow) (b : StatSlot) (core n : Nat) (ks : List Nat) (m : Mach) : Mach × Nat :=
  rows.foldl
    (fun (p : Mach × Nat) r =>
      (List.range 128).foldl
        (fun (p : Mach × Nat) c =>
          let i := accIndex core n r.lane c
          let v := stepAdd (wInt w) sat ftzo (wordAt m.accs i).toNat (stepSum w ftzi r b.codes b.scales c ks)
          ({ p.1 with accs := setWordAt p.1.accs i (BitVec.ofNat 32 v.1) }, p.2 + b2n v.2)) p) (m, 0)

def matrixStep (id : Nat) (m : Mach) : Mach :=
  match m.posts.find? fun p => p.id == id with
  | none => m
  | some p =>
    match p.op with
    | .mma w sat ftzi ftzo a bbm =>
      if !p.started || p.stopped || !m.postRuns p then m
      else
        match (stepList w a bbm)[p.step]? with
        | none => m
        | some ks =>
          let n := p.acc.getD 0
          let m1 := p.cores.foldl
            (fun m k =>
              match m.sslots.find? fun s => s.core == k && some s.n == p.sslot with
              | none => m
              | some b =>
                let r := stepTile w sat ftzi ftzo (aRows a) b k n ks m
                r.1.setTile { r.1.tile k n with sat := min ((r.1.tile k n).sat + r.2) 0xFFFFFFFF, step := p.step + 1 }) m
          { m1 with posts := m1.posts.map fun q => if q.id == id then { q with step := p.step + 1 } else q }
    | _ => m

/-- Every started MMA of a crew stops at its step boundary (R279). -/
def Mach.stopPosts (m : Mach) (crew : Nat) : Mach :=
  let mine := m.posts.filter fun p => p.crew == crew && p.isMma && p.started
  let m1 := mine.foldl
    (fun m p => p.cores.foldl (fun m k => m.setTile { m.tile k (p.acc.getD 0) with stopped := true }) m) m
  { m1 with posts := m1.posts.map fun q => if q.crew == crew && q.isMma && q.started then { q with started := false, stopped := true } else q }

/-! ### The work of the other posts -/

/-- A tile's elements, row-major; a pair's rows go on with the partner's 128 (R283, R285). -/
def Mach.tileRow (m : Mach) (core n r : Nat) : List Nat := (List.range 128).map fun c => (wordAt m.accs (accIndex core n r c)).toNat
def Mach.tileValues (m : Mach) (cores : List Nat) (n : Nat) : List Nat :=
  (List.range 32).flatMap fun r => cores.flatMap fun k => m.tileRow k n r

/-- The rounding stream a post draws from (R60): its fibre's, or, once the fibre has exited, the one that it left to its posts. -/
def Mach.postStream (m : Mach) (p : Post) : Nat :=
  match (m.crew p.crew).bind fun c => c.fibre p.slot with
  | some f => f.stream.toNat
  | none => p.stream.toNat

/-- The stream after a post's draws: of the fibre, of its other posts, and in its image while the crew stands pre-empted (R359). -/
def Mach.setStream (m : Mach) (d : Dev) (p : Post) (s : Nat) : Mach :=
  let m1 := m.updFibre p.crew p.slot fun f => { f with stream := BitVec.ofNat 64 s }
  let m2 := { m1 with posts := m1.posts.map fun (q : Post) =>
    if q.crew == p.crew && q.slot == p.slot then { q with stream := BitVec.ofNat 64 s } else q }
  match m2.crew p.crew with
  | some c =>
    if c.preempted && (c.fibre p.slot).isSome then
      m2.imageWrite ((m2.ctx c.ctx).key d) c (blockOffset p.slot + 24) (leBytes 8 s)
    else m2
  | none => m2

/-- A tile's status word in the image of its crew, written anew while the crew stands pre-empted (R54, R359, R361). -/
def Mach.showTile (m : Mach) (d : Dev) (p : Post) : Mach :=
  match m.crew p.crew, p.acc with
  | some c, some n =>
    if !c.preempted then m
    else
      m.imageWrite ((m.ctx c.ctx).key d) c (0x200 + 8 * n)
        (leBytes 8 (if (m.tile c.core n).crew = c.id ∧ (m.tile c.core n).bound then m.statusWord c.core n else 0))
  | _, _ => m

/-- Bytes written by a post into a range it has checked: at home, or across the fabric, where its answer is awaited; nothing where the
context owns its chip-window bytes no longer (R115, R437; log entry 69). -/
def Mach.putArea (m : Mach) (k : Key) (d : Dev) (ctx : Nat) (p : Post) (a : Area) (data : List Byte) : Mach :=
  match a.runs.findSome? (·.fab) with
  | some (node, rk, off) => m.sendFab d p.crew p.gang p.slot node rk off data data.length (.post p.id)
  | none =>
    if !m.ownsRuns ctx a.runs then m
    else
    let m1 := m.engineWrite k (runLocs a.runs) data
    match a.object with
    | some (s, off) => m1.noteWritten d ctx s off data.length
    | none => m1

/-- The amax update: one unsigned maximum of 64 bits at the cell (R68). -/
def Mach.updateCell (m : Mach) (k : Key) (d : Dev) (ctx : Nat) (p : Post) (cell : Option Area) (a : Nat × Bool) : Mach :=
  match cell with
  | none => m
  | some c => m.putArea k d ctx p c (leBytes 8 (max (leNat ((runLocs c.runs).map (m.homeRead k))) (amaxWord a)))

/-- One ASTZ image of a half tile: header, bitmap, values, padding (R284). -/
def astzImage (o cap : Nat) (codes : List Nat) : List Byte :=
  let t := storeType o
  let size := t.bits / 8
  let present := fun (v : Nat) => if t.isInt then v != 0 else v % 2 ^ (t.bits - 1) != 0
  let vals := codes.filter present
  let len := pad16 (528 + vals.length * size)
  let ovf := decide (cap < len)
  let map := (List.range 512).map fun i =>
    BitVec.ofNat 8 (((List.range 8).map fun b => if present (codes.getD (8 * i + b) 0) then 2 ^ b else 0).sum)
  let head := leBytes 16 (len + vals.length * 2 ^ 32 + o * 2 ^ 56 + b2n ovf * 2 ^ 63)
  if ovf then head ++ map
  else
    let body := vals.flatMap (leBytes size)
    head ++ map ++ body ++ List.replicate (len - 528 - body.length) 0

/-- The bytes of a loaded image, or the trap code of its failure (R278, R281, R422). -/
def bldImage (d : Dev) (x : Ctx) (w : Nat) (cipher : Bool) (kid unit : Nat) (data tags : List Byte) : List Byte ⊕ Nat :=
  if cipher ∧ kid = 0 then .inr 32
  else
    match (if cipher then d.openUnits x.fn x.comp kid unit data tags else some data) with
    | none => .inr 31
    | some b => if 3 ≤ dFmt w ∧ !trailerOk w b then .inr 30 else .inl b

/-- A load ends in the slot of each of its cores, if the crew has not given it up (R278, R280). -/
def Mach.loadSlots (m : Mach) (p : Post) (w : Nat) (r : List Byte ⊕ Nat) : Mach :=
  (p.cores.zip [0, 1]).foldl
    (fun m q =>
      match m.sslots.find? fun s => s.core == q.1 && some s.n == p.sslot with
      | none => m
      | some s =>
        let cb := bldDepth w p.pair * fmtBits (dFmt w) * 16
        let sb := if dBlock w = 0 then 0 else bldDepth w p.pair * 128 / blockLen (dBlock w)
        match r with
        | .inl b =>
          m.setSslot { s with
            codes := (b.drop (q.2 * cb)).take cb, scales := (b.drop (codeBytes w + q.2 * sb)).take sb, state := 1 }
        | .inr code => m.setSslot { s with codes := [], scales := [], state := code }) m

/-- What a post's remote reads answered: none while one is awaited. -/
def Mach.postRead (m : Mach) (d : Dev) (k : Key) (p : Post) (l : List Run) : Mach × Got :=
  match l.findSome? (·.fab) with
  | none => (m, .ok ((runLocs l).map (m.homeRead k)))
  | some (node, rk, off) =>
    let len := l.foldl (fun n r => n + r.len) 0
    match m.fabOut.find? fun o => o.kind == .post p.id && o.node == node && o.rkey == rk && o.off == off && o.len == len with
    | some o =>
      match o.answer with
      | none => (m, .wait)
      | some (err, b) => (m, if err || b.length < len then .lost else .ok b)
    | none => (m.sendFab d p.crew p.gang p.slot node rk off [] len (.post p.id), .wait)

/-- A post's work in full, and what follows: whether it has failed, or none while a remote read is awaited. An ASTZ of a pair
draws for its first half and then for the second (log entry 63). -/
def postWork (d : Dev) (x : Ctx) (p : Post) (m : Mach) : Mach × Option Bool :=
  let k := x.key d
  let n := p.acc.getD 0
  let sat := p.cores.foldl (fun s c => s + (m.tile c n).sat) 0
  match p.op with
  | .mma .. => (m, some false)
  | .bldFree => (m, some false)
  | .azero _ free => ((if free then m else p.cores.foldl (fun m c => m.zeroTile c n) m).showTile d p, some false)
  | .bld w src cipher kid unit tags =>
    let bad := (runLocs src.runs).any d.unreadable || (runLocs tags).any d.unreadable
    let a := m.postRead d k p src.runs
    let b := a.1.postRead d k p tags
    if !m.ownsRuns x.addr (src.runs ++ tags) then (m.loadSlots p w.toNat (.inr 11), some true)
    else match a.2, b.2 with
    | .wait, _ => (b.1, none)
    | _, .wait => (b.1, none)
    | .ok data, .ok t =>
      let r := if bad then .inr 13 else bldImage d x w.toNat cipher kid unit data t
      (b.1.loadSlots p w.toNat r, some (match r with | .inl _ => false | .inr _ => true))
    | _, _ => (b.1.loadSlots p w.toNat (.inr 13), some true)
  | .astore int o rnd ftzo st cell rows =>
    let t := storeType o
    let vals := m.tileValues p.cores n
    let c := convertAll int t ⟨rnd, ftzo, st⟩ vals (m.postStream p)
    let m1 := ((rows.zip (pieces (128 * p.cores.length) c.1)).foldl
      (fun m r => m.putArea k d x.addr p r.1 (r.2.flatMap (leBytes (t.bits / 8)))) m).updateCell k d x.addr p cell (amaxOf int vals)
    (m1.setStream d p c.2, some false)
  | .astz int o rnd ftzo st cell cap dst =>
    let halves := p.cores.map fun c => m.tileValues [c] n
    let r := halves.foldl
      (fun (q : List Byte × Nat) h =>
        let c := convertAll int (storeType o) ⟨rnd, ftzo, st⟩ h q.2
        (q.1 ++ astzImage o cap c.1, c.2)) ([], m.postStream p)
    let m1 := (m.putArea k d x.addr p dst r.1).updateCell k d x.addr p cell (amaxOf int halves.flatten)
    (m1.setStream d p r.2, some false)
  | .cvtq int fmt block qtype rnd cell dst =>
    let vals := m.tileValues p.cores n
    let q := quantise fmt block qtype rnd (vals.map (accValue int)) (m.postStream p)
    let body := q.2.1
    let am := amaxOf int vals
    let image := body ++ List.replicate (pad16 body.length - body.length) 0
      ++ trailer q.1 (crc32c body) (q.2.2.1 + sat) (amaxField am)
    let m1 := (m.putArea k d x.addr p dst image).updateCell k d x.addr p cell am
    (m1.setStream d p q.2.2.2, some false)
  | .dq data dst => (m.putArea k d x.addr p dst data, some false)

/-- The entry leaves the table and its gauge gets the arrival (R110, R113, R264), that of a BLD whose check failed too (log entry
62). -/
def Mach.postEnd (m : Mach) (p : Post) (failed : Bool) : Mach :=
  let m1 := { m with
    posts := m.posts.filter fun q => q.id != p.id
    fabOut := m.fabOut.filter fun o => o.kind != .post p.id }
  match p.gauge with
  | none => m1
  | some a =>
    let r := m1.arrive a 1 0 failed
    if r.2 then r.1 else r.1.copyError p.crew p.slot 1

def postDone (d : Dev) (id : Nat) (m : Mach) : Mach :=
  match m.posts.find? fun p => p.id == id with
  | none => m
  | some p =>
    let x := match m.crew p.crew with | some c => m.ctx c.ctx | none => Ctx.blank 0 0
    if !p.started then m
    else
      match p.op with
      | .mma w _ _ _ a bbm => if p.step < (stepList w a bbm).length then m else m.postEnd p false
      | _ =>
        let sent := fun (m : Mach) => m.fabOut.filter fun o => o.kind == .post id
        if p.worked then
          if (sent m).any (·.answer.isNone) then m
          else m.postEnd p (p.failed || (sent m).any fun o => (o.answer.getD (false, [])).1)
        else
          let r := postWork d x p m
          match r.2 with
          | none => r.1
          | some failed =>
            let failed := failed || !m.ownsRuns x.addr p.op.places
            let m1 := { r.1 with fabOut := r.1.fabOut.filter fun o => !(o.kind == .post id && o.answer.isSome) }
            if (sent m1).isEmpty then m1.postEnd p failed
            else { m1 with posts := m1.posts.map fun q => if q.id == id then { q with worked := true, failed := failed } else q }

/-- POST_GRANT (R263, R279). -/
def execPostGrant (s : State) : Host.Outcome State Fault Refusal :=
  match s.arg with
  | .postGrant id => .next { s with m := postGrant id s.m }
  | _ => .refused .noOperands

/-- POST_AGE (R263). -/
def execPostAge (s : State) : Host.Outcome State Fault Refusal :=
  match s.arg with
  | .postAge id => .next { s with m := postAge id s.m }
  | _ => .refused .noOperands

/-- MATRIX_STEP (R273). -/
def execMatrixStep (s : State) : Host.Outcome State Fault Refusal :=
  match s.arg with
  | .matrixStep id => .next { s with m := matrixStep id s.m }
  | _ => .refused .noOperands

/-- POST_DONE (R264). -/
def execPostDone (s : State) : Host.Outcome State Fault Refusal :=
  match s.arg with
  | .postDone id => .next { s with m := postDone s.dev id s.m }
  | _ => .refused .noOperands

end Sys2Proof.Machine
end

