-- ==== Sys2Proof/Machine/Images.lean ====
section
/-! DEFINITION. Crew images (R359): what the part writes as a crew's state leaves the core and reads as it returns, and
pre-emption from its request to its completion, resumption, and the stop of a crew whose launch has ended (R39, R227, R352,
R357, R360, R361, R377). -/

namespace Sys2Proof.Machine

/-! ### Saving (R359) -/

/-- The codes of R358. -/
def ParkReason.code : ParkReason → Nat
  | .none => 0 | .switch => 1 | .translation => 2 | .object => 3 | .springFull => 4 | .svc => 5 | .trap => 6 | .bkpt => 7
  | .preempt => 8 | .slot => 9

def Gang.reasonCode (g : Gang) : Nat :=
  match g.state with
  | .parked r => r.code
  | _ => if g.place = .offCore then ParkReason.slot.code else 0

/-- The 32 bytes at the start of a fibre block: program counter, predicate word with park reason, masks and latch, copy counts,
rounding stream. -/
def Crew.blockWord (c : Crew) (g : Gang) (f : Fibre) : Nat :=
  resumeWord g.hdr g.idx
    + 2 ^ 64 * (Nat.lor f.preds.toNat 0x8000 + 2 ^ 16 * g.reasonCode + 2 ^ 24 * b2n f.masked + 2 ^ 25 * b2n f.latched.isSome)
    + 2 ^ 128 * (min (c.unfinished f.slot) 15 + 2 ^ 4 * (c.openCopies f.slot % 2 ^ 12)
        + 2 ^ 32 * f.nextBatch.toNat)
    + 2 ^ 192 * f.stream.toNat

/-- Offset of a slot's register lines. -/
def Crew.lineOffset (c : Crew) (slot : Nat) : Nat := linesOffset c.limit + 4 * c.nregs * slot

def Mach.saveFibre (m : Mach) (k : Key) (c : Crew) (g : Gang) (f : Fibre) : Mach :=
  (m.imageWrite k c (blockOffset f.slot) (leBytes 64 (c.blockWord g f))).imageWrite k c (c.lineOffset f.slot) (wordBytes f.regs)

/-- The fibres of a gang written to the image. -/
def Mach.saveGang (m : Mach) (d : Dev) (crew gang : Nat) : Mach :=
  match m.crew crew with
  | none => m
  | some c =>
    match c.gang gang with
    | none => m
    | some g => (c.lanes g).foldl (fun m f => m.saveFibre ((m.ctx c.ctx).key d) c g f) m

/-- A spring bin (third table of R359): the timer's clocks left, and the place of the bin among the crew's by first entry. -/
def Crew.binBytes (c : Crew) (now : Nat) (b : SpringBin) : List Byte :=
  let rank := (c.bins.filter fun q => decide (q.rank < b.rank)).length
  let fibres := b.fibres.flatMap fun f =>
    let regs := wordBytes (f.regs ++ List.replicate (8 - f.regs.length) 0)
    regs ++ leBytes 16 (f.count % 2 ^ 16)
  leBytes 8 b.key
    ++ leBytes 56 (b.fibres.length + 2 ^ 6 * b2n b.ready + 2 ^ 16 * min (b.deadline - now) 65535 + 2 ^ 32 * rank)
    ++ fibres ++ List.replicate (1536 - fibres.length) 0

/-- The channel words: current record address, then bytes written (R256, R359). -/
def channelWord (h : Channel) : Nat := h.record + 2 ^ 64 * h.moved

/-- The binning area (R359). -/
def Binning.image (b : Binning) : Nat := b.desc.toNat + 2 ^ 256 * b.word + 2 ^ 320 * (b.region % 2 ^ 32)

/-- The whole of a crew's image but its trap frames. -/
def Mach.saveImage (m : Mach) (d : Dev) (crew : Nat) : Mach :=
  match m.crew crew with
  | none => m
  | some c =>
    let k := (m.ctx c.ctx).key d
    let owner := match c.gangs.find? fun g => g.kept.any fun a => !a.spilled with | some g => g.course | none => 0xFF
    let put := fun (m : Mach) (off : Nat) (b : List Byte) => m.imageWrite k c off b
    let m1 := put (put m 0 (leBytes 8 (c.preempt + 2 ^ 8 * owner) ++ leBytes 248 (c.spawned % 2 ^ 16))) 0x260
      (List.replicate 416 0)
    let m2 := put m1 0x100 ((List.range 4).flatMap fun n =>
      leBytes 32 (((c.cursors.find? fun h => h.n == n).map Cursor.word).getD 0))
    let m3 := put m2 0x180 ((List.range 8).flatMap fun n => leBytes 16 (((c.channel n).map channelWord).getD 0))
    let m4 := put m3 0x200 ((List.range 4).flatMap fun n =>
      leBytes 8 (if (m.tile c.core n).crew = crew ∧ (m.tile c.core n).bound then m.statusWord c.core n else 0))
    let m5 := put m4 0x220 (leBytes 64 ((c.binning.map Binning.image).getD 0))
    let m6 := c.gangs.foldl (fun m g => m.spillOne d c g) m5
    let m7 := (List.range 16).foldl
      (fun m n => put m (0x4C00 + 1600 * n)
        (match c.bins.find? fun b => b.n == n with
        | some b => c.binBytes (m.clock c.core) b
        | none => List.replicate 1600 0)) m6
    c.gangs.foldl (fun m g => m.saveGang d crew g.id) m7

/-! ### Restoring -/

/-- A fibre as its block and its register lines give it. -/
def Mach.loadFibre (m : Mach) (k : Key) (c : Crew) (f : Fibre) : Fibre :=
  let w := m.imageNat k c (blockOffset f.slot) 32
  -- Counts that the image has changed stand; one that reads as it was written says nothing new.
  let batches := min (c.unfinished f.slot) 15
  let copies := c.openCopies f.slot % 2 ^ 12
  { f with
    moreBatches := if bitsOf w 131 128 = batches then f.moreBatches else (bitsOf w 131 128 : Int) - c.knownBatches f.slot
    moreOpen := if bitsOf w 143 132 = copies then f.moreOpen else (bitsOf w 143 132 : Int) - c.knownOpen f.slot
    preds := BitVec.ofNat 16 (bitsOf w 79 64), masked := bitOf w 88, nextBatch := BitVec.ofNat 32 (bitsOf w 191 160)
    latched := if bitOf w 89 && f.latched.isNone then some (m.clock c.core) else none
    stream := BitVec.ofNat 64 (bitsOf w 255 192)
    regs := (List.range c.nregs).map fun i => BitVec.ofNat 32 (m.imageNat k c (c.lineOffset f.slot + 4 * i) 4) }

/-- A gang goes back to where its fibres' blocks say: as it stood, or one gang for each program counter. -/
def Mach.loadGang (m : Mach) (d : Dev) (c : Crew) (g : Gang) : Mach :=
  let x := m.ctx c.ctx
  let parts := groupLanes (fun f => m.imageNat (x.key d) c (blockOffset f.slot) 8) (c.lanes g)
  if parts.all fun p => p.1 == resumeWord g.hdr g.idx then m
  else m.regroup c.id g.id parts fun w g => m.resumeAt d x g w

/-- The cursor of a saved word that differs from the one it was saved as: on the descriptor that the word names, at its places in
the streams and in its state; none for a CLOSED one. A word whose descriptor or places are no cursor's leaves the cursor as it was
(log entry 50). -/
def Mach.readCursor (m : Mach) (d : Dev) (x : Ctx) (n w : Nat) (old : Option Cursor) : Option Cursor :=
  let desc := bitsOf w 63 13 * 64
  let base := match old with
    | some h => if h.desc = desc then some h else (m.vaNat d x desc 64).bind (openCursor n desc)
    | none => (m.vaNat d x desc 64).bind (openCursor n desc)
  if bitsOf w 10 8 = 0 then none
  else if bitsOf w 10 8 = 7 then old
  else
    match base.bind fun h => h.restore w with
    | some r => some { r with state := bitsOf w 10 8, rep := bitOf w 11, fstream := bitOf w 12, gerr := bitOf w 0 }
    | none => old

/-- Cursor `n` as the image gives it (R293, R359). -/
def Mach.loadCursor (m : Mach) (d : Dev) (k : Key) (c : Crew) (n : Nat) : Option Cursor :=
  let w := m.imageNat k c (0x100 + 32 * n) 32
  let old := c.cursors.find? fun h => h.n == n
  if w = (old.map Cursor.word).getD 0 then old else m.readCursor d (m.ctx c.ctx) n w old

/-- Channel `n` as the image gives it (R256, R359): a record named anew is moved from its count. -/
def Mach.loadChannel (m : Mach) (k : Key) (c : Crew) (n : Nat) : Option Channel :=
  let record := m.imageNat k c (0x180 + 16 * n) 8
  let count := m.imageNat k c (0x188 + 16 * n) 8
  match c.channel n with
  | some h =>
    some { h with
      record := record, moved := count, sent := count, msg := if record = h.record then h.msg else 0
      state := if record ≠ h.record ∧ record ≠ 0 ∧ (h.state = 0 ∨ h.state = 3) then 1 else h.state }
  | none => if record = 0 then none else some { Channel.start n record 0 [] with moved := count, sent := count }

/-- A spring bin read back: one that holds no fibre is free (R35). -/
def Mach.loadBin (m : Mach) (k : Key) (c : Crew) (n : Nat) : Option SpringBin :=
  let off := 0x4C00 + 1600 * n
  let key := m.imageNat k c off 8
  let w := m.imageNat k c (off + 8) 8
  if bitsOf w 5 0 = 0 then none
  else
    some
      { n := n, key := key, ready := bitOf w 6, deadline := m.clock c.core + bitsOf w 31 16, remaining := 0, rank := bitsOf w 63 32
        fibres := (List.range (min (bitsOf w 5 0) 32)).map fun i =>
          ⟨(List.range 8).map fun j => BitVec.ofNat 32 (m.imageNat k c (off + 64 + 48 * i + 4 * j) 4),
            m.imageNat k c (off + 64 + 48 * i + 32) 2⟩ }

/-- The status word of a tile as the image gives it, one that binds a free tile to the crew too, and a stopped post's step with it. -/
def Mach.loadTile (m : Mach) (k : Key) (c : Crew) (n : Nat) : Mach :=
  let t := m.tile c.core n
  let w := m.imageNat k c (0x200 + 8 * n) 8
  if (t.bound ∧ t.crew ≠ c.id) ∨ (!t.bound ∧ !bitOf w 27) then m
  else
    let m1 := m.setTile { t with
      crew := c.id, step := bitsOf w 7 0, steps := bitsOf w 15 8, bound := bitOf w 27, int := bitOf w 28, pair := bitOf w 29, stopped := bitOf w 30
      sat := bitsOf w 63 32 }
    { m1 with posts := m1.posts.map fun p =>
        if p.core == c.core && p.acc == some n && p.isMma && p.stopped then { p with step := bitsOf w 7 0 } else p }

def Binning.reload (b : Binning) (w : Nat) : Binning :=
  { b with
    desc := BitVec.ofNat 256 (w % 2 ^ 256), state := bitsOf w 319 317, code := bitsOf w 316 312
    region := bitsOf w 351 320 }

/-- The binning context as the image gives it: one written where none was set stands if its descriptor is one that BINIT takes (R296). -/
def Mach.loadBinning (m : Mach) (k : Key) (c : Crew) : Option Binning :=
  let w := m.imageNat k c 0x220 64
  match c.binning with
  | some b => some (b.reload w)
  | none =>
    if bitsOf w 319 317 = 0 ∨ !binOk c (w % 2 ^ 256) then none else some ((Binning.start (BitVec.ofNat 256 (w % 2 ^ 256))).reload w)

/-- The crew's state read back from its image (R361). -/
def Mach.loadImage (m : Mach) (d : Dev) (crew : Nat) : Mach :=
  match m.crew crew with
  | none => m
  | some c =>
    let k := (m.ctx c.ctx).key d
    let nat := fun (off n : Nat) => m.imageNat k c off n
    let m1 := m.updCrew crew fun c => { c with
      fibres := c.fibres.map fun f => if f.exited then f else m.loadFibre k c f
      spawned := if nat 8 2 = c.spawned % 2 ^ 16 then c.spawned else nat 8 2
      cursors := (List.range 4).filterMap (m.loadCursor d k c)
      channels := (List.range 8).filterMap (m.loadChannel k c)
      binning := m.loadBinning k c
      bins := (List.range 16).filterMap (m.loadBin k c) }
    let m2 := (List.range 4).foldl (fun m n => m.loadTile k c n) m1
    c.gangs.foldl (fun m g => m.loadGang d c g) m2

/-! ### Pre-emption (R360, R361) -/

/-- Requesters taken off every fault record (R377). -/
def Mach.leaveFaults (m : Mach) (p : Requester → Bool) : Mach :=
  { m with faults := m.faults.map fun r => { r with joined := r.joined.filter fun q => !p q } }

/-- The lanes of a gang leave the slots and fault records they wait on (R91, R377). -/
def Mach.leaveWaits (m : Mach) (d : Dev) (c : Crew) (g : Gang) : Mach :=
  let slots := (c.lanes g).map Fibre.slot
  (m.unpin d c.ctx c.id slots).leaveFaults fun q =>
    match q with
    | .lane crew slot => crew == c.id && slots.contains slot
    | .fetch r => r == ⟨c.id, g.id⟩
    | _ => false

/-- A gang that stands at a stop parks for the pre-emption (R39). One whose ring entries are outstanding stays as it is (R361). -/
def Mach.parkPreempt (m : Mach) (d : Dev) (c : Crew) (g : Gang) : Mach :=
  if g.wake = .ring then m else (m.leaveWaits d c g).parkGang c.id g.id .preempt .none

/-- Whether a gang stands at one of the stops of R148 or at a clause boundary. -/
def Gang.atStop (g : Gang) : Bool :=
  match g.state, g.wake with
  | _, .fabric .. => false
  | .ready, _ => !g.begun
  | .stalled, _ => false
  | _, _ => true

def Gang.isParked (g : Gang) : Bool :=
  match g.state with
  | .parked _ => true
  | _ => false

/-- Whether a gang has parked as far as a pre-emption asks: one with traps masked latches the request (R227, R352) and holds the
crew until it unmasks, unless it waits for a service's answer or has parked for good. -/
def Crew.parkedFor (c : Crew) (g : Gang) : Bool :=
  g.isParked && (g.wake == .ring || g.state == .parked .preempt || !(c.lanes g).any (·.masked))

/-- Every gang of a stopping crew that may stop now does. -/
def Mach.stopGangs (m : Mach) (d : Dev) (c : Crew) : Mach :=
  (c.gangs.filter fun g => g.atStop && !(c.lanes g).any (·.masked)).foldl (fun m g => m.parkPreempt d c g) m

/-- Whether a channel's push has opened a message at its receiver: some packet of it has left. -/
def Channel.opened (h : Channel) : Bool :=
  match h.body with
  | some b => kindOf (recDst b.toNat) == 1 && h.sent != 0
  | none => h.msg != 0

/-- The crew's engine work stops at its boundaries (R361): channels and cursors wait no longer, packets on their way are moved
again. -/
def Crew.stopEngines (c : Crew) : Crew :=
  { c with
    channels := c.channels.map fun h =>
      { h with
        state := if h.state = 2 then 1 else h.state, body := none, sent := h.moved, status := 0, granted := 0, grants := [], gap := none
        msg := if h.opened then h.msg else 0, want := none, lost := false, wait := [], errorPage := none }
    cursors := c.cursors.map fun h => { h with wait := [], errorPage := none, want := none, lost := false }
    binning := c.binning.map fun b => { b with wait := [], errorPage := none, want := none, lost := false } }

/-- Engine requesters of a crew. -/
def ofCrew (crew : Nat) : Requester → Bool
  | .channel c _ => c == crew
  | .cursor c _ => c == crew
  | .binning c => c == crew
  | .lane c _ => c == crew
  | .fetch g => g.crew == crew
  | _ => false

/-- Packets of a crew's channels and the pulls it schedules are given up, their tokens too. -/
def Mach.dropPackets (m : Mach) (crew : Nat) : Mach :=
  { m with
    fabOut := m.fabOut.filter fun o => !(o.crew == crew && match o.kind with | .packet .. => true | _ => false)
    tokens := m.tokens.filter fun t => !m.inMsgs.any fun i => i.id == t.msg && match i.pull with | some (c, _) => c == crew | none => false
    inMsgs := m.inMsgs.filter fun i => match i.pull with | some (c, _) => c != crew | none => true }

/-- The bytes of a record that are written without a gap: those below the first packet that is still on its way or was refused. -/
def Mach.movedTo (m : Mach) (crew : Nat) (h : Channel) : Nat :=
  let gaps := ((m.fabOut.filter fun o => o.ofChannel crew h.n).map fun o => o.off - h.base) ++ h.gap.toList
  if h.body.isNone ∨ gaps = [] then h.moved else gaps.foldl min h.sent

/-- The channels of a crew stop at that count, from which a resumption moves the record again (R256). -/
def Mach.stopMoves (m : Mach) (crew : Nat) : Mach :=
  m.updCrew crew fun c => { c with channels := c.channels.map fun h => { h with moved := m.movedTo crew h } }

/-- The open messages of a pre-empted crew's pushes are abandoned (R412). -/
def Mach.abandonSends (m : Mach) (c : Crew) : Mach :=
  c.channels.foldl (fun m h =>
    match h.body with
    | some b => if h.opened then m.notify (nodeOf (recDst b.toNat)) h.msg none else m
    | none => m) m

/-- Every gang has parked: the crew is pre-empted and its state is written to the image. -/
def Mach.preemptDone (m : Mach) (d : Dev) (c : Crew) : Mach :=
  let m1 := c.gangs.foldl (fun m g => m.parkPreempt d c g) ((m.abandonSends c).stopMoves c.id)
  let m2 := (m1.leaveFaults (ofCrew c.id)).dropPackets c.id
  let m3 := (m2.updCrew c.id fun c => { c.stopEngines with fibres := c.fibres.map Fibre.landAll }).stopPosts c.id
  (m3.saveImage d c.id).updCrew c.id fun c => { c with preempted := true }

/-- Every gang of an ended launch's crew has parked: its posts, cursors, channels and spring-bin fibres are abandoned and pending
results discarded (R357). Stores drain and issued copies arrive. -/
def Mach.stopDone (m : Mach) (d : Dev) (c : Crew) : Mach :=
  let m1 := (c.gangs.foldl (fun m g => m.parkPreempt d c g) m).leaveFaults (ofCrew c.id)
  let gone := (m1.posts.filter fun p => p.crew == c.id).map (·.id)
  let m2 := { m1.dropPackets c.id with
    posts := m1.posts.filter fun p => p.crew != c.id }
  let m3 := { m2 with fabOut := m2.fabOut.filter fun o => match o.kind with | .post id => !gone.contains id | _ => true }
  let m4 := if c.preempt = 0 then m3 else m3.imageWrite ((m.ctx c.ctx).key d) c 0 (leBytes 1 c.preempt)
  m4.updCrew c.id fun c =>
    { c with
      fibres := (c.fibres.map fun f => { f with pend := [], exited := true }).filter fun f => !f.stores.isEmpty
      gangs := [], cursors := [], channels := [], binning := none, bins := [], preempted := true }

/-- What a stopping crew can do at once. -/
def Mach.settleCrew (m : Mach) (d : Dev) (crew : Nat) : Mach :=
  match m.crew crew with
  | none => m
  | some c =>
    if !c.stopping || c.preempted then m
    else
      let m1 := m.stopGangs d c
      match m1.crew crew with
      | none => m1
      | some c1 =>
        if !c1.gangs.all c1.parkedFor then m1
        else if c1.stopped then m1.stopDone d c1
        else m1.preemptDone d c1

/-! ### Places of gangs (R342, R358) -/

/-- A ready gang of the pending set. -/
def Gang.candidate (g : Gang) : Bool := g.pendingReady

/-- Whether p comes in before q: the higher launch priority, then the older time of becoming ready. -/
def Mach.comesFirst (m : Mach) (p q : Nat × Gang) : Bool :=
  let prio := fun (r : Nat × Gang) => match m.crew r.1 with | some c => (m.launch c.launch).prio | none => 0
  if prio p ≠ prio q then prio q < prio p else decide (p.2.readySince ≤ q.2.readySince)

def Mach.firstIn (m : Mach) : List (Nat × Gang) → Option (Nat × Gang)
  | [] => none
  | p :: t =>
    match m.firstIn t with
    | none => some p
    | some q => if m.comesFirst p q then some p else some q

/-- The gang that the next exchange of a core brings in: one passed over by 8 exchanges before every other. -/
def Mach.dueIn (m : Mach) (core : Nat) : Option (Nat × Gang) :=
  let l := (m.coreGangs core).filter fun p => p.2.candidate
  let late := l.filter fun p => 8 ≤ p.2.passedOver
  if late.isEmpty then m.firstIn l else oldest late

/-- The pending gang comes in: older pending gangs have been passed over once more. -/
def Mach.bringIn (m : Mach) (core : Nat) (p : Nat × Gang) : Mach :=
  let older := (m.coreGangs core).filter fun q =>
    q.2.candidate && !(q.1 == p.1 && q.2.id == p.2.id) && decide (q.2.readySince < p.2.readySince)
  (older.foldl (fun m q => m.updGang q.1 q.2.id fun g => { g with passedOver := g.passedOver + 1 }) m).updGang p.1 p.2.id
    fun g => { g with place := .active, issued := 0, waited := 0, passedOver := 0 }

/-- The oldest gang of a core that waits off it for a place takes a free one (R342). -/
def Mach.seatGang (m : Mach) (core : Nat) : Mach :=
  match m.placeFor core, oldest ((m.coreGangs core).filter fun p => p.2.place == .offCore && !p.2.isParked) with
  | .offCore, _ => m
  | _, none => m
  | pl, some p => m.updGang p.1 p.2.id fun g => { g with place := pl }

/-- Ready gangs of the pending set take free places of the active one, in the order of R342; `n` bounds them. -/
def Mach.fillActive (m : Mach) (core : Nat) : Nat → Mach
  | 0 => m
  | n + 1 =>
    if Config.activeGangs ≤ m.placed core .active then m
    else
      match m.dueIn core with
      | none => m
      | some p => Mach.fillActive (m.bringIn core p) core n

def Mach.seatGangs (m : Mach) (core : Nat) : Nat → Mach
  | 0 => m
  | n + 1 => Mach.seatGangs (m.seatGang core) core n

/-- The gangs of a core take the places that are free (R342). -/
def Mach.seatCore (m : Mach) (core : Nat) : Mach :=
  let n := ((m.coreGangs core).filter fun p => p.2.place == .offCore && !p.2.isParked).length
  ((m.seatGangs core n).fillActive core Config.activeGangs).seatGangs core n

/-- Pre-emptions and ends of launches go as far as they can (R360), and gangs take free places on their cores (R342). -/
def Mach.settle (d : Dev) (m : Mach) : Mach :=
  let m1 := (m.crews.map (·.id)).foldl (fun m c => m.settleCrew d c) m
  ((m1.crews.map (·.core)).dedup).foldl Mach.seatCore m1

/-- A crew is asked to stop: fibres with traps masked latch the request (R227, R352). -/
def Mach.latchCrew (m : Mach) (crew : Nat) : Mach :=
  m.updCrew crew fun c =>
    { c with fibres := c.fibres.map fun f =>
        if f.masked && f.latched.isNone && !f.exited then { f with latched := some (m.clock c.core) } else f }

/-- A pre-emption of a crew requested with a reason (R360). An ended launch's crew is not asked again; one that stops or stands
pre-empted for the dispatcher is held by system software from then on, and its crew word says so (R390). -/
def Mach.requestPreempt (m : Mach) (d : Dev) (crew reason : Nat) : Mach :=
  match m.crew crew with
  | none => m
  | some c =>
    if c.stopped ∨ reason ≤ c.preempt then m
    else
      let m1 := m.updCrew crew fun c => { c with preempt := reason }
      if c.preempted then m1.imageWrite ((m.ctx c.ctx).key d) c 0 (leBytes 1 reason)
      else if c.preempt ≠ 0 then m1
      else m1.latchCrew crew

/-- Gangs parked for the pre-emption alone go on; those whose ring entries are outstanding need their responses too (R361). -/
def Mach.wakePreempted (m : Mach) (crew : Nat) : Mach :=
  match m.crew crew with
  | none => m
  | some c => (c.gangs.filter fun g => g.state == .parked .preempt).foldl (fun m g => m.wakeGang crew g.id) m

/-- A pre-empted crew goes on (R361), or a pre-emption not yet complete is called off; a request that its image shows latched in a
fibre stays so. -/
def Mach.resumeCrew (m : Mach) (d : Dev) (crew : Nat) : Mach :=
  match m.crew crew with
  | none => m
  | some c =>
    if c.preempt = 0 ∨ c.stopped then m
    else
      let m1 := if c.preempted then m.loadImage d crew else m
      let m2 := m1.updCrew crew fun c =>
        { c with
          preempt := 0, preempted := false
          fibres := if c.preempted then c.fibres else c.fibres.map fun f => { f with latched := none } }
      (m2.wakePreempted crew).launchBins crew 16

end Sys2Proof.Machine
end

