-- ==== Sys2Proof/Machine/Admission.lean ====
section
/-! DEFINITION. Launches from admission to retirement: room for crews (R339, R340), the dispatcher's choice (R337, R338), starting
a crew (R22, R24, R335, R437), retiring and ending (R32, R33, R357), and the steps ADMIT_CREW, PRIORITY_AGING, COADMIT_WAIT,
PREEMPT_FOR_PRIORITY, CREW_RESUME and CREW_RETIRE. -/

namespace Sys2Proof.Machine

def Queue.blank (q : Nat) : Queue :=
  { q := q, enabled := false, ctx := 0, fn := 0, prio := 0, ring := [], serials := [], mirrors := (0, 0), head := .waiting, begun := false
    readyAt := 0, accepted := 0, completed := 0, refused := 0, refusals := 0, reason := 0, partialSet := false, lost := false
    lostseq := 0, status := 0, attempt := 0, clocks := 0, aged := 0, blocking := false, cap := 47, killing := 0, ending := 0 }

def Mach.queue (m : Mach) (q : Nat) : Queue := (m.queues.find? fun r => r.q == q).getD (.blank q)

def Mach.setQueue (m : Mach) (q : Queue) : Mach := { m with queues := putBy (fun r => r.q == q.q) q m.queues }

/-- The record at a queue's head (R332). -/
def Queue.record (q : Queue) : Option Nat := q.ring.head?.map (·.toNat)

/-- The head record is done with: its completion record is to be written (R333). -/
def Queue.retire (q : Queue) (status attempt clocks : Nat) : Queue :=
  { q with head := .retired, status := status, attempt := attempt, clocks := clocks }

/-! ### A launch's items (R31, R329) -/

def Launch.ncrews (l : Launch) : Nat := l.field 127 96
def Launch.initial (l : Launch) : Nat := l.field 95 84
def Launch.nregs (l : Launch) : Nat := 8 * l.field 71 66
def Launch.scratch (l : Launch) : Nat := 128 * l.field 65 54
def Launch.coresident (l : Launch) : Bool := l.record.getLsbD 37
def Launch.restartable (l : Launch) : Bool := l.record.getLsbD 36

/-- The fibre limit, a multiple of W (R31). -/
def Launch.limit (l : Launch) : Nat :=
  let v := if l.field 83 72 = 0 then l.initial else l.field 83 72
  (v + Config.width - 1) / Config.width * Config.width

def Launch.image (l : Launch) : Nat := (imageSize l.limit l.nregs + 4095) / 4096 * 4096

def Mach.updLaunch (m : Mach) (id : Nat) (h : Launch → Launch) : Mach :=
  { m with launches := m.launches.map fun l => if l.id == id then h l else l }

def Mach.crewsOf (m : Mach) (launch : Nat) : List Crew := m.crews.filter fun c => c.launch == launch

/-! ### Room (R339, R340) -/

def inService (d : Dev) (core : Nat) : Bool := decide (core < Config.cores) && !d.deadCores.contains core

/-- The lowest place for `len` items below `limit`, beside the areas in use, each start and length; places at `step`. -/
def fitIn (used : List (Nat × Nat)) (start limit len step : Nat) : Option Nat :=
  ((start :: used.map fun a => (a.1 + a.2 + step - 1) / step * step).filter fun p =>
    decide (start ≤ p) && decide (p + len ≤ limit) && used.all fun a => decide (p + len ≤ a.1) || decide (a.1 + a.2 ≤ p)).min?

/-- Where a crew would stand on a core: first fibre slot, scratchpad base and image address. -/
structure Room where
  slot : Nat
  scr : Nat
  image : Nat
  deriving DecidableEq, Repr

def Mach.room (m : Mach) (d : Dev) (l : Launch) (core : Nat) : Option Room :=
  let x := m.ctx l.ctx
  let here := m.crews.filter fun c => c.core == core
  let mine := m.crews.filter fun c => c.ctx == l.ctx
  if !inService d core then none
  else
    match fitIn (here.map fun c => (c.slotBase, c.limit)) 0 Config.slotsPerCore l.limit 1,
      fitIn (here.filterMap fun c => if c.scrSize = 0 then none else some (c.scrBase, c.scrSize)) 0 Config.scratchBytes l.scratch 128,
      fitIn (mine.map fun c => (c.image, imageSize c.limit c.nregs)) x.imageBase x.imageLimit (imageSize l.limit l.nregs) 4096 with
    | some s, some b, some i => some ⟨s, b, i⟩
    | _, _, _ => none

/-- Whether all crews of a coresident launch could be resident at once on the cores in service and in an empty pool (R340). -/
def Mach.couldFit (m : Mach) (d : Dev) (l : Launch) : Bool :=
  let x := m.ctx l.ctx
  let bySlots := Config.slotsPerCore / max l.limit 1
  let perCore := if l.scratch = 0 then bySlots else min bySlots (Config.scratchBytes / l.scratch)
  let cores := ((List.range Config.cores).filter (inService d)).length
  decide (l.ncrews ≤ perCore * cores) && decide (l.ncrews ≤ (x.imageLimit - x.imageBase) / l.image)

/-! ### Starting a crew (R22, R24, R335, R437) -/

/-- The bytes of an allocation that another context wrote read 0; of those that the crew's own context wrote, each reads 0 or stays,
which is free (log entry 5). No gauge stands there (R109, R437). -/
def Mach.clearScratch (m : Mach) (ctx crew core base size : Nat) : Mach :=
  let lo := core * 2 ^ 18 + base
  let inside := fun (a : Nat) => decide (lo ≤ a) && decide (a < lo + size)
  let foreign := fun (line : Nat) => match m.scratchCtx.find? fun p => p.1 == line with | some p => p.2 != ctx | none => false
  { m with
    scratch := m.scratch.filter fun c => !(inside c.1 && (foreign (c.1 / 128) || Config.freeOf 437 crew c.1 != 0))
    gauges := m.gauges.filter fun a => !inside a
    scratchCtx := ((List.range (size / 128)).map fun i => (lo / 128 + i, ctx)) ++ m.scratchCtx.filter fun p => !inside (p.1 * 128) }

/-- The fibres and gangs that a launch starts in a crew (R22, R24, R26). -/
def Mach.startGangs (m : Mach) (l : Launch) (crew idx core : Nat) : List Fibre × List Gang :=
  let n := l.initial
  let arg := 8 * l.field 393 340
  let regs : List Word := [BitVec.ofNat 32 arg, BitVec.ofNat 32 (arg / 2 ^ 32)]
  let fibres := (List.range n).map fun s => Fibre.start s l.nregs regs (streamSeed (l.field 511 448) idx s none)
  let courses := (n + Config.width - 1) / Config.width
  let gangs := (List.range courses).map fun k =>
    Gang.start (crew + 1 + k) k (8 * l.field 447 394) (BitVec.ofNat 32 (2 ^ min Config.width (n - Config.width * k) - 1)) .offCore (m.clock core)
  (fibres, gangs)

/-- A crew admitted to a room (R339): its fibres begin with an acquire at sys (R335). -/
def Mach.startCrew (m : Mach) (l : Launch) (idx core : Nat) (r : Room) : Mach :=
  let id := m.nextId
  let fg := m.startGangs l id idx core
  let c : Crew :=
    { id := id, launch := l.id, ctx := l.ctx, idx := idx, core := core, slotBase := r.slot, limit := l.limit, nregs := l.nregs
      scrBase := r.scr, scrSize := l.scratch, image := r.image, fibres := fg.1, gangs := fg.2, bins := [], spawned := 0, cursors := []
      channels := [], binning := none, copies := [], gpasses := [], preempt := 0, preempted := false, stopAll := false, stopped := false }
  let m1 := (m.clearScratch l.ctx id core r.scr l.scratch).discard core 5 63
  let m2 := { m1 with crews := m1.crews ++ [c], nextId := id + 1 + fg.2.length }
  m2.seatCore core

/-- The next crews of a launch placed on the cores named, in turn, as long as each finds room. -/
def Mach.admitOn (m : Mach) (d : Dev) (id : Nat) : Nat → List Nat → Mach × Bool
  | 0, _ => (m, true)
  | n + 1, cores =>
    let l := m.launch id
    match cores.find? fun k => (m.room d l k).isSome with
    | none => (m, false)
    | some k =>
      match m.room d l k with
      | none => (m, false)
      | some r =>
        let m1 := (m.startCrew l l.nextCrew k r).updLaunch id fun l => { l with nextCrew := l.nextCrew + 1, cores := k :: l.cores }
        Mach.admitOn m1 d id n cores

/-! ### The dispatcher's choice (R337, R338, R340) -/

/-- A function's entry (R336): its reset value, cap 47 and share 1, while no host has written it (log entry 56). -/
def Mach.fnEntry (m : Mach) (d : Dev) (fn : Nat) : Nat :=
  let v := m.physNat (d.fnKey 0) (d.fnTable + 8 * fn) 8
  if v = 0 ∧ !((hbmLinear (d.fnTable + 8 * fn)).any fun q => m.zeroWords.contains (q / 8)) then 47 * 2 ^ 8 + 1 else v

/-- Cap and share of a function's entry as it stands. -/
def Mach.fnCap (m : Mach) (d : Dev) (fn : Nat) : Nat := min (bitsOf (m.fnEntry d fn) 13 8) 47
def Mach.fnShare (m : Mach) (d : Dev) (fn : Nat) : Nat := max 1 (m.fnEntry d fn % 256)

/-- The share in effect: as it stood when a record of the function last reached a head. -/
def Mach.share (m : Mach) (fn : Nat) : Nat := lookupD m.shares fn 1

def Mach.headLaunch (m : Mach) (q : Nat) : Option Launch := m.launches.find? fun l => l.q == q

/-- No crew of the head has been admitted in this attempt. -/
def Mach.notAdmitted (m : Mach) (q : Nat) : Bool := ((m.headLaunch q).map fun l => l.admittedAt.isNone).getD true

/-- Effective priority (R337), and the launch's own once its first crew is admitted (R343). -/
def Mach.effective (m : Mach) (q : Queue) : Nat :=
  match m.headLaunch q.q with
  | some l => if l.admittedAt.isSome then l.prio else max q.prio (min (q.prio + q.aged) q.cap)
  | none => max q.prio (min (q.prio + q.aged) q.cap)

/-- Queues whose head waits for crews to be admitted (R337). -/
def Mach.wants (m : Mach) (q : Queue) : Bool :=
  q.head == .running &&
    match m.headLaunch q.q with
    | some l => !l.killed && !l.failed && decide (l.nextCrew < l.ncrews) && !(m.ctx q.ctx).held
    | none => false

/-- Aging or a coresident head's bound that is due comes before any admission. -/
def Mach.dueAge (m : Mach) (q : Queue) : Bool :=
  (q.head == .ready || q.head == .running) && m.notAdmitted q.q && decide (q.prio + q.aged < q.cap)
    && decide (q.readyAt + 2 ^ 20 * (q.aged + 1) ≤ m.dclock)

def Mach.dueBlock (m : Mach) (q : Queue) : Bool :=
  q.head == .running && !q.blocking && m.notAdmitted q.q && decide (q.readyAt + 2 ^ 22 ≤ m.dclock)
    && ((m.headLaunch q.q).map Launch.coresident).getD false

/-- Whether a waiting coresident launch bars an admission of a queue (R340). Of two that bar at equal effective priority the one that
has waited longer, then the lower queue, is not barred by the other (log entry 78). -/
def Mach.barred (m : Mach) (q : Queue) : Bool :=
  let older := fun (a b : Queue) => decide (a.readyAt < b.readyAt) || a.readyAt == b.readyAt && decide (a.q < b.q)
  m.queues.any fun b => b.q != q.q && b.blocking
    && (decide (m.effective q < m.effective b) || m.effective q == m.effective b && !(q.blocking && older q b))

/-- Whether the queue's launch is a coresident one that can never fit: it completes NOFIT at once (R309, R340). -/
def Mach.neverFits (m : Mach) (d : Dev) (q : Queue) : Bool :=
  m.wants q && ((m.headLaunch q.q).any fun l => l.coresident && !m.couldFit d l)

/-- The launch has been admitted, in this attempt or before a fault interrupted it (R32). -/
def Launch.entered (l : Launch) : Bool := l.admittedAt.isSome || decide (0 < l.attempt)

/-- Whether the queue's launch finds room now, or can never fit. A world that waits to be scrubbed admits no launch, and the crews
that are still to come of those it has admitted go on (R430). -/
def Mach.canAdmit (m : Mach) (d : Dev) (q : Queue) : Bool :=
  m.neverFits d q || m.wants q && !m.barred q &&
    match m.headLaunch q.q with
    | none => false
    | some l =>
      if (d.fnRec q.fn).scrub.isSome && !l.entered then false
      else if l.coresident then
        (m.admitOn d l.id l.ncrews ((List.range Config.cores).filter (inService d))).2
      else (List.range Config.cores).any fun k => (m.room d l k).isSome

/-- The functions of some queues, in increasing number. -/
def fnsOf (l : List Queue) : List Nat := ((l.map (·.fn)).dedup).insertionSort (· ≤ ·)

/-- The function that the round comes to next (R338). -/
def Mach.nextFn (m : Mach) (l : List Queue) : Nat :=
  let fs := fnsOf l
  if fs.contains m.lastServed.1 ∧ m.lastServed.2 < m.share m.lastServed.1 then m.lastServed.1
  else
    match fs.find? fun f => m.lastServed.1 < f with
    | some f => f
    | none => fs.headD 0

/-- The queue of the function after the one served last (R338). -/
def Mach.nextQueue (m : Mach) (l : List Queue) (fn : Nat) : Nat :=
  let qs := ((l.filter fun q => q.fn == fn).map (·.q)).insertionSort (· ≤ ·)
  match qs.find? fun q => lookupD m.lastQueue fn 16384 < q with
  | some q => q
  | none => qs.headD 0

/-- The queue that the dispatcher serves next: one whose launch can never fit before all others. -/
def Mach.dueQueue (m : Mach) (d : Dev) : Option Nat :=
  let can := m.queues.filter (m.canAdmit d)
  let top := (can.map m.effective).foldl max 0
  let l := can.filter fun q => m.effective q == top
  match m.queues.find? (m.neverFits d) with
  | some q => some q.q
  | none => if l.isEmpty then none else some (m.nextQueue l (m.nextFn l))

/-- The dispatcher serves a queue: one crew, or all of a coresident launch, `core` tried first (R339, R340). -/
def admitCrew (d : Dev) (qn core : Nat) (m : Mach) : Mach :=
  let q := m.queue qn
  if m.dueQueue d != some qn || m.queues.any (fun b => m.dueAge b || m.dueBlock b) then m
  else
    match m.headLaunch qn with
    | none => m
    | some l =>
      if l.coresident && !m.couldFit d l then
        ({ m with launches := m.launches.filter fun k => k.id != l.id } : Mach).setQueue (q.retire 2 (l.attempt % 2 ^ 16) 0)
      else
        let rest := (List.range Config.cores).filter (inService d)
        let first := l.admittedAt.isNone
        let m1 := if first then m.updLaunch l.id fun l => { l with admittedAt := some m.dclock, prio := q.prio } else m
        let r := if l.coresident then m1.admitOn d l.id l.ncrews (core :: rest) else m1.admitOn d l.id 1 [core]
        if !r.2 then m
        else
          let served := if m.lastServed.1 = q.fn then m.lastServed.2 + 1 else 1
          let m2 := { r.1 with
            lastServed := if m.lastServed.1 = q.fn ∧ m.share q.fn ≤ m.lastServed.2 then (q.fn, 1) else (q.fn, served)
            lastQueue := assign m.lastQueue q.fn qn }
          m2.setQueue { q with aged := 0, blocking := false }

def priorityAging (qn : Nat) (m : Mach) : Mach :=
  let q := m.queue qn
  if m.dueAge q then m.setQueue { q with aged := q.aged + 1 } else m

def coadmitWait (qn : Nat) (m : Mach) : Mach :=
  let q := m.queue qn
  if m.dueBlock q then m.setQueue { q with blocking := true } else m

/-! ### Retiring and ending (R32, R33, R357) -/

/-- The launch of a queue whose crews have all gone: it retires, or runs again from its entry (R32). Its written bytes leave the
caches as it retires, ahead of its completion record (R334; log entry 79). -/
def Mach.launchGone (m : Mach) (id : Nat) : Mach :=
  match m.launches.find? fun l => l.id == id with
  | none => m
  | some l =>
    if !(m.crewsOf id).isEmpty then m
    else
      let clocks := match l.admittedAt with | some t => min (m.dclock - t) (2 ^ 64 - 1) | none => 0
      let done := fun (status : Nat) =>
        ({ m.writeBackAll with launches := m.launches.filter fun k => k.id != id } : Mach).setQueue
          ((m.queue l.q).retire status (l.attempt % 2 ^ 16) clocks)
      if l.killed then done 4
      else if l.failed then
        if l.restartable then
          (m.updLaunch id fun l => { l with attempt := l.attempt + 1, admittedAt := none, nextCrew := 0, cores := [], retired := 0, failed := false }).setQueue
            { m.queue l.q with readyAt := m.dclock, aged := 0, blocking := false }
        else done 3
      else if l.retired = l.ncrews then done 0
      else m

/-- The six conditions of R33: no fibre lives, with its stores drained (R223), no bin holds one, and the crew's engines, copies
and posts have nothing left to do, their arrivals made. -/
def Mach.crewIdle (m : Mach) (c : Crew) : Bool :=
  (c.fibres.all fun f => f.exited && f.stores.isEmpty) && c.gangs.isEmpty && c.bins.isEmpty
    && (c.cursors.all fun h => !h.live) && (c.binning.all fun b => b.state != 2) && (c.channels.all fun h => h.state != 1 && h.state != 2)
    && (c.copies.all fun p => p.done) && c.gpasses.isEmpty && m.posts.all fun p => p.crew != c.id

/-- What a crew leaves: its tiles, slots and reservations go with it. -/
def Mach.removeCrew (m : Mach) (c : Crew) : Mach :=
  { m with
    crews := m.crews.filter fun k => k.id != c.id
    tiles := m.tiles.filter fun t => t.crew != c.id
    sslots := m.sslots.filter fun s => s.crew != c.id
    gauges := m.gauges.filter fun a => !(decide (c.core * 2 ^ 18 + c.scrBase ≤ a) && decide (a < c.core * 2 ^ 18 + c.scrBase + c.scrSize)) }

def crewRetire (crew : Nat) (m : Mach) : Mach :=
  match m.crew crew with
  | none => m
  | some c =>
    if !m.crewIdle c then m
    else ((m.removeCrew c).updLaunch c.launch fun l => { l with retired := l.retired + 1 }).launchGone c.launch

/-- A launch's crews are told to stop for good (R357): their gangs wait for nothing any more, and what they asked of a service
is forgotten. With `failed` they park so that the fault of a single part can be recovered, reason RECOVERY (R360). -/
def Mach.stopCrew (m : Mach) (d : Dev) (c : Crew) (failed : Bool) : Mach :=
  if c.stopped then m
  else
    let m1 := { m with rings := m.rings.filter fun r => r.crew != c.id }
    let m2 := (m1.updCrew c.id fun c => { c with
      stopped := true, preempted := false, stopAll := false, preempt := if failed then 3 else c.preempt
      gangs := c.gangs.map fun g => if g.wake = .ring then { g with wake := .none, ringWait := none, state := .parked .preempt } else g }).latchCrew c.id
    m2.settleCrew d c.id

/-- A launch ended: KILLED by a service or its function, or failed with a single part (R32, R357). -/
def Mach.endLaunch (m : Mach) (d : Dev) (id : Nat) (failed : Bool) : Mach :=
  match m.launches.find? fun l => l.id == id with
  | none => m
  | some l =>
    if l.killed then m.launchGone id
    else
      let m1 := m.updLaunch id fun l => if failed then { l with failed := true } else { l with killed := true }
      ((m1.crewsOf id).foldl (fun m c => m.stopCrew d c failed) m1).launchGone id

/-! ### Pre-emption for priority, and resumption (R40, R341, R361, R390) -/

/-- The crews that stop and go on together with one: all of a coresident launch (R40). -/
def Mach.together (m : Mach) (c : Crew) : List Nat :=
  let l := m.launch c.launch
  if l.id = c.launch ∧ l.coresident then (m.crewsOf c.launch).map (·.id) else [c.id]

/-- A crew is asked to stop for a launch of higher effective priority that waits for room; for a coresident launch none is (R340). -/
def preemptForPriority (d : Dev) (crew : Nat) (m : Mach) : Mach :=
  match m.crew crew with
  | none => m
  | some c =>
    let l := m.launch c.launch
    let higher := m.queues.any fun q => m.wants q && decide (l.prio < m.effective q)
      && (m.headLaunch q.q).all fun k => k.id != l.id && !k.coresident
    if !higher then m else (m.together c).foldl (fun m k => m.requestPreempt d k 1) m

def crewResume (d : Dev) (crew : Nat) (m : Mach) : Mach :=
  match m.crew crew with
  | none => m
  | some c =>
    let all := m.together c
    if !c.preempted || c.stopped || (m.ctx c.ctx).held || all.any (fun k => match m.crew k with | some e => !e.preempted | none => false) then m
    else all.foldl (fun m k => m.resumeCrew d k) m

/-! ### Steps -/

/-- ADMIT_CREW (R338 to R340). -/
def execAdmitCrew (s : State) : Host.Outcome State Fault Refusal :=
  match s.arg with
  | .admitCrew q core => .next { s with m := admitCrew s.dev q.toNat core.toNat s.m }
  | _ => .refused .noOperands

/-- PRIORITY_AGING (R337). -/
def execPriorityAging (s : State) : Host.Outcome State Fault Refusal :=
  match s.arg with
  | .priorityAging q => .next { s with m := priorityAging q.toNat s.m }
  | _ => .refused .noOperands

/-- COADMIT_WAIT (R340). -/
def execCoadmitWait (s : State) : Host.Outcome State Fault Refusal :=
  match s.arg with
  | .coadmitWait q => .next { s with m := coadmitWait q.toNat s.m }
  | _ => .refused .noOperands

/-- PREEMPT_FOR_PRIORITY (R341, R360). -/
def execPreemptForPriority (s : State) : Host.Outcome State Fault Refusal :=
  match s.arg with
  | .preemptForPriority crew => .next { s with m := preemptForPriority s.dev crew s.m }
  | _ => .refused .noOperands

/-- CREW_RESUME (R361). -/
def execCrewResume (s : State) : Host.Outcome State Fault Refusal :=
  match s.arg with
  | .crewResume crew => .next { s with m := crewResume s.dev crew s.m }
  | _ => .refused .noOperands

/-- CREW_RETIRE (R33). -/
def execCrewRetire (s : State) : Host.Outcome State Fault Refusal :=
  match s.arg with
  | .crewRetire crew => .next { s with m := crewRetire crew s.m }
  | _ => .refused .noOperands

end Sys2Proof.Machine
end

