-- ==== Sys2Proof/Machine/Worlds.lean ====
section
/-! DEFINITION. What ends all the work of a function: an error of its interface (R394) and the closing of its world (R417). -/

namespace Sys2Proof.Machine

/-- Kind of a record (R328). -/
def recKind (r : Nat) : Nat := bitsOf r 35 32

/-- Every unretired launch of a function's contexts is ended as by KILL (R357, R394): accepted launches that have not begun
complete KILLED in their turn. -/
def Mach.endContexts (m : Mach) (d : Dev) (fn : Nat) : Mach :=
  let close := fun (q : Queue) =>
    let q1 := { q with ending := q.ring.length }
    match q.record with
    | some r => if q.head = .ready ∧ recKind r = 1 then q1.retire 4 0 0 else q1
    | none => q1
  let mine := fun (l : Launch) => (m.queue l.q).fn == fn
  let m1 := { m with queues := m.queues.map fun q => if q.fn == fn then close q else q }
  (m.launches.filter mine).foldl (fun m l => m.endLaunch d l.id false) m1

/-- Whether records of a function that were ended still wait for their completion records. -/
def Mach.ending (m : Mach) (fn : Nat) : Bool :=
  m.queues.any fun q => q.fn == fn && (q.killing != 0 || (q.ring.take q.ending).any fun r => recKind r.toNat == 1)

/-- A closing world ends with its last completion record: its period key and fabric secret are destroyed (R417). -/
def Dev.settleWorlds (d : Dev) (m : Mach) : Dev :=
  { d with fns := d.fns.map fun r =>
      if r.world = .closing ∧ !m.ending r.fn then { r with world := .none, secret := none } else r }

/-- An open world starts to close (R417). -/
def Dev.closing (d : Dev) (fn : Nat) : Dev :=
  let r := d.fnRec fn
  if fn ≠ 0 ∧ r.world = .open then d.setFn { r with world := .closing } else d

/-- A virtual function leaves CONFIG_LOCKED and RUN for a state: its world closes (R417). -/
def leaveRun (d : Dev) (m : Mach) (fn : Nat) (to_ : TdispState) : Dev × Mach :=
  let d1 := (d.closing fn)
  let d2 := d1.setFn { d1.fnRec fn with tdisp := to_ }
  let m1 := if (d.fnRec fn).world = .open then m.endContexts d fn else m
  (d2.settleWorlds m1, m1)

/-! ### Host requests (R394, R395) -/

def onHost (l : List Run) : Bool := l.any fun r => r.loc.space == .host

/-- The places that a queued store writes. -/
def StoreEntry.locs (e : StoreEntry) : List Loc :=
  match e.kind with
  | .bytes cells => cells.map (·.1)
  | .fabric .. => []

/-- What a function's crews have not sent yet to host memory translated again: queued stores, units of gate passes, and posts not yet
begun (R395). -/
def Mach.retranslate (m : Mach) (fn : Nat) : Mach :=
  let mine := fun (c : Crew) => (m.ctx c.ctx).fn == fn
  let r := fun (l : List Run) => l.map (Run.again m fn false)
  let w := fun (l : List Run) => l.map (Run.again m fn true)
  { m with
    crews := m.crews.map fun c =>
      if mine c then
        { c with
          fibres := c.fibres.map fun (f : Fibre) => { f with stores := f.stores.map (StoreEntry.again m fn) }
          gpasses := c.gpasses.map fun g =>
            { g with src := r g.src, srcTags := r g.srcTags, srcRest := r g.srcRest, dst := w g.dst, dstTags := w g.dstTags, dstRest := w g.dstRest } }
      else c
    posts := m.posts.map fun p =>
      if !p.started && m.crews.any fun c => c.id == p.crew && mine c then { p with op := p.op.again m fn } else p }

/-- A crew without the host requests that it has made: its stores, copies and gate passes to and from host memory do nothing any
more. -/
def Crew.dropHost (c : Crew) : Crew :=
  { c with
    fibres := c.fibres.map fun f => { f with stores := f.stores.filter fun e => !e.locs.any fun l => l.space == .host }
    copies := c.copies.map fun p => if !p.done && onHost p.src then { p with done := true, err := true } else p
    gpasses := c.gpasses.filter fun g => !onHost (g.src ++ g.dst ++ g.srcTags ++ g.dstTags) }

/-- A function's outstanding host requests are abandoned (R394): those of its crews, host bytes still in a cache, and the fetches of
its contexts. -/
def Mach.abandonHost (m : Mach) (d : Dev) (fn : Nat) : Mach :=
  let mine := fun (c : Crew) => (m.ctx c.ctx).fn == fn
  let keep := fun (c : Copy) => !(c.dirty && c.loc.space == .host && c.key.world == d.world fn)
  let fetching := (m.ctxs.filter fun x => x.fn == fn).flatMap fun x => (x.slots.filter fun s => s.state == 3 && s.cls == 1).map fun s => (x.addr, s)
  let m1 := { m with
    crews := m.crews.map fun c => if mine c then c.dropHost else c
    posts := m.posts.filter fun p => !(onHost p.op.places && m.crews.any fun c => c.id == p.crew && mine c)
    l1 := m.l1.filter keep, l2 := m.l2.filter keep }
  fetching.foldl (fun m p => m.failFetch d p.1 p.2) m1

/-- A function enters ERROR (R394): its launches end, its host requests are abandoned, and the error interrupts of the function and
of the PF are raised. -/
def enterError (d : Dev) (m : Mach) (fn : Nat) : Dev × Mach :=
  let m1 := (((m.endContexts d fn).abandonHost d fn).raiseIrq fn 2).raiseIrq 0 2
  if fn = 0 then (d, m1) else leaveRun d m1 fn .error

end Sys2Proof.Machine
end

