-- ==== Sys2Proof/Machine/Queues.lean ====
section
/-! DEFINITION. Work queues: capture and acceptance (R325 to R327), enabling (R336), dependences (R331, R438), what each kind of
record does at the head (R98 to R100, R328 to R330) and its completion record (R333, R334, R438), with the steps CAPTURE,
QUEUE_ENABLE, DEPENDENCE_POLL, LAUNCH, MARK, EVICT, RECLAIM, WRITEBACK and COMPLETION_RECORD. -/

namespace Sys2Proof.Machine

/-! ### Records (R328, R329) -/

def recSeq (r : Nat) : Nat := r % 2 ^ 32
def recDepcmp (r : Nat) : Nat := bitsOf r 199 197
def recDepval (r : Nat) : Nat := bitsOf r 231 200
def recDepaddr (r : Nat) : Nat := 4 * bitsOf r 286 232
def recCompl (r : Nat) : Nat := 16 * bitsOf r 339 287
/-- The ORU command of a record of kind 2 (R98). -/
def oruCode (r : Nat) : Nat := bitsOf r 391 384
def oruSlot (r : Nat) : Nat := bitsOf r 469 448

/-- A reserved comparison, or an address or value beside comparison 0 (R329, R331). -/
def depBad (r : Nat) : Bool :=
  decide (5 < recDepcmp r) || (recDepcmp r == 0 && (recDepaddr r != 0 || recDepval r != 0))

/-- The bits that an ORU or MARK record uses (R329). -/
def shortBits : Nat := 2 ^ 36 - 1 + (2 ^ 340 - 2 ^ 197)
def oruBits : Nat := (2 ^ 392 - 2 ^ 384) + (2 ^ 470 - 2 ^ 448)

/-- What in a record itself makes it MALFORMED (R31, R99, R328 to R330). -/
def recBad (r : Nat) : Bool :=
  if depBad r then true
  else if recKind r = 1 then
    let crews := bitsOf r 127 96
    let fibres := bitsOf r 95 84
    let limit := bitsOf r 83 72
    let regs := bitsOf r 71 66
    crews == 0 || fibres == 0 || decide (2048 < fibres) || (limit != 0 && (decide (limit < fibres) || decide (2048 < limit))) || regs == 0
      || decide (32 < regs) || decide (2048 < bitsOf r 65 54) || decide (256 < bitsOf r 144 136)
  else if recKind r = 2 then Nat.land r (Nat.lor shortBits oruBits) != r || oruCode r == 0 || decide (3 < oruCode r)
  else if recKind r = 3 then Nat.land r shortBits != r
  else true

/-! ### Mirrors (R326, R344) -/

/-- The C-die of a stack: the model puts stacks 2c and 2c + 1, and cores 64c to 64c + 63, on C-die c (log entry 42). -/
def dieOf (stack : Nat) : Nat := stack / 2

/-- Two stacks in service on different C-dies. -/
def chooseMirrors (d : Dev) : Nat × Nat :=
  let ok := (List.range 48).filter fun s => !d.retiredStacks.contains s
  let a := ok.headD 0
  (a, (ok.find? fun s => dieOf s ≠ dieOf a).getD 0)

/-- A queue's mirrors, chosen anew where one no longer is in service (R344). -/
def Queue.mirrored (q : Queue) (d : Dev) : Queue :=
  let gone := fun (s : Nat) => d.retiredStacks.contains s
  if q.mirrors.1 = q.mirrors.2 ∨ gone q.mirrors.1 ∨ gone q.mirrors.2 then { q with mirrors := chooseMirrors d } else q

/-! ### Capture (R325 to R327) -/

/-- The status line (R327). -/
def Queue.statusLine (q : Queue) : Nat :=
  q.accepted + 2 ^ 32 * q.completed + 2 ^ 64 * q.refused + 2 ^ 96 * q.refusals + 2 ^ 128 * q.reason + 2 ^ 131 * b2n q.partialSet
    + 2 ^ 132 * b2n q.lost + 2 ^ 133 * q.lostseq

/-- The queue takes its descriptor's context, function and priority, and its function's cap (R336). -/
def Mach.configured (m : Mach) (d : Dev) (q : Queue) (w : Nat) : Queue :=
  { q with ctx := descCtx w, fn := descFn w, prio := descPrio w, cap := m.fnCap d (descFn w) }

/-- A queue whose next record reaches the head, or which has none, takes its descriptor and its function's entry (R336). -/
def Mach.configure (m : Mach) (d : Dev) (q : Queue) (w : Nat) : Mach :=
  { m.setQueue (m.configured d q w) with shares := assign m.shares (descFn w) (m.fnShare d (descFn w)) }

/-- Why a captured record is refused, the first that applies (R326); 0 where it is accepted. -/
def Queue.refusal (q : Queue) (w r : Nat) : Nat :=
  if !descEnabled w || !q.enabled then 3
  else if recSeq r ≠ (q.accepted + 1) % 2 ^ 32 then 1
  else if Config.ringRecords ≤ q.ring.length then 2
  else 0

/-- A whole record arrives. -/
def Mach.captureRecord (m : Mach) (d : Dev) (qn w : Nat) (rec : BitVec 512) : Mach :=
  let q := m.queue qn
  let r := rec.toNat
  let why := q.refusal w r
  if why ≠ 0 then
    m.setQueue { q with refused := recSeq r, refusals := min (q.refusals + 1) 0xFFFFFFFF, reason := why }
  else
    let m0 := if q.ring.isEmpty then m.configure d q w else m
    let q1 := (if q.ring.isEmpty then m.configured d q w else q).mirrored d
    let serial := if recKind r = 1 then (m0.ctx q1.ctx).serial + 1 else 0
    let m1 := (if recKind r = 1 then m0.setCtx { m0.ctx q1.ctx with serial := serial } else m0).claim q1.fn q1.ctx
    let m2 := m1.setQueue { q1 with ring := q1.ring ++ [rec], serials := q1.serials ++ [serial], accepted := recSeq r }
    m2.showWatermark d q1.fn q1.ctx

/-- A write at a submission slot of a queue page of a function's window (R325, R387): a host's comes over a link, an application
core's full-line write-back over none. -/
def capture (d : Dev) (fn qn : Nat) (whole app : Bool) (rec : BitVec 512) (m : Mach) : Mach :=
  let w := m.queueDesc d qn
  if !(if app then d.appUp else d.answers fn) || descFn w != fn then m
  else if !whole then m.setQueue { m.queue qn with partialSet := true }
  else m.captureRecord d qn w rec

/-- Whether the physical function may change what concerns a function (R392). -/
def Dev.unlockedFn (d : Dev) (fn : Nat) : Bool :=
  fn == 0 || ((d.fnRec fn).tdisp != .locked && (d.fnRec fn).tdisp != .run)

/-- The status line and the expected number start anew (R326). -/
def Queue.enable (q : Queue) : Queue :=
  { q with
    enabled := true, accepted := 0, completed := 0, refused := 0, refusals := 0, reason := 0, partialSet := false, lost := false, lostseq := 0 }

/-- System software writes 1 to an enable that does not enable the queue yet (R336). -/
def queueEnable (d : Dev) (qn : Nat) (m : Mach) : Mach :=
  let w := m.queueDesc d qn
  let q := m.queue qn
  if !d.unlockedFn (descFn w) || (bitOf w 16 && q.enabled) then m
  else
    let w1 := Nat.lor w (2 ^ 16)
    let m1 := m.physWrite (d.fnKey 0) (d.queueTable + 16 * qn) (leBytes 16 w1)
    (if q.ring.isEmpty then m1.configure d q.enable w1 else m1.setQueue q.enable).showWatermark d (descFn w1) (descCtx w1)

/-! ### Places that the dispatcher reaches through range entries alone (R438) -/

inductive DispPlace where
  | ok (locs : List Loc)
  | none
  deriving DecidableEq, Repr

/-- `n` bytes at an address held by a range entry with a permission; none where none holds them or they cannot be reached. -/
def Mach.dispPlace (m : Mach) (d : Dev) (x : Ctx) (a n access : Nat) : DispPlace :=
  if x.ranges.any fun r => decide (r.base ≤ a) && decide (a + n ≤ r.limit) then
    match m.rangeRuns d x 0 a n access false with
    | .ok r => if (runLocs r).any d.unreadable then .none else .ok (runLocs r)
    | _ => .none
  else .none

/-- Whether a comparison holds (R331). -/
def depHolds (cmp w v : Nat) : Bool :=
  match cmp with
  | 0 => true
  | 1 => w == v
  | 2 => w != v
  | 3 => decide (v ≤ w)
  | 4 => decide (w < v)
  | _ => decide ((w + 2 ^ 32 - v) % 2 ^ 32 < 2 ^ 31)

/-! ### The head (R331, R332, R353) -/

/-- The record at the head begins, its dependence holding: the header is read where it is a LAUNCH or ORU record (R331, R353). -/
def Mach.beginRec (m : Mach) (d : Dev) (q : Queue) (r : Nat) : Mach :=
  let m1 := if recKind r = 1 ∨ recKind r = 2 then m.beginCtx d q.fn q.ctx else m
  if recKind r ≠ 1 ∧ recBad r then m1.setQueue { (q.retire 1 0 0) with begun := true }
  else m1.setQueue { q with begun := true, head := .ready, readyAt := m.dclock, aged := 0, blocking := false }

/-- What a dependence comes to: it holds or not, or its word cannot be read (R331, R438). The dispatcher reads the word at sys: at its
home. -/
def Mach.dependence (m : Mach) (d : Dev) (x : Ctx) (r : Nat) : Option Bool :=
  if recDepcmp r = 0 then some true
  else
    match m.dispPlace d x (recDepaddr r) 4 1 with
    | .none => none
    | .ok locs => some (depHolds (recDepcmp r) (leNat (locs.map (m.homeRead (x.key d)))) (recDepval r))

/-- The record at the head begins once its dependence holds (R331, R353): what is malformed in an ORU or MARK record itself, or
a reserved kind or comparison, completes it here (R330). A launch of a context whose range entries break their table is MALFORMED
whatever it depends on (R364). -/
def dependencePoll (d : Dev) (qn : Nat) (m : Mach) : Mach :=
  let q := m.queue qn
  match q.record with
  | none => m
  | some r =>
    if q.head ≠ .waiting then m
    else if q.killing ≠ 0 ∨ (q.ending ≠ 0 ∧ recKind r = 1) then m.setQueue (q.retire 4 0 0)
    else if depBad r then m.setQueue (q.retire 1 0 0)
    else
      let x := m.view d q.fn q.ctx
      if x.rangesMalformed ∧ recKind r = 1 then m.setQueue (q.retire 1 0 0)
      else
        match m.dependence d x r with
        | none => m.setQueue (q.retire 5 0 0)
        | some false => m
        | some true => m.beginRec d q r

/-- A LAUNCH record whose dependence holds is found MALFORMED or becomes admissible (R330). One that reaches this point while its
function's world closes is ended with the world's other launches, KILLED (R417; log entry 77). -/
def launchRecord (d : Dev) (qn : Nat) (m : Mach) : Mach :=
  let q := m.queue qn
  match q.record with
  | none => m
  | some r =>
    if q.head ≠ .ready ∨ recKind r ≠ 1 then m
    else if (d.fnRec q.fn).world == .closing then m.setQueue (q.retire 4 0 0)
    else if recBad r || m.unfit d (m.ctx q.ctx) then m.setQueue (q.retire 1 0 0)
    else
      let l : Launch :=
        { id := m.nextId, q := qn, ctx := q.ctx, record := BitVec.ofNat 512 r, serial := q.serials.headD 0, attempt := 0, admittedAt := none
          prio := q.prio, nextCrew := 0, cores := [], retired := 0, killed := false, failed := false }
      ({ m with launches := m.launches ++ [l], nextId := m.nextId + 1 } : Mach).setQueue { q with head := .running }

/-- A MARK record whose dependence holds has no work (R328). -/
def markRecord (d : Dev) (qn : Nat) (m : Mach) : Mach :=
  let q := m.queue qn
  match q.record with
  | none => m
  | some r =>
    if q.head ≠ .ready ∨ recKind r ≠ 3 then m
    else m.setQueue (q.retire (if (m.view d q.fn q.ctx).ortMalformed then 1 else 0) 0 0)

/-- An ORU record of one code at the head: refused as R99 gives, or worked on until its effect is complete (R100). -/
def oruRecord (code qn : Nat) (work : Nat → Nat → Mach → Mach × Bool) (m : Mach) : Mach :=
  let q := m.queue qn
  match q.record with
  | none => m
  | some r =>
    let x := m.ctx q.ctx
    if q.head ≠ .ready ∨ recKind r ≠ 2 ∨ oruCode r ≠ code then m
    else if x.ortMalformed || (code != 2 && decide (2 ^ x.slotLog ≤ oruSlot r)) then m.setQueue (q.retire 1 0 0)
    else
      let w := work q.ctx (oruSlot r) m
      if w.2 then w.1.setQueue (q.retire 0 0 0) else w.1

/-- EVICT: the slot's copy leaves, after any pin (R90, R91, R99). -/
def evictWork (d : Dev) (ctx slot : Nat) (m : Mach) : Mach × Bool :=
  match (m.ctx ctx).slot slot with
  | some s => if s.state = 4 ∨ s.state = 5 then m.evictStep d ctx slot false else (m, true)
  | none => (m, true)

/-- RECLAIM: every reclaimable slot is reclaimed (R82, R99), those too whose copies are already on their way home for it. -/
def reclaimWork (d : Dev) (ctx : Nat) (m : Mach) : Mach × Bool :=
  ((m.ctx ctx).reclaiming ++ m.reclaimable ctx).foldl (fun (p : Mach × Bool) n => let r := p.1.evictStep d ctx n true; (r.1, p.2 && r.2)) (m, true)

/-- WRITEBACK: the written bytes reach the home while the copy stays (R96, R99). -/
def writebackWork (d : Dev) (ctx slot : Nat) (m : Mach) : Mach × Bool :=
  match (m.ctx ctx).slot slot with
  | some s =>
    if s.state ≠ 4 then (m, true)
    else
      let r := m.writeBackAll.writeBackSlot d ctx slot (0, 0)
      (r.1, r.2 && !r.1.writingBack ctx slot)
  | none => (m, true)

/-! ### Completion records (R333, R334, R438) -/

/-- The record's 16 bytes (R333). -/
def Queue.completionWord (q : Queue) (r : Nat) : Nat :=
  recSeq r + 2 ^ 32 * q.status + 2 ^ 48 * q.attempt + 2 ^ 64 * q.clocks

/-- The next record reaches the head and the descriptor's changes take effect (R332, R336). -/
def Queue.advance (q : Queue) (r : Nat) (written : Bool) : Queue :=
  { q with
    ring := q.ring.tail, serials := q.serials.tail, head := .waiting, begun := false, completed := recSeq r, aged := 0, blocking := false
    killing := q.killing - 1, ending := q.ending - 1, lost := q.lost || !written, lostseq := if written then q.lostseq else recSeq r }

/-- Bytes that the part writes at places of its own finding. -/
def Mach.partWriteAt (m : Mach) (k : Key) (l : List (Loc × Byte)) : Mach := l.foldl (fun m p => m.partWrite k p.1 p.2) m

/-- The queue goes on after a completion record (R334, R438). -/
def Mach.completed (m : Mach) (d : Dev) (q : Queue) (r : Nat) (written : Bool) : Mach :=
  let m1 := (m.configure d (q.advance r written) (m.queueDesc d q.q)).endUse q.ctx
  if recKind r = 1 then m1.showWatermark d q.fn q.ctx else m1

/-- The completion record of a retired record is written once all its writes are performed at sys (R334). -/
def completionRecord (d : Dev) (qn : Nat) (m : Mach) : Mach :=
  let q := m.queue qn
  match q.record with
  | none => m
  | some r =>
    if q.head ≠ .retired then m
    else
      let rel := m.writeBackAll.release d q.ctx 0 5 63 (0, 0)
      if !rel.2 then rel.1
      else
        let x := rel.1.view d q.fn q.ctx
        match (if x.rangesMalformed then DispPlace.none else rel.1.dispPlace d x (recCompl r) 16 2) with
        | .ok locs => (rel.1.partWriteAt (x.key d) (locs.zip (leBytes 16 (q.completionWord r)))).completed d q r true
        | .none => rel.1.completed d q r false

/-! ### Steps -/

/-- CAPTURE (R325, R326). -/
def execCapture (s : State) : Host.Outcome State Fault Refusal :=
  match s.arg with
  | .capture fn q _ whole app rec => .next { s with m := capture s.dev fn.toNat q.toNat whole app rec s.m }
  | _ => .refused .noOperands

/-- QUEUE_ENABLE (R336). -/
def execQueueEnable (s : State) : Host.Outcome State Fault Refusal :=
  match s.arg with
  | .queueEnable q => .next { s with m := queueEnable s.dev q.toNat s.m }
  | _ => .refused .noOperands

/-- DEPENDENCE_POLL (R331). -/
def execDependencePoll (s : State) : Host.Outcome State Fault Refusal :=
  match s.arg with
  | .dependencePoll q => .next { s with m := dependencePoll s.dev q.toNat s.m }
  | _ => .refused .noOperands

/-- LAUNCH (R330). -/
def execLaunch (s : State) : Host.Outcome State Fault Refusal :=
  match s.arg with
  | .launch q => .next { s with m := launchRecord s.dev q.toNat s.m }
  | _ => .refused .noOperands

/-- MARK (R328). -/
def execMark (s : State) : Host.Outcome State Fault Refusal :=
  match s.arg with
  | .mark q => .next { s with m := markRecord s.dev q.toNat s.m }
  | _ => .refused .noOperands

/-- EVICT (R99). -/
def execEvict (s : State) : Host.Outcome State Fault Refusal :=
  match s.arg with
  | .evict q => .next { s with m := oruRecord 1 q.toNat (evictWork s.dev) s.m }
  | _ => .refused .noOperands

/-- RECLAIM (R99). -/
def execReclaim (s : State) : Host.Outcome State Fault Refusal :=
  match s.arg with
  | .reclaim q => .next { s with m := oruRecord 2 q.toNat (fun ctx _ => reclaimWork s.dev ctx) s.m }
  | _ => .refused .noOperands

/-- WRITEBACK (R99). -/
def execWriteback (s : State) : Host.Outcome State Fault Refusal :=
  match s.arg with
  | .writeback q => .next { s with m := oruRecord 3 q.toNat (writebackWork s.dev) s.m }
  | _ => .refused .noOperands

/-- COMPLETION_RECORD (R334); a closing world ends with the last one of its ended launches (R417). -/
def execCompletionRecord (s : State) : Host.Outcome State Fault Refusal :=
  match s.arg with
  | .completionRecord q =>
    let m := completionRecord s.dev q.toNat s.m
    .next { s with m := m, dev := s.dev.settleWorlds m }
  | _ => .refused .noOperands

end Sys2Proof.Machine
end

