-- ==== Sys2Proof/Machine/Service.lean ====
section
/-! DEFINITION. The request ring (R354 to R357): the entries of SVC, TRAP and BKPT, the responses and the actions they ask for, with
the steps REQUEST_RING_WRITE, RESPONSE_DOORBELL and RESPONSE_DOORBELL_KILL. -/

namespace Sys2Proof.Machine

/-! ### Writing entries (R225, R351, R355) -/

def Ctx.ringBase (x : Ctx) : Nat := bitsOf x.ring.toNat 255 192
def Ctx.ringLog (x : Ctx) : Nat := x.ring.toNat % 32

/-- The context seen through the one entry that holds its request ring (R354). -/
def Ctx.viaRing (x : Ctx) : Ctx := x.via [1, 3] x.ringBase (64 * 2 ^ x.ringLog)

/-- One entry (R355). -/
def ringEntry (token crew : Nat) (gmask : BitVec 32) (fibre kind code body : Nat) : Nat :=
  body % 2 ^ 384 + code % 256 * 2 ^ 384 + kind * 2 ^ 396 + fibre * 2 ^ 405 + gmask.toNat * 2 ^ 416 + crew % 2 ^ 32 * 2 ^ 448
    + token % 2 ^ 32 * 2 ^ 480

/-- The entries a gang asks for: lane, kind, code, body and the first result register. -/
def Crew.requests (c : Crew) (g : Gang) : List (Nat × Nat × Nat × Nat × Nat) :=
  match g.ringWait, (c.lanes g).head? with
  | some (1, code, vd), _ => (c.lanes g).map fun f => (f.slot, 1, code, f.val vd 12, vd)
  | some (2, code, info), some f => [(f.slot, 2, code, info % 2 ^ 64 + 2 ^ 64 * resumeWord g.hdr g.idx, 0)]
  | some (_, code, _), some f => [(f.slot, 3, code, 2 ^ 64 * resumeWord g.bump.hdr g.bump.idx, 0)]
  | _, _ => []

/-- Entries written one after another from a place in the ring. -/
def Mach.writeEntries (m : Mach) (d : Dev) (x : Ctx) (c : Crew) (g : Gang) :
    Nat → List (Nat × Nat × Nat × Nat × Nat) → Mach
  | _, [] => m
  | k, (slot, kind, code, body, vd) :: t =>
    let a := x.ringBase + 64 * (k % 2 ^ x.ringLog)
    let r : RingReq :=
      { token := m.nextToken, ctx := x.addr, crew := c.id, gang := g.id, kind := kind, slot := slot, vd := vd, entry := a, order := k }
    let m1 := m.vaWrite d x.viaRing a (leBytes 64 (ringEntry m.nextToken c.idx g.mask slot kind code body))
    Mach.writeEntries { m1 with rings := m1.rings ++ [r], nextToken := (m1.nextToken + 1) % 2 ^ 32 } d x c g (k + 1) t

/-- A stopped gang's entries are written once the ring has room for all of them, those of the gang that stopped first before
others, then prod, and the service interrupt is raised. -/
def ringWrite (d : Dev) (r : GangRef) (m : Mach) : Mach :=
  match m.env d r with
  | none => m
  | some E =>
    let reqs := E.c.requests E.g
    let prod := m.headerNat d E.x 0x70 4
    let cons := m.headerNat d E.x 0x74 4
    let used := (prod + 2 ^ 32 - cons) % 2 ^ 32
    let first := m.crews.all fun c => c.ctx != E.x.addr || c.gangs.all fun g => g.ringWait.isNone || decide (E.g.ringAt ≤ g.ringAt)
    let open_ := (List.range reqs.length).all fun i => m.ringOpen d E.x.viaRing (E.x.ringBase + 64 * ((prod + i) % 2 ^ E.x.ringLog)) 64
    if !first ∨ reqs = [] ∨ 2 ^ E.x.ringLog < used + reqs.length ∨ !open_ then m
    else
      let m1 := m.writeEntries d E.x E.c E.g prod reqs
      let m2 := m1.physWrite (d.fnKey E.x.fn) (E.x.addr + 0x70) (leBytes 4 (prod + reqs.length))
      (m2.updGang r.crew r.gang fun g => { g with ringWait := none }).raiseIrq E.x.fn 1

/-! ### Responses (R356, R357) -/

/-- What the image of a pre-empted crew shows of where a gang's fibres stand: their program counters and park reasons (R359). -/
def Mach.showStop (m : Mach) (d : Dev) (crew gang : Nat) : Mach :=
  match m.crew crew with
  | none => m
  | some c =>
    match c.gang gang with
    | none => m
    | some g =>
      let k := (m.ctx c.ctx).key d
      (c.lanes g).foldl (fun m f =>
        (m.imageWrite k c (blockOffset f.slot) (leBytes 8 (resumeWord g.hdr g.idx))).imageWrite k c (blockOffset f.slot + 10)
          (leBytes 1 g.reasonCode)) m

/-- A stopped gang goes on, or waits for the resumption of its pre-empted crew, whose image shows where it stands (R361). -/
def Mach.release1 (m : Mach) (d : Dev) (c : Crew) (gang : Nat) : Mach :=
  if c.preempted then
    (m.updGang c.id gang fun g => { g with wake := .none, state := .parked .preempt }).showStop d c.id gang
  else m.wakeGang c.id gang

/-- The 16 bytes over an entry's body; a free value where they cannot be read. -/
def Mach.response (m : Mach) (d : Dev) (r : RingReq) : Nat :=
  match m.vaNat d (m.ctx r.ctx).viaRing r.entry 16 with
  | some v => v
  | none => (Config.freeOf 356 r.token 0).toNat + 2 ^ 64 * (Config.freeOf 356 r.token 1).toNat

/-- The response of an SVC entry lands in its lane; with the last one the gang goes on after the SVC (R225). -/
def Mach.svcAnswer (m : Mach) (d : Dev) (c : Crew) (r : RingReq) : Mach :=
  let v := m.response d r
  let m0 := m.updFibre c.id r.slot fun f => f.setVal r.vd 4 v
  -- the register lines of a pre-empted crew's fibre stand in its image, where only these four registers change
  let m1 := if c.preempted then m0.imageWrite ((m.ctx c.ctx).key d) c (c.lineOffset r.slot + 4 * r.vd) (leBytes 16 v) else m0
  if m1.rings.any fun q => q.crew == r.crew && q.gang == r.gang then m1
  else ((m1.discard c.core 5 63).updGang c.id r.gang Gang.bump).release1 d c r.gang

/-- A gang leaves the debugger: with the last one held the stop-all ends (R362). -/
def Mach.endHold (m : Mach) (crew : Nat) : Mach :=
  m.updCrew crew fun c => { c with stopAll := c.stopAll && c.gangs.any fun g => g.state == .parked .bkpt }

/-- The action of a TRAP or BKPT response, read with an acquire at sys (R356). A gang that is to go on in a clause whose header cannot be
read yet does so once it can (R373). -/
def Mach.actOn (m : Mach) (d : Dev) (c : Crew) (r : RingReq) : Mach :=
  let v := m.response d r
  let resume := v / 2 ^ 64
  let x := m.ctx r.ctx
  if v % 2 ^ 64 = 0 ∧ m.resumeCheck d x (c.core / 4) resume ≠ .bad then
    (((m.discard c.core 5 63).updGang c.id r.gang fun g => m.resumeAt d x g resume).release1 d c r.gang).endHold c.id
  else m.endLaunch d c.launch false

/-- A store to the response doorbell of a function (R356). -/
def respond (d : Dev) (fn token : Nat) (kill : Bool) (m : Mach) : Mach :=
  match m.rings.find? fun r => r.token == token && (m.ctx r.ctx).fn == fn && d.answers fn with
  | none => m
  | some r =>
    let m1 := { m with rings := m.rings.filter fun q => q.token != token }
    match m1.crew r.crew with
    | none => m1
    | some c =>
      if kill then m1.endLaunch d c.launch false
      else if r.kind = 1 then m1.svcAnswer d c r
      else m1.actOn d c r

/-- A gang reads the header of the clause that it goes on in (R357): an index beyond its count ends the launch. -/
def Mach.readResume (m : Mach) (E : Env) : Mach :=
  let w := resumeWord E.g.hdr E.g.idx
  match m.resumeCheck E.d E.x E.cluster w with
  | .ok => m.updGang E.c.id E.g.id fun g => { g with header := (m.headerAt E.d E.x E.g.hdr).getD 0 }
  | .bad => m.endLaunch E.d E.c.launch false
  | .fault va c l => fetchFailed E m (.fault va c l)
  | .unreadable => fetchFailed E m .unreadable

/-- REQUEST_RING_WRITE (R225, R351, R355, R380). -/
def execRequestRingWrite (s : State) : Host.Outcome State Fault Refusal :=
  match s.arg with
  | .requestRingWrite g => .next { s with m := ringWrite s.dev g s.m }
  | _ => .refused .noOperands

/-- RESPONSE_DOORBELL (R356, R357). -/
def execResponseDoorbell (s : State) : Host.Outcome State Fault Refusal :=
  match s.arg with
  | .responseDoorbell fn token => .next { s with m := respond s.dev fn.toNat token.toNat false s.m }
  | _ => .refused .noOperands

/-- RESPONSE_DOORBELL_KILL (R356, R357). -/
def execResponseDoorbellKill (s : State) : Host.Outcome State Fault Refusal :=
  match s.arg with
  | .responseDoorbellKill fn token => .next { s with m := respond s.dev fn.toNat token.toNat true s.m }
  | _ => .refused .noOperands

end Sys2Proof.Machine
end

