-- ==== Sys2Proof/Machine/Paging.lean ====
section
/-! DEFINITION. The answers of the fault service (R376), walks that fill a translation cache (R372), shootdown (R378, R379), the
pre-emption register (R390) and the other management registers (R389, R391), with the steps FAULT_DOORBELL_RETRY,
FAULT_DOORBELL_ERROR, FAULT_QUEUE_WRITE, PAGE_WALK, INVALIDATION, INVALIDATION_COMPLETE, PREEMPTION_PREEMPT,
PREEMPTION_RESUME and REGISTER_WRITE. -/

namespace Sys2Proof.Machine

/-! ### Fault records answered (R376) -/

/-- One requester joined to a record re-executes; with `err` it takes the error when its walk of the page fails again. -/
def Mach.answerOne (m : Mach) (d : Dev) (token : Nat) (page : Option Nat) (q : Requester) : Mach :=
  let left := fun (l : List Nat) => l.filter (· != token)
  match q with
  | .lane crew slot => m.updFibre crew slot fun f => { f with carry := { f.carry with errorPage := page } }
  | .fetch r =>
    match (m.crew r.crew).bind fun c => (c.gang r.gang).map fun g => (c, g) with
    | some (c, g) => m.updGang c.id g.id fun g => { g with fetchError := page }
    | none => m
  | .channel crew ch =>
    m.updCrew crew fun c => { c with channels := c.channels.map fun h => if h.n == ch then { h with wait := left h.wait, errorPage := page } else h }
  | .cursor crew n =>
    m.updCrew crew fun c => { c with cursors := c.cursors.map fun h => if h.n == n then { h with wait := left h.wait, errorPage := page } else h }
  | .binning crew =>
    m.updCrew crew fun c => { c with binning := c.binning.map fun b => { b with wait := left b.wait, errorPage := page } }
  | .oru ctx slot =>
    match (m.ctx ctx).slot slot with
    | some s => m.setSlot d ctx { s with wait := left s.wait, errorPage := page }
    | none => m
  | .fabric ctx node msg =>
    if page.isSome then
      let gone := m.inMsgs.filter fun i => i.ctx == ctx && i.node == node && i.msg == msg && i.pull.isNone && i.oru.isNone
      { m with
        inMsgs := m.inMsgs.filter fun i => !gone.contains i
        tokens := m.tokens.filter fun t => !gone.any fun i => i.id == t.msg
        closed := (node, msg) :: m.closed }
    else m
  | .post _ => m

/-- Gangs parked on a record's token made ready. -/
def Mach.wakeFault (m : Mach) (token : Nat) : Mach :=
  (m.crews.flatMap fun c => (c.gangs.filter fun g => g.wake == .fault token).map fun g => (c.id, g.id)).foldl
    (fun m p => m.wakeGang p.1 p.2) m

/-- A store to a function's fault doorbell: the record that it names is outstanding no longer. -/
def faultAnswer (d : Dev) (fn token : Nat) (err : Bool) (m : Mach) : Mach :=
  match m.faults.find? fun r => r.token == token && r.fn == fn && r.written && d.answers fn with
  | none => m
  | some r =>
    let page := if err then some (pageOf r.va) else none
    let m1 := { m with faults := m.faults.filter fun q => q.token != token }
    (r.joined.foldl (fun m q => m.answerOne d token page q) m1).wakeFault token

/-! ### Walks (R372) -/

/-- The context and core of a requester. -/
def Mach.requesterPlace (m : Mach) (q : Requester) : Option (Nat × Nat) :=
  let ofCrew := fun (c : Nat) => (m.crew c).map fun c => (c.ctx, c.core)
  match q with
  | .lane c _ | .channel c _ | .cursor c _ | .binning c => ofCrew c
  | .fetch r => ofCrew r.crew
  | .post id => (m.posts.find? fun p => p.id == id).bind fun p => ofCrew p.crew
  | .fabric ctx _ _ | .oru ctx _ => some (ctx, 0)

/-- A walk for an access fills the cluster's translation cache when it succeeds, and leaves nothing in it when it fails, for its
permission or its space too (R372); the access that asks takes the fault (R373). -/
def pageWalk (d : Dev) (q : Requester) (va access : Nat) (m : Mach) : Mach :=
  match m.requesterPlace q with
  | none => m
  | some (ctx, core) =>
    let x := m.ctx ctx
    if va < 4096 ∨ (x.ranges.any fun r => decide (r.base ≤ va) && decide (va < r.limit)) ∨ x.root = 0 then m
    else
      match m.walk d (d.fnKey x.fn) va x.root [4, 3, 2, 1, 0] with
      | .fault .. => m
      | .leaf l =>
        let t : Tlb := ⟨core / 4, ctx, l.page, l.size, l.frame, l.cls, l.cipher, l.perm, l.keyId, l.level⟩
        let reached := match m.intoSpace d x l.cls (l.frame + (va - l.page)) access l.level l.cipher l.keyId none with
          | .ok _ => true
          | _ => false
        if !permits l.perm access || !reached then m
        else if m.tlb.any fun o => o.cluster == t.cluster && o.ctx == ctx && o.page ≤ va && va < o.page + o.size then m
        else { m with tlb := t :: m.tlb }

/-! ### Shootdown (R378, R379) -/

def invalidation (d : Dev) (fn : Nat) (desc : BitVec 256) (m : Mach) : Mach :=
  let w := desc.toNat
  if !d.answers fn then m
  else
    let ok := w % 8 == 0 && invCompl w % 8 == 0 && invVa w % 4096 == 0 && (fn == 0 || m.ownedBy d (invCtx w) fn)
    { m with invals := m.invals ++ [⟨fn, desc, ok⟩] }

/-- Whether an engine of a context still holds translations it made (R379 step 2). -/
def Mach.oldInFlight (m : Mach) (ctx : Nat) : Bool :=
  m.crews.any fun c => c.ctx == ctx &&
    ((c.copies.any fun p => !p.done) || !c.gpasses.isEmpty
      || (m.fabOut.any fun o => o.crew == c.id && match o.kind with | .word .. => true | _ => false) || m.posts.any fun p => p.crew == c.id &&
      match p.op with
      | .mma .. | .bldFree | .azero .. => false
      | _ => true)

/-- The oldest invalidation of a function completes once every write made with an old translation is performed at sys and every
read has returned (R379). -/
def invalidationComplete (d : Dev) (fn : Nat) (m : Mach) : Mach :=
  match m.invals.find? fun v => v.fn == fn with
  | none => m
  | some v =>
    let w := v.desc.toNat
    let rest := m.invals.erase v
    let answer := fun (m : Mach) (bit : Nat) =>
      ({ m with invals := rest } : Mach).physWrite (d.fnKey fn) (invCompl w) (leBytes 8 (invTag w + 2 ^ bit))
    if !v.ok then answer m 62
    else
      let mine := m.crews.filter fun c => c.ctx == invCtx w
      let m1 := mine.foldl (fun m c => c.fibres.foldl (fun m f => m.drainSome d c.id f.slot (f.stores.length + 8)) m) m
      let left := m1.crews.any fun c => c.ctx == invCtx w && c.fibres.any fun f => !f.stores.isEmpty
      if left || m1.oldInFlight (invCtx w) then m1
      else
        -- Class N's point of sys is the object's home (R120, R96).
        let r := m1.writeBackAll.homeContext d fn (invCtx w)
        if r.2 then answer { r.1 with tlb := r.1.tlb.filter fun t => !t.hitBy w } 63 else r.1

/-! ### Management registers (R389 to R391) -/

/-- The pre-emption register (R390): pre-empt parks every crew of the context and holds its admissions, resume lets them go on. -/
def preemptRegister (d : Dev) (fn ctx action : Nat) (m : Mach) : Mach :=
  if !d.answers fn || !m.ownedBy d ctx fn then m
  else
    let mine := (m.crews.filter fun c => c.ctx == ctx).map (·.id)
    if action = 1 then
      mine.foldl (fun m c => m.requestPreempt d c 2) (m.setCtx { m.ctx ctx with fn := fn, held := true })
    else if action = 2 then
      -- A coresident launch of which crews have parked resumes whole, once all have (R40).
      let waiting := (m.crews.filter fun c => c.ctx == ctx && c.preempt == 2
          && (m.together c).all fun k => (m.crew k).all fun e => !e.preempted).map (·.id)
      waiting.foldl (fun m c => m.resumeCrew d c) (m.setCtx { m.ctx ctx with held := false })
    else m

/-- A table address that a register takes (R389). -/
def tableAddr (v : Nat) : Bool := v % 4096 == 0 && (hbmLinear v).isSome

/-- Bytes of a wide register replaced. -/
def mergeBytes (old off n v : Nat) : Nat := old - old / 2 ^ (8 * off) % 2 ^ (8 * n) * 2 ^ (8 * off) + v % 2 ^ (8 * n) * 2 ^ (8 * off)

/-- A write to a register that only keeps what is written (R389). -/
def Dev.registerWrite (d : Dev) (fn off bytes v : Nat) : Dev :=
  if !d.answers fn then d
  else if 0x8000 ≤ off ∧ off + bytes ≤ 0x8030 then
    { d with msix := assign d.msix fn (BitVec.ofNat 384 (mergeBytes (lookupD d.msix fn 0).toNat (off - 0x8000) bytes v)) }
  else if fn ≠ 0 then d
  else if off = 0x10 then (if bytes = 8 ∧ tableAddr v then { d with queueTable := v } else d)
  else if off = 0x18 then (if bytes = 8 ∧ tableAddr v then { d with fnTable := v } else d)
  else if off = 0x20 then (if bytes = 8 ∧ tableAddr v then { d with faultTable := v } else d)
  else if 0x1000 ≤ off ∧ off + bytes ≤ 0x1600 ∧ (bytes = 16 ∨ bytes = 8) ∧ off % bytes = 0 then
    let i := (off - 0x1000) / 16
    if !d.unlockedFn (i + 1) then d
    else { d with apertures := d.apertures.modify i fun w => BitVec.ofNat 128 (mergeBytes w.toNat (off % 16) bytes v) }
  else d

/-- The TDISP code of R389. -/
def tdispCode : TdispState → Nat
  | .unlocked => 0 | .locked => 1 | .run => 2 | .error => 3

/-- The 8 bytes of a function's register page at an aligned offset, over a link (R389). -/
def Dev.registerRead (d : Dev) (fn link off : Nat) : Nat :=
  if off = 0 then 0xD290 + fn * 2 ^ 16 + link * 2 ^ 24
  else if off = 8 then tdispCode (d.fnRec fn).tdisp
  else if 0x8000 ≤ off ∧ off < 0x8030 then bitsOf (lookupD d.msix fn 0).toNat (8 * (off - 0x8000) + 63) (8 * (off - 0x8000))
  else if fn ≠ 0 then 0
  else if off = 0x10 then d.queueTable
  else if off = 0x18 then d.fnTable
  else if off = 0x20 then d.faultTable
  else if 0x1000 ≤ off ∧ off < 0x1600 then
    -- The reserved bits of an entry read 0 (R16, R391).
    let w := (d.apertures.getD ((off - 0x1000) / 16) 0).toNat
    (bitsOf w 105 64 * 2 ^ 64 + bitsOf w 41 0) / 2 ^ (8 * (off % 16)) % 2 ^ 64
  else 0

/-- A byte of a function's register page (R389). -/
def Dev.registerByte (d : Dev) (fn link i : Nat) : Byte := BitVec.ofNat 8 (d.registerRead fn link (i / 8 * 8) / 256 ^ (i % 8))

/-- A host's read of some bytes of a function's register page, wherever they start, where the part answers it (R389). -/
def Mach.readRegister (m : Mach) (d : Dev) (fn off n : Nat) : Mach :=
  if d.answers fn then { m with hostRead := (List.range n).map fun i => d.registerByte fn d.link (off + i) } else m

/-! ### Steps -/

/-- FAULT_DOORBELL_RETRY (R376). -/
def execFaultDoorbellRetry (s : State) : Host.Outcome State Fault Refusal :=
  match s.arg with
  | .faultDoorbellRetry fn token => .next { s with m := faultAnswer s.dev fn.toNat token.toNat false s.m }
  | _ => .refused .noOperands

/-- FAULT_DOORBELL_ERROR (R376). -/
def execFaultDoorbellError (s : State) : Host.Outcome State Fault Refusal :=
  match s.arg with
  | .faultDoorbellError fn token => .next { s with m := faultAnswer s.dev fn.toNat token.toNat true s.m }
  | _ => .refused .noOperands

/-- FAULT_QUEUE_WRITE (R374, R375). -/
def execFaultQueueWrite (s : State) : Host.Outcome State Fault Refusal :=
  match s.arg with
  | .faultQueueWrite fn => .next { s with m := s.m.writeFault s.dev fn.toNat }
  | _ => .refused .noOperands

/-- PAGE_WALK (R372). -/
def execPageWalk (s : State) : Host.Outcome State Fault Refusal :=
  match s.arg with
  | .pageWalk q va access => .next { s with m := pageWalk s.dev q va.toNat access.toNat s.m }
  | _ => .refused .noOperands

/-- INVALIDATION (R378). -/
def execInvalidation (s : State) : Host.Outcome State Fault Refusal :=
  match s.arg with
  | .invalidation fn desc => .next { s with m := invalidation s.dev fn.toNat desc s.m }
  | _ => .refused .noOperands

/-- INVALIDATION_COMPLETE (R379). -/
def execInvalidationComplete (s : State) : Host.Outcome State Fault Refusal :=
  match s.arg with
  | .invalidationComplete fn => .next { s with m := invalidationComplete s.dev fn.toNat s.m }
  | _ => .refused .noOperands

/-- PREEMPTION_PREEMPT (R360, R390). -/
def execPreemptionPreempt (s : State) : Host.Outcome State Fault Refusal :=
  match s.arg with
  | .preemptionPreempt fn ctx => .next { s with m := preemptRegister s.dev fn.toNat (4096 * ctx.toNat) 1 s.m }
  | _ => .refused .noOperands

/-- PREEMPTION_RESUME (R390). -/
def execPreemptionResume (s : State) : Host.Outcome State Fault Refusal :=
  match s.arg with
  | .preemptionResume fn ctx => .next { s with m := preemptRegister s.dev fn.toNat (4096 * ctx.toNat) 2 s.m }
  | _ => .refused .noOperands

/-- REGISTER_WRITE (R389, R391). -/
def execRegisterWrite (s : State) : Host.Outcome State Fault Refusal :=
  match s.arg with
  | .registerWrite fn off bytes value => .next { s with dev := s.dev.registerWrite fn.toNat off.toNat bytes value.toNat }
  | _ => .refused .noOperands

end Sys2Proof.Machine
end

