-- ==== Sys2Proof/Machine/HostIn.lean ====
section
/-! DEFINITION. What hosts and downstream devices do to the part: persistent write-backs (R139, R397), the memory range of a
function (R387, R388), ATS (R394, R395), TDISP and IDE (R392, R393), with the steps DOWNSTREAM_ACK, PERSIST_TIMEOUT,
DOWNSTREAM_LINK_DOWN, HOST_LINK_TRAINING, HOST_APERTURE_ACCESS, ATS_INVALIDATE, ATS_INVALIDATE_TIMEOUT, IDE_INTEGRITY_FAILURE,
IDE_KEY_MANAGEMENT and TDISP_MESSAGE. -/

namespace Sys2Proof.Machine

/-! ### Downstream devices (R139, R396, R397) -/

def Mach.failPersist (m : Mach) (p : PersistOut → Bool) : Mach :=
  { m with persist := m.persist.map fun o => if p o then { o with failed := true } else o }

/-- A device completes a write-back: its bytes stand in the persistence domain, or it returns an error. -/
def downstreamAck (id : Nat) (err : Bool) (m : Mach) : Mach :=
  match m.persist.find? fun o => o.id == id && !o.failed with
  | none => m
  | some o =>
    if err then m.failPersist fun q => q.id == id
    else
      { m with
        durable := o.cells.foldl (fun (d : Memory) c => d.write c.1 c.2) m.durable
        -- An older write-back that comes later changes no byte of this one.
        persist := (m.persist.filter fun q => q.id != id).map fun q =>
          if q.id < id then { q with cells := q.cells.filter fun c => !o.cells.any fun b => b.1 == c.1 } else q
        pnames := m.pnames.filter fun a =>
          !((List.range 16).all fun i => o.cells.any fun b => b.1 == a + i) }

/-- A write-back not completed within 1 ms. -/
def persistTimeout (id : Nat) (m : Mach) : Mach :=
  m.failPersist fun o => o.id == id && decide (o.sent + Config.clocks1ms ≤ m.dclock)

/-! ### A function's memory range (R387, R388, R391, R392) -/

/-- A function's aperture, as base and size; none where its entry gives none (R391). -/
def Dev.aperture (d : Dev) (fn : Nat) : Option (Nat × Nat) :=
  if fn = 0 then some (0, Config.hbmBytes)
  else
    let w := (d.apertures.getD (fn - 1) 0).toNat
    let size := bitsOf w 105 64
    let base := bitsOf w 41 0
    if bitsOf w 127 106 ≠ 0 ∨ bitsOf w 63 42 ≠ 0 ∨ size = 0 ∨ size % 2 ^ 21 ≠ 0 ∨ base % 2 ^ 21 ≠ 0 ∨ Config.hbmBytes < base + size then none
    else some (base, size)

/-- Whether a write of the physical function to a byte is ignored: it lies in the function entry of a locked virtual function or
in a queue descriptor that names one (R392). -/
def Mach.lockedByte (m : Mach) (d : Dev) (q : Nat) : Bool :=
  (match tableOffset d.fnTable 1 q with | some o => decide (o < 776) && !d.unlockedFn (o / 8) | none => false)
    || match tableOffset d.queueTable 64 q with | some o => !d.unlockedFn (descFn (m.queueDesc d (o / 16))) | none => false

/-- The bytes of a host's write through an aperture that are performed: what a locked function keeps from the physical function is
judged by the descriptors as they stand before the write. -/
def Mach.taken (m : Mach) (d : Dev) (fn q : Nat) (bytes : List Byte) : List (Nat × Byte) :=
  (((List.range bytes.length).map (q + ·)).zip bytes).filter fun p => !d.unreadable ⟨.hbm, p.1⟩ && !(fn == 0 && m.lockedByte d p.1)

/-- 8-byte words that a write leaves as zeros are known to be written (R336). -/
def Mach.noteZeros (m : Mach) (k : Key) (words : List Nat) : Mach :=
  { m with zeroWords := (words.filter fun w => !m.zeroWords.contains w && (List.range 8).all fun i => m.hbmRead k (8 * w + i) == 0) ++ m.zeroWords }

/-- Bytes that a host writes through an aperture, performed at their home basins under the function's world. -/
def Mach.apertureBytes (m : Mach) (d : Dev) (fn q : Nat) (bytes : List Byte) : Mach :=
  let l := m.taken d fn q bytes
  (l.foldl (fun (m : Mach) p => m.homeWrite (d.fnKey fn) ⟨.hbm, p.1⟩ p.2) m).noteZeros (d.fnKey fn) ((l.map fun p => p.1 / 8).dedup)

/-- Queues whose descriptors a write has just enabled start anew (R326, R336). -/
def Mach.enabledBy (old m : Mach) (d : Dev) (q n : Nat) : Mach :=
  let touched := ((List.range n).filterMap fun i => (tableOffset d.queueTable 64 (q + i)).map fun o => o / 16).dedup
  touched.foldl
    (fun (m : Mach) (k : Nat) =>
      let w := m.queueDesc d k
      if bitOf w 16 ∧ !bitOf (old.queueDesc d k) 16 then
        let e := (m.queue k).enable
        (if e.ring.isEmpty then m.configure d e w else m.setQueue e).showWatermark d (descFn w) (descCtx w)
      else m) m

/-- A write to a page of the command window (R324, R325, R387). -/
def Mach.commandWrite (m : Mach) (d : Dev) (fn off : Nat) (bytes : List Byte) : Mach :=
  if off % 4096 < 2048 ∧ bytes ≠ [] then
    capture d fn (off / 4096) (off % 64 == 0 && bytes.length == 64) false (BitVec.ofNat 512 (leNat (bytes.take 64))) m
  else m

/-- A byte that a host reads of a page of the command window (R324, R327, R387). -/
def Mach.commandByte (m : Mach) (d : Dev) (fn off : Nat) : Byte :=
  let qn := off / 4096
  let o := off % 4096
  if descFn (m.queueDesc d qn) = fn ∧ 0x800 ≤ o ∧ o < 0x840 then BitVec.ofNat 8 ((m.queue qn).statusLine / 256 ^ (o - 0x800)) else 0

/-- The 64-byte line of a function's memory range that a host reads, where a row of R387 covers it: command window or aperture, whose
bytes are read at their home under the function's world (R388). What a byte of a retired stack returns is free. -/
def Mach.hostLine (m : Mach) (d : Dev) (fn off : Nat) : Option (List Byte) :=
  let lo := off / 64 * 64
  if lo < 2 ^ 26 then some ((List.range 64).map fun i => m.commandByte d fn (lo + i))
  else
    match d.aperture fn with
    | none => none
    | some (base, size) =>
      if size < lo - 2 ^ 26 + 64 then none
      else
        some ((List.range 64).map fun i =>
          let q := base + (lo - 2 ^ 26) + i
          if d.unreadable ⟨.hbm, q⟩ then BitVec.ofNat 8 (Config.freeOf 388 q m.nextId).toNat else m.hbmRead (d.fnKey fn) q)

/-- A host's access to a function's memory range: a range that no row of R387 covers is not valid, and a read changes nothing but what
the host has read. -/
def hostAccess (d : Dev) (fn off : Nat) (write : Option (List Byte)) (m : Mach) : Mach :=
  match write with
  | none => if d.answers fn then (match m.hostLine d fn off with | some l => { m with hostRead := l } | none => m) else m
  | some bytes =>
    if !d.answers fn then m
    else if off + bytes.length ≤ 2 ^ 26 then m.commandWrite d fn off bytes
    else
      match d.aperture fn with
      | none => m
      | some (base, size) =>
        if off < 2 ^ 26 ∨ size < off - 2 ^ 26 + bytes.length then m
        else
          let q := base + (off - 2 ^ 26)
          Mach.enabledBy m (m.apertureBytes d fn q bytes) d q bytes.length

/-! ### ATS (R395) -/

/-- Whether a host access already issued with an old translation has not completed, or written bytes that were given it are still to
leave a cache. -/
def Mach.hostInFlight (m : Mach) (fn : Nat) (frames : List Nat) : Bool :=
  let old := fun (l : List Run) => l.any fun r => r.loc.space == .host && frames.any fun f =>
    decide (r.loc.addr < 4096 * (f + 1)) && decide (4096 * f < r.loc.addr + r.len)
  let stale := fun (l : Loc) => l.space == .host && frames.contains (l.addr / 4096)
  (m.crews.any fun c => (m.ctx c.ctx).fn == fn &&
      ((c.copies.any fun p => !p.done && old p.src) || m.posts.any fun p => p.crew == c.id && p.started && old p.op.places))
    || (m.l1.any fun c => c.dirty && stale c.loc) || m.l2.any fun c => c.dirty && stale c.loc

/-- Written bytes with an old translation leave the caches, ahead of the Invalidate Completion. -/
def Mach.sendHost (m : Mach) (fn : Nat) (frames : List Nat) : Mach := if m.hostInFlight fn frames then m.writeBackAll else m

/-- From the receipt of an Invalidate Request nothing uses the translations any more: writes waiting in caches are sent before it, what
has not been sent yet translates again, and its completion follows the requests already issued. -/
def atsInvalidate (fn page count : Nat) (s : State) : State :=
  let hit := fun (a : Ats) => a.fn == fn && decide (page ≤ a.page) && decide (a.page < page + count)
  let gone := (s.m.ats ++ s.m.hostMaps).filter hit
  let frames := gone.map (·.frame)
  let m0 := s.m.sendHost fn frames
  let m := ({ m0 with ats := m0.ats.filter fun a => !hit a } : Mach).retranslate fn
  if m.hostInFlight fn frames then
    { s with m := m, dev := { s.dev with atsInval := s.dev.atsInval ++ [⟨fn, page, count, frames, m.dclock⟩] } }
  else { s with m := m }

/-- A function whose invalidation is not complete after 50 µs enters ERROR, and the completion follows (R395). -/
def atsTimeout (fn : Nat) (s : State) : State :=
  let open_ := s.dev.atsInval.filter fun v => v.fn != fn || s.m.hostInFlight v.fn v.frames
  let d := { s.dev with atsInval := open_ }
  if open_.any fun v => v.fn == fn && decide (v.at_ + Config.clocks50us ≤ s.m.dclock) then
    let r := enterError { d with atsInval := open_.filter fun v => v.fn != fn } s.m fn
    { s with dev := r.1, m := r.2 }
  else { s with dev := d }

/-! ### TDISP and IDE (R392, R393) -/

/-- A TDISP message in a virtual function's session asks for a state (R392, R417). -/
def tdispMessage (fn : Nat) (to_ : TdispState) (s : State) : State :=
  let r := s.dev.fnRec fn
  if fn = 0 ∨ 96 < fn ∨ !r.session ∨ s.dev.halted then s
  else
    match r.tdisp, to_ with
    | .unlocked, .locked | .locked, .run => { s with dev := s.dev.setFn { r with tdisp := to_ } }
    | .locked, .unlocked | .run, .unlocked | .error, .unlocked =>
      let t := leaveRun s.dev s.m fn .unlocked
      { s with dev := t.1, m := t.2 }
    | _, _ => s

/-- An IDE key management message puts a stream into its secure state: link IDE for the PF, else the function's own. -/
def ideKeys (fn link : Nat) (d : Dev) : Dev :=
  let r := d.fnRec fn
  if 96 < fn ∨ !r.session ∨ d.halted then d
  else if fn = 0 then { d with linkIde := d.linkIde.set link true }
  else d.setFn { r with ideSecure := r.ideSecure ||| BitVec.ofNat 4 (2 ^ link) }

/-- A packet fails its integrity check on a link: its stream goes insecure and every virtual function that uses it enters ERROR; a
link's own stream serves every function in RUN, whose selective streams stay as they are. -/
def ideFailure (link : Nat) (stream : Option Nat) (s : State) : State :=
  let users : List Nat := match stream with
    | some fn => if 1 ≤ fn ∧ fn ≤ 96 then [fn] else []
    | none => (s.dev.fns.filter fun (r : FnRec) => r.fn != 0 && r.tdisp == TdispState.run).map FnRec.fn
  let d := match stream with
    | some fn => if 1 ≤ fn ∧ fn ≤ 96 then
        s.dev.setFn { s.dev.fnRec fn with ideSecure := (s.dev.fnRec fn).ideSecure &&& ~~~(BitVec.ofNat 4 (2 ^ link)) } else s.dev
    | none => { s.dev with linkIde := s.dev.linkIde.set link false }
  let r := users.foldl (fun (p : Dev × Mach) (fn : Nat) => enterError p.1 p.2 fn) (d, s.m)
  { s with dev := r.1, m := r.2 }

/-! ### Steps -/

/-- DOWNSTREAM_ACK (R139, R397). -/
def execDownstreamAck (s : State) : Host.Outcome State Fault Refusal :=
  match s.arg with
  | .downstreamAck id err => .next { s with m := downstreamAck id err s.m }
  | _ => .refused .noOperands

/-- PERSIST_TIMEOUT (R397). -/
def execPersistTimeout (s : State) : Host.Outcome State Fault Refusal :=
  match s.arg with
  | .persistTimeout id => .next { s with m := persistTimeout id s.m }
  | _ => .refused .noOperands

/-- DOWNSTREAM_LINK_DOWN (R397). -/
def execDownstreamLinkDown (s : State) : Host.Outcome State Fault Refusal :=
  match s.arg with
  | .downstreamLinkDown port =>
    .next { s with
      dev := { s.dev with downPorts := s.dev.downPorts.set port.toNat false }
      m := s.m.failPersist fun o => o.port == port.toNat }
  | _ => .refused .noOperands

/-- HOST_LINK_TRAINING (R386): the host links of a halted part stay down, and those of an X-die that is out of service (R431). -/
def execHostLinkTraining (s : State) : Host.Outcome State Fault Refusal :=
  match s.arg with
  | .hostLinkTraining link =>
    .next (if s.dev.halted || s.dev.deadXDies.contains link.toNat then s else { s with dev := { s.dev with hostLinks := s.dev.hostLinks.set link.toNat true } })
  | _ => .refused .noOperands

/-- HOST_APERTURE_ACCESS (R387, R388). -/
def execHostApertureAccess (s : State) : Host.Outcome State Fault Refusal :=
  match s.arg with
  | .hostApertureAccess fn off write => .next { s with m := hostAccess s.dev fn.toNat off.toNat write s.m }
  | _ => .refused .noOperands

/-- ATS_INVALIDATE (R395). -/
def execAtsInvalidate (s : State) : Host.Outcome State Fault Refusal :=
  match s.arg with
  | .atsInvalidate fn page count => .next (atsInvalidate fn.toNat page.toNat count s)
  | _ => .refused .noOperands

/-- ATS_INVALIDATE_TIMEOUT (R394, R395). -/
def execAtsInvalidateTimeout (s : State) : Host.Outcome State Fault Refusal :=
  match s.arg with
  | .atsInvalidateTimeout fn => .next (atsTimeout fn.toNat s)
  | _ => .refused .noOperands

/-- IDE_INTEGRITY_FAILURE (R393). -/
def execIdeIntegrityFailure (s : State) : Host.Outcome State Fault Refusal :=
  match s.arg with
  | .ideIntegrityFailure link stream => .next (ideFailure link.toNat (stream.map BitVec.toNat) s)
  | _ => .refused .noOperands

/-- IDE_KEY_MANAGEMENT (R392). -/
def execIdeKeyManagement (s : State) : Host.Outcome State Fault Refusal :=
  match s.arg with
  | .ideKeyManagement fn link => .next { s with dev := ideKeys fn.toNat link.toNat s.dev }
  | _ => .refused .noOperands

/-- TDISP_MESSAGE (R392, R417). -/
def execTdispMessage (s : State) : Host.Outcome State Fault Refusal :=
  match s.arg with
  | .tdispMessage fn to_ => .next (tdispMessage fn.toNat to_ s)
  | _ => .refused .noOperands

end Sys2Proof.Machine
end

