-- ==== Sys2Proof/Machine/Spdm.lean ====
section
/-! DEFINITION. Attestation and service requests (R428, R429), opening a world (R417), sealing (R424) and scrubbing (R430), with the
steps GET_VERSION, GET_CAPABILITIES, NEGOTIATE_ALGORITHMS, GET_DIGESTS, GET_CERTIFICATE, CHALLENGE, GET_MEASUREMENTS,
KEY_EXCHANGE, FINISH, END_SESSION, OPEN, SEAL, SCRUB and SCRUB_EXECUTE. -/

namespace Sys2Proof.Machine

/-! ### Answers (R428, R429) -/

/-- The function whose world's key pair answers for a function: the PF's while the function has no world. -/
def Dev.responder (d : Dev) (fn : Nat) : Nat := if (d.fnRec fn).world = .none then 0 else fn

def Dev.publicKey (d : Dev) (fn : Nat) : List Byte := Config.mldsaPublic (d.attestSeed (d.responder fn))

def Dev.sign (d : Dev) (fn : Nat) (data : List Byte) : List Byte :=
  (Config.mldsaSign (d.attestSeed (d.responder fn)) data).takeD 2420 0

/-- The certificates of a function's key: world 0's, which Bamvor certifies, and the world's own, which world 0's signs. -/
def Dev.certificate (d : Dev) (fn : Nat) : List Byte :=
  let root := Config.bamvorCertificate (d.publicKey 0)
  if d.responder fn = 0 then root else root ++ d.publicKey fn ++ d.sign 0 (d.publicKey fn)

/-- A boot word (R432). -/
def BootWord.word (b : BootWord) : Nat :=
  b.good * 2 ^ 24 + b.fails * 2 ^ 16 + b.way * 2 ^ 8 + 2 * b2n b.done + b2n b.attempting

def WorldState.code : WorldState → Nat
  | .none => 0 | .open => 1 | .closing => 2

/-- A measurement by its index: slot k at k + 1, the world record at 0xF0, the boot record at 0xF1. -/
def Dev.measurement (d : Dev) (fn index : Nat) : List Byte :=
  let r := d.fnRec fn
  if 1 ≤ index ∧ index ≤ 32 then d.ms.getD (index - 1) []
  else if index = 0xF0 then Config.worldRecord r.tenant r.period r.world.code
  else if index = 0xF1 then d.boot.flatMap fun b => leBytes 8 b.word
  else []

/-- An answer left on a function's DOE mailbox; there are 97 functions (R386), and a halted part answers there no more (R431). -/
def Dev.reply (d : Dev) (fn : Nat) (bytes : List Byte) : Dev :=
  if fn ≤ 96 ∧ !d.halted then d.setFn { d.fnRec fn with reply := bytes } else d

/-- An answer of SPDM's own form, by the request: 1 GET_VERSION, 2 GET_CAPABILITIES, 3 NEGOTIATE_ALGORITHMS. -/
def Dev.answer (d : Dev) (fn code : Nat) : Dev := d.reply fn (Config.spdmBody code fn)

/-- An answer with a signature by the world's key over it and what it answers. -/
def Dev.signed (d : Dev) (fn : Nat) (body asked : List Byte) : Dev := d.reply fn (body ++ d.sign fn (body ++ asked))

/-- A key exchange opens a session that FINISH completes. -/
def keyExchange (fn : Nat) (d : Dev) : Dev :=
  if 96 < fn ∨ d.halted then d else (d.signed fn (Config.spdmBody 4 fn) []).setFn { (d.signed fn (Config.spdmBody 4 fn) []).fnRec fn with keyExchange := true }

def finish (fn : Nat) (d : Dev) : Dev :=
  let r := d.fnRec fn
  if 96 < fn ∨ !r.keyExchange ∨ d.halted then d
  else d.setFn { r with keyExchange := false, session := true, reply := Config.spdmBody 5 fn }

def endSession (fn : Nat) (d : Dev) : Dev :=
  let r := d.fnRec fn
  if 96 < fn ∨ !r.session ∨ d.halted then d else d.setFn { r with session := false, reply := Config.spdmBody 6 fn }

/-! ### OPEN and SEAL (R417, R424) -/

/-- The world of a virtual function in CONFIG_LOCKED opens; an open one closes first. -/
def openWorld (fn tenant : Nat) (secret : Option (BitVec 256)) (s : State) : State :=
  let r := s.dev.fnRec fn
  if fn = 0 ∨ 96 < fn ∨ !r.session ∨ r.tdisp ≠ .locked ∨ r.world = .closing ∨ s.dev.halted then s
  else
    let m := if r.world = .open then s.m.endContexts s.dev fn else s.m
    let d := if r.world = .open then (s.dev.closing fn).settleWorlds m else s.dev
    if (d.fnRec fn).world = .none then
      { s with m := m, dev := d.setFn { d.fnRec fn with world := .open, tenant := tenant, period := 0, secret := secret } }
    else { s with m := m, dev := d }

/-- The tag of a compartment record or gate entry, returned in the world's session alone. -/
def sealTag (fn ctx : Nat) (what : SealWhat) (d : Dev) : Dev :=
  let r := d.fnRec fn
  if fn = 0 ∨ 96 < fn ∨ !r.session ∨ r.world ≠ .open ∨ d.halted then d
  else d.reply fn (match what with
    | .compartment record => d.compTag fn ctx record.toNat
    | .gate g entry => d.gateTag fn ctx g.toNat entry.toNat)

/-! ### SCRUB (R430) -/

def scrubRangesOk (l : List (Nat × Nat)) : Bool :=
  !l.isEmpty && decide (l.length ≤ 64) && l.all fun p => p.1 % 4096 == 0 && p.2 % 4096 == 0 && decide (p.1 + p.2 ≤ Config.hbmBytes)

/-- SCRUB is accepted from the world's session, or from the PF while the function is not in RUN. -/
def scrub (fn : Nat) (session : Bool) (ranges : List (Nat × Nat)) (d : Dev) : Dev :=
  let r := d.fnRec fn
  if fn = 0 ∨ 96 < fn ∨ d.halted ∨ !scrubRangesOk ranges ∨ r.scrub.isSome ∨ (session ∧ !r.session) ∨ (!session ∧ r.tdisp = .run) then d
  else d.setFn { r with scrub := some (session, ranges) }

/-- No launch of the world has been admitted and not retired. -/
def Mach.worldQuiet (m : Mach) (fn : Nat) : Bool :=
  !m.queues.any fun q => q.fn == fn
    && (q.head == .retired || m.launches.any fun l => l.q == q.q && l.entered)

/-- The exceptions of a scrub: every page of a range on a retired stack, and the lines that read back uncorrectable. -/
def scrubExceptions (d : Dev) (ranges : List (Nat × Nat)) (bad : List Nat) : List Nat :=
  let inside := fun (a : Nat) => ranges.any fun p => decide (p.1 ≤ a) && decide (a < p.1 + p.2)
  let retired := fun (a : Nat) => d.retiredStacks.contains (hbmStack a)
  let pages := if d.retiredStacks.isEmpty then [] else
    (ranges.flatMap fun p => (List.range (p.2 / 4096)).map fun i => p.1 + 4096 * i).filter retired
  pages.map (2 ^ 62 + ·) ++ ((bad.map fun a => a / 128 * 128).dedup.filter fun a => inside a && !retired a).map (2 ^ 63 + ·)

/-- The receipt before its signature. -/
def receipt (fn tenant period : Nat) (ranges : List (Nat × Nat)) (exc : List Nat) : List Byte :=
  leBytes 4 0x01534352 ++ leBytes 2 1 ++ leBytes 2 ranges.length ++ leBytes 4 exc.length ++ leBytes 4 0 ++ leBytes 8 tenant
    ++ leBytes 4 period ++ leBytes 4 fn ++ (ranges.flatMap fun p => leBytes 8 p.1 ++ leBytes 8 p.2) ++ exc.flatMap (leBytes 8)

/-- Zeros written at the stacks of a scrub's ranges, but for the bytes of its exceptions. -/
def Mach.zeroRanges (m : Mach) (d : Dev) (ranges : List (Nat × Nat)) (bad : List Nat) : Mach :=
  let cleared := fun (a : Nat) => (ranges.any fun p => decide (p.1 ≤ a) && decide (a < p.1 + p.2))
    && !d.retiredStacks.contains (hbmStack a) && !(bad.map (· / 128)).contains (a / 128)
  { m with hbm := m.hbm.filter fun c => !cleared c.1 }

/-- The accepted scrub is executed once the world is quiet: its ranges are zeroed and read back, the period key is destroyed, and
the receipt signed by the world's key is returned. -/
def scrubExecute (fn : Nat) (bad : List Nat) (s : State) : State :=
  let r := s.dev.fnRec fn
  match r.scrub with
  | none => s
  | some (session, ranges) =>
    if !s.m.worldQuiet fn || s.dev.halted then s
    else
      let body := receipt fn r.tenant r.period ranges (scrubExceptions s.dev ranges bad)
      let d := s.dev.setFn { r with scrub := none, period := (r.period + 1) % 2 ^ 32 }
      { s with m := s.m.zeroRanges s.dev ranges bad, dev := d.reply (if session then fn else 0) (body ++ s.dev.sign fn body) }

/-! ### Steps -/

/-- GET_VERSION (R428). -/
def execGetVersion (s : State) : Host.Outcome State Fault Refusal :=
  match s.arg with
  | .getVersion fn => .next { s with dev := s.dev.answer fn.toNat 1 }
  | _ => .refused .noOperands

/-- GET_CAPABILITIES (R428). -/
def execGetCapabilities (s : State) : Host.Outcome State Fault Refusal :=
  match s.arg with
  | .getCapabilities fn => .next { s with dev := s.dev.answer fn.toNat 2 }
  | _ => .refused .noOperands

/-- NEGOTIATE_ALGORITHMS (R428). -/
def execNegotiateAlgorithms (s : State) : Host.Outcome State Fault Refusal :=
  match s.arg with
  | .negotiateAlgorithms fn => .next { s with dev := s.dev.answer fn.toNat 3 }
  | _ => .refused .noOperands

/-- GET_DIGESTS (R428). -/
def execGetDigests (s : State) : Host.Outcome State Fault Refusal :=
  match s.arg with
  | .getDigests fn => .next { s with dev := s.dev.reply fn.toNat (Config.sha3 (s.dev.certificate fn.toNat)) }
  | _ => .refused .noOperands

/-- GET_CERTIFICATE (R428, R429). -/
def execGetCertificate (s : State) : Host.Outcome State Fault Refusal :=
  match s.arg with
  | .getCertificate fn => .next { s with dev := s.dev.reply fn.toNat (s.dev.certificate fn.toNat) }
  | _ => .refused .noOperands

/-- CHALLENGE (R428, R429). -/
def execChallenge (s : State) : Host.Outcome State Fault Refusal :=
  match s.arg with
  | .challenge fn nonce => .next { s with dev := s.dev.signed fn.toNat (Config.sha3 (s.dev.ms.flatten)) nonce }
  | _ => .refused .noOperands

/-- GET_MEASUREMENTS (R428, R429, R432). -/
def execGetMeasurements (s : State) : Host.Outcome State Fault Refusal :=
  match s.arg with
  | .getMeasurements fn index => .next { s with dev := s.dev.reply fn.toNat (s.dev.measurement fn.toNat index.toNat) }
  | _ => .refused .noOperands

/-- KEY_EXCHANGE (R428). -/
def execKeyExchange (s : State) : Host.Outcome State Fault Refusal :=
  match s.arg with
  | .keyExchange fn => .next { s with dev := keyExchange fn.toNat s.dev }
  | _ => .refused .noOperands

/-- FINISH (R428). -/
def execFinish (s : State) : Host.Outcome State Fault Refusal :=
  match s.arg with
  | .finish fn => .next { s with dev := finish fn.toNat s.dev }
  | _ => .refused .noOperands

/-- END_SESSION (R428). -/
def execEndSession (s : State) : Host.Outcome State Fault Refusal :=
  match s.arg with
  | .endSession fn => .next { s with dev := endSession fn.toNat s.dev }
  | _ => .refused .noOperands

/-- OPEN (R416, R417). -/
def execOpenWorld (s : State) : Host.Outcome State Fault Refusal :=
  match s.arg with
  | .openWorld fn tenant secret => .next (openWorld fn.toNat tenant.toNat secret s)
  | _ => .refused .noOperands

/-- SEAL (R424). -/
def execSeal (s : State) : Host.Outcome State Fault Refusal :=
  match s.arg with
  | .seal fn ctx what => .next { s with dev := sealTag fn.toNat ctx.toNat what s.dev }
  | _ => .refused .noOperands

/-- SCRUB (R430). -/
def execScrub (s : State) : Host.Outcome State Fault Refusal :=
  match s.arg with
  | .scrub fn session ranges => .next { s with dev := scrub fn.toNat session ranges s.dev }
  | _ => .refused .noOperands

/-- SCRUB_EXECUTE (R430). -/
def execScrubExecute (s : State) : Host.Outcome State Fault Refusal :=
  match s.arg with
  | .scrubExecute fn bad => .next (scrubExecute fn.toNat bad s)
  | _ => .refused .noOperands

end Sys2Proof.Machine
end

