-- ==== Sys2Proof/Machine/Bringup.lean ====
section
/-! DEFINITION. Boot steps (R431 to R433), resets (R434), faults of single parts (R344), ports and the node number (R398, R399),
power and cooling (R435, R436, R140, R345), with the steps FLR, SINGLE_PART_FAULT, PORT_LINK_TRAINING, NODE_NUMBER_WRITE,
POWER_CAP_SET, POWER_CAP_REACHED, POWER_BELOW_CAP, JUNCTION_OVER_LIMIT, JUNCTION_RECOVERED, JUNCTION_SHUTDOWN, POWER_LOSS, POWER_ON,
PACKAGE_RESET and BOOT_STEP. -/

namespace Sys2Proof.Machine

/-! ### The boot record (R432, R433) -/

/-- Whether a step may be skipped (R431). -/
def skippable (step : Nat) : Bool := step == 3 || step == 6

/-- The boot word read before a step: a previous start that failed there moves the way on, from normal to alternate and from alternate
to skipped where the step may be skipped, else to halted; skipped and halted stay. After 16 good starts the normal way is tried
again. -/
def BootWord.next (b : BootWord) (step : Nat) : BootWord :=
  if b.attempting && !b.done then
    { b with
      fails := min 255 (b.fails + 1)
      way := if b.way = 0 then 1 else if b.way = 1 then (if skippable step then 2 else 3) else b.way }
  else if (b.way = 1 ∨ b.way = 2) ∧ 16 ≤ b.good then { b with way := 0 }
  else b

/-- A start halts: the host links go down and stay down (R431). -/
def Dev.halt (d : Dev) : Dev := { d with halted := true, hostLinks := List.replicate 4 false }

/-- The step begins: its word is written with attempting set, and a halted way stops the start. -/
def Dev.beginStep (d : Dev) : Dev :=
  if d.started || d.halted || decide (6 < d.bootStep) then d
  else
    let b := d.boot.getD (d.bootStep - 1) .reset
    let b1 : BootWord := { b.next d.bootStep with attempting := true, done := false }
    let d1 := { d with
      boot := d.boot.set (d.bootStep - 1) b1, started := true, inReset := false
      failedSteps := if b.attempting && !b.done then d.bootStep :: d.failedSteps else d.failedSteps }
    if b1.way = 3 then d1.halt else d1

/-- A measurement slot extended (R429). -/
def Dev.extend (d : Dev) (k : Nat) (v : List Byte) : Dev :=
  { d with ms := d.ms.modify k fun s => (Config.sha3 (s ++ v)).takeD 32 0 }

/-- The application cores' operating system has the management core extend a measurement register of MS16 to MS31 (R429). -/
def Dev.osExtend (d : Dev) (k : Nat) (v : List Byte) : Dev := if d.appUp && decide (16 ≤ k) && decide (k ≤ 31) then d.extend k v else d

/-- X-dies out of service: their host links, downstream ports and fabric ports are down (R344, R431; log entry 42). -/
def Dev.excludeX (d : Dev) (l : List Nat) : Dev :=
  { d with
    deadXDies := d.deadXDies ++ l.filter fun x => !d.deadXDies.contains x
    hostLinks := (List.range 4).map fun x => d.hostLinks.getD x false && !l.contains x
    downPorts := (List.range 4).map fun x => d.downPorts.getD x false && !l.contains x
    ports := (List.range 64).map fun i => d.ports.getD i false && !l.contains (i / 16) }

/-- What a step that ends does, by its way (R396, R399, R429, R431). -/
def Dev.bootWork (d : Dev) (step way : Nat) (f : BootFind) : Dev :=
  match step with
  | 2 => d.extend 0 (Config.sha3 f.image)
  | 3 => if way = 2 then { d with retiredStacks := (f.badStacks.map BitVec.toNat).filter fun s => decide (s < 48) } else d
  | 4 =>
    let out := if way = 1 then f.lostDies.map BitVec.toNat else []
    let lost := out.filter fun c => decide (c < 24)
    let lostX := (out.filter fun c => decide (24 ≤ c) && decide (c < 28)).map (· - 24)
    let d := d.excludeX lostX
    { d with
      node := d.nodeStore
      deadCores := d.deadCores ++ lost.flatMap fun c => (List.range 64).map (64 * c + ·)
      retiredStacks := d.retiredStacks ++ lost.flatMap fun c => [2 * c, 2 * c + 1]
      downCapacity := (List.range 4).map fun p => if d.deadXDies.contains p then 0 else min (f.capacity.getD p 0) (2 ^ 46)
      downPorts := (List.range 4).map fun p => f.capacity.getD p 0 != 0 && !d.deadXDies.contains p }
  | 5 => (d.extend 1 (Config.sha3 f.image)).extend 3 (Config.fuseValue ((d.deadCores.map (· / 64)).dedup ++ d.deadXDies.map (24 + ·)))
  | 6 => if way = 2 then { d with deadAppCores := List.range 16 } else d.extend 2 (Config.sha3 f.image)
  | _ => d

/-- After step 6 every word counts one good start more, and a word whose step was found failed starts at 0 again. -/
def Dev.bootDone (d : Dev) : Dev :=
  if d.bootStep ≤ 6 then d
  else { d with
    boot := (d.boot.zip (List.range 6)).map fun p =>
      { p.1 with good := if d.failedSteps.contains (p.2 + 1) then 0 else min 255 (p.1.good + 1) } }

/-- A boot step ends or fails. -/
def bootStep (ok : Bool) (f : BootFind) (d : Dev) : Dev :=
  let d1 := d.beginStep
  if d1.halted || decide (6 < d1.bootStep) then d1
  else
    let b := d1.boot.getD (d1.bootStep - 1) .reset
    if !ok ∧ b.way ≠ 2 then d1.halt
    else
      let d2 := d1.bootWork d1.bootStep b.way f
      ({ d2 with boot := d2.boot.set (d1.bootStep - 1) { b with done := true }, started := false, bootStep := d1.bootStep + 1 } : Dev).bootDone.beginStep

/-! ### Loss of power and resets (R140, R345, R434) -/

/-- What is left of the working state: the hosts' own memory and page tables, and downstream memory as given. -/
def Mach.afterReset (m : Mach) (p : Memory) : Mach :=
  { Mach.reset with host := m.host, hostMaps := m.hostMaps, pmem := p, durable := p }

/-- The management state of a new start: the boot store keeps the boot record and the node number, and the cap in force stays halved
until the junction has cooled (R436). -/
def Dev.afterReset (d : Dev) : Dev := { Dev.reset with boot := d.boot, nodeStore := d.nodeStore, halvedCap := d.halvedCap }

/-- Module power is lost: of the P bytes not covered by a PFENCE those of the 8-byte words named are found again, and with a word
the whole name that was stored over it (R95, R140). -/
def powerLoss (kept : List Nat) (s : State) : State :=
  if !s.dev.powered then s
  else
    let m := s.m.writeBackAll
    let keep := fun (p : Memory) (w : Nat) =>
      let (a, n) := if m.pnames.contains (w / 2 * 16) then (w / 2 * 16, 16) else (8 * w, 8)
      (List.range n).foldl (fun (p : Memory) i => p.write (a + i) (m.pmem.read (a + i))) p
    { s with m := m.afterReset (kept.foldl keep m.durable), dev := { s.dev.afterReset with powered := false } }

/-- Power is applied and a start begins. -/
def powerOn (s : State) : State :=
  if s.dev.powered then s else { s with dev := { s.dev with powered := true }.beginStep }

/-- The management controller resets the package, whose HBM is zeroed (R434); it is held in reset until the start begins. -/
def packageReset (s : State) : State :=
  { s with m := s.m.afterReset s.m.pmem, dev := { s.dev.afterReset with inReset := true } }

/-- FLR of a virtual function (R434): its queues, and those whose descriptor names it by now, refuse records, accepted records
complete KILLED, and its world closes. -/
def flr (fn : Nat) (s : State) : State :=
  if fn = 0 ∨ 96 < fn then s
  else
    let stop := fun (q : Queue) => if q.fn == fn then
        let q1 := { q with enabled := false, killing := q.ring.length }
        if q.head = .ready then q1.retire 4 0 0 else q1
      else if descFn (s.m.queueDesc s.dev q.q) == fn then
        { q with enabled := false, killing := if q.head = .waiting then q.killing else q.ring.length }
      else q
    let m := ({ s.m with queues := s.m.queues.map stop } : Mach).endContexts s.dev fn
    let d := s.dev.closing fn
    let d1 := d.setFn { d.fnRec fn with tdisp := .unlocked, session := false, keyExchange := false, ideSecure := 0 }
    { s with m := m, dev := d1.settleWorlds m }

/-! ### Faults of single parts (R32, R344) -/

/-- A crew on a part that has failed is gone with what was on its way for it. -/
def Mach.loseCrew (m : Mach) (d : Dev) (c : Crew) : Mach :=
  let m1 := m.stopDone d c
  ({ m1 with
    rings := m1.rings.filter fun r => r.crew != c.id
    fabOut := m1.fabOut.filter fun o => o.crew != c.id
    persist := m1.persist.filter fun p => p.crew != c.id } : Mach).removeCrew c

/-- Launches with a crew that a fault hits, or of which it loses written bytes, are interrupted: those crews are gone, the launch's
other crews stop, and it is run again or completes FAULT. -/
def Mach.interrupt (m : Mach) (d : Dev) (hit : Crew → Bool) (loses : Launch → Bool) : Mach :=
  let crews := m.crews.filter hit
  let launches := (crews.map (·.launch) ++ (m.launches.filter loses).map (·.id)).dedup
  let m1 := crews.foldl (fun m c => m.loseCrew d c) m
  launches.foldl (fun m l => m.endLaunch d l true) m1

/-- Cores out of service, with the bytes that only their caches held: the L1s, and the L2 slices of some clusters. A launch of which
a crew stood there is interrupted where it loses written bytes, even after that crew has retired. -/
def loseCores (cores : List Nat) (clusters : Nat → Bool) (s : State) : State :=
  let d := { s.dev with deadCores := s.dev.deadCores ++ cores.filter fun c => !s.dev.deadCores.contains c }
  let lost := ((s.m.l1.filter fun c => cores.contains c.unit) ++ s.m.l2.filter fun c => clusters c.unit).filter fun c => c.dirty
  let loses := fun (l : Launch) => l.cores.any cores.contains && lost.any fun c => c.key == (s.m.ctx l.ctx).key s.dev
  let m0 : Mach := { s.m with l1 := s.m.l1.filter fun c => !cores.contains c.unit, l2 := s.m.l2.filter fun c => !clusters c.unit }
  { s with dev := d, m := m0.interrupt d (fun c => cores.contains c.core) loses }

/-- Stacks retired: rings are mirrored anew on stacks in service, and launches whose headers or crew images stood there are
interrupted. -/
def loseStacks (gone : List Nat) (s : State) : State :=
  let d := { s.dev with retiredStacks := s.dev.retiredStacks ++ gone.filter fun c => !s.dev.retiredStacks.contains c }
  let on := fun (pa : Nat) => match hbmLinear pa with | some q => gone.contains (hbmStack q) | none => false
  let m := s.m.interrupt d (fun c => on c.image || on (c.image + imageSize c.limit c.nregs - 1) || on c.ctx) fun _ => false
  { s with dev := d, m := { m with queues := m.queues.map fun q => if q.ring.isEmpty then q else q.mirrored d } }

/-- A single part fails: a core, a die, a stack, a fabric port, an application core or a host link. The numbers of the dies are the
model's own: C-dies 0 to 23, X-dies 24 to 27, the H-die 28 (log entry 42). -/
def partFault (p : Part) (s : State) : State :=
  match p with
  | .core n => if n.toNat < Config.cores then loseCores [n.toNat] (fun _ => false) s else s
  | .die n =>
    let c := n.toNat
    if c < 24 then
      loseStacks [2 * c, 2 * c + 1] (loseCores ((List.range 64).map (64 * c + ·)) (fun u => u / 16 == c) s)
    else if c < 28 then
      let x := c - 24
      { s with dev := s.dev.excludeX [x], m := s.m.failPersist fun o => o.port == x }
    else if c = 28 then { s with dev := { s.dev with deadAppCores := List.range 16 } }
    else s
  | .stack n => if n.toNat < 48 then loseStacks [n.toNat] s else s
  | .fabricPort n => { s with dev := { s.dev with ports := s.dev.ports.set n.toNat false } }
  | .appCore n => { s with dev := { s.dev with deadAppCores := if s.dev.deadAppCores.contains n.toNat then s.dev.deadAppCores else n.toNat :: s.dev.deadAppCores } }
  | .hostLink n => { s with dev := { s.dev with hostLinks := s.dev.hostLinks.set n.toNat false } }

/-! ### Ports, node number, power and cooling -/

/-- FLR (R417, R434). -/
def execFlr (s : State) : Host.Outcome State Fault Refusal :=
  match s.arg with
  | .flr fn => .next (flr fn.toNat s)
  | _ => .refused .noOperands

/-- SINGLE_PART_FAULT (R344). -/
def execSinglePartFault (s : State) : Host.Outcome State Fault Refusal :=
  match s.arg with
  | .singlePartFault p => .next (partFault p s)
  | _ => .refused .noOperands

/-- PORT_LINK_TRAINING (R398, R399): a port whose Tarn already holds a link of this node number counts as failed, and one of an
X-die that is out of service stays down (R431). -/
def execPortLinkTraining (s : State) : Host.Outcome State Fault Refusal :=
  match s.arg with
  | .portLinkTraining port dup =>
    .next { s with dev := { s.dev with ports := s.dev.ports.set port.toNat (!dup && !s.dev.deadXDies.contains (port.toNat / 16)) } }
  | _ => .refused .noOperands

/-- NODE_NUMBER_WRITE (R399). -/
def execNodeNumberWrite (s : State) : Host.Outcome State Fault Refusal :=
  match s.arg with
  | .nodeNumberWrite node => .next (if s.dev.inReset then { s with dev := { s.dev with nodeStore := node.toNat } } else s)
  | _ => .refused .noOperands

/-- The power cap that the part holds to: the one set, or half of it while the junction is too hot (R435, R436). -/
def Dev.capInForce (d : Dev) : Nat := if d.halvedCap then d.cap / 2 else d.cap

/-- POWER_CAP_SET (R435): up to 15000 W. -/
def execPowerCapSet (s : State) : Host.Outcome State Fault Refusal :=
  match s.arg with
  | .powerCapSet watts => .next { s with dev := { s.dev with cap := min watts.toNat 15000 } }
  | _ => .refused .noOperands

/-- POWER_CAP_REACHED (R435): cores withhold issue clocks, and no result changes. -/
def execPowerCapReached (s : State) : Host.Outcome State Fault Refusal := .next { s with dev := { s.dev with withholding := true } }

/-- POWER_BELOW_CAP (R435). -/
def execPowerBelowCap (s : State) : Host.Outcome State Fault Refusal := .next { s with dev := { s.dev with withholding := false } }

/-- JUNCTION_OVER_LIMIT (R436): the cap in force is halved. -/
def execJunctionOverLimit (s : State) : Host.Outcome State Fault Refusal := .next { s with dev := { s.dev with halvedCap := true } }

/-- JUNCTION_RECOVERED (R436). -/
def execJunctionRecovered (s : State) : Host.Outcome State Fault Refusal := .next { s with dev := { s.dev with halvedCap := false } }

/-- JUNCTION_SHUTDOWN (R436): core and HBM power are removed, which is a loss of module power. -/
def execJunctionShutdown (s : State) : Host.Outcome State Fault Refusal :=
  match s.arg with
  | .junctionShutdown kept => .next (powerLoss kept s)
  | _ => .refused .noOperands

/-- POWER_LOSS (R140, R345). -/
def execPowerLoss (s : State) : Host.Outcome State Fault Refusal :=
  match s.arg with
  | .powerLoss kept => .next (powerLoss kept s)
  | _ => .refused .noOperands

/-- POWER_ON (R434). -/
def execPowerOn (s : State) : Host.Outcome State Fault Refusal := .next (powerOn s)

/-- PACKAGE_RESET (R434). -/
def execPackageReset (s : State) : Host.Outcome State Fault Refusal := .next (packageReset s)

/-- BOOT_STEP (R431, R433). -/
def execBootStep (s : State) : Host.Outcome State Fault Refusal :=
  match s.arg with
  | .bootStep ok found => .next { s with dev := bootStep ok found s.dev }
  | _ => .refused .noOperands

end Sys2Proof.Machine
end

