-- ==== Sys2Proof/Machine/Atomics.lean ====
section
/-! DEFINITION. Atomics (R130, R131, R240 to R242) and fences (R127, R134, R138, R139, R243, R244). -/

namespace Sys2Proof.Machine

/-! ### Atomics -/

/-- The new value that an atomic writes (R241); fadd is in `atomSeq`. -/
def atomNew (op : Nat) (t : ETy) (old b expected : Nat) : Nat :=
  match op with
  | 0 => (old + b) % 2 ^ t.bits
  | 1 => (old + 2 ^ t.bits - b) % 2 ^ t.bits
  | 2 => if extAt t b < extAt t old then b else old
  | 3 => if extAt t old < extAt t b then b else old
  | 4 => Nat.land old b
  | 5 => Nat.lor old b
  | 6 => Nat.xor old b
  | 7 => b
  | 8 => if old = expected then b else old
  | 9 => if b ≤ old then 0 else old + 1
  | _ => fltMinMax (fmtOf t) true old b

/-- The lanes' atomics on one word one after another (R131): what each fetches, and the value left. -/
def atomChain (op : Nat) (t : ETy) : Nat → List (Nat × Nat) → List Nat × Nat
  | old, [] => ([], old)
  | old, (b, x) :: l => let r := atomChain op t (atomNew op t old b x) l; (old :: r.1, r.2)

/-- fadd (R131): exact sums kept, each value rounded once. -/
def faddChain (f : FFmt) : Num → Nat → List (Nat × Nat) → List Nat × Nat
  | _, cur, [] => ([], cur)
  | sum, cur, (b, _) :: l =>
    let sum' := Num.add false sum (f.decode b)
    let r := faddChain f sum' (f.round ⟨0, false, false⟩ sum' 0).1 l
    (cur :: r.1, r.2)

/-- The lanes' atomics on one word: operands and expected values in home-lane order (R131). -/
def atomSeq (op : Nat) (t : ETy) (old : Nat) (l : List (Nat × Nat)) : List Nat × Nat :=
  if op = 10 then faddChain (fmtOf t) ((fmtOf t).decode old) old l else atomChain op t old l

/-- A lane's operand and, for cas, its expected value (R240). -/
def atomArgs (e : Enc) (f : Fibre) : Nat × Nat :=
  let t := tyOf e
  if e.aOp = 8 then (f.val (e.vb + t.regs) t.regs, f.val e.vb t.regs) else (bAt e t f, 0)

def sameAddr (a b : Acc) : Bool := a.fab == b.fab && runLocs a.runs == runLocs b.runs

/-- The lanes gathered by address, each set in home-lane order. -/
def groupAddr : List (Fibre × Acc) → List (List (Fibre × Acc))
  | [] => []
  | p :: t =>
    let r := groupAddr t
    let same := fun (g : List (Fibre × Acc)) => g.any fun q => sameAddr q.2 p.2
    match r.find? same with
    | some g => (p :: g) :: r.filter fun h => !same h
    | none => [p] :: r

/-- The scope at which an atomic is performed: class H and F at their own place (R130). -/
def atomScope (e : Enc) (a : Acc) : Nat := if a.cls = .h then 5 else e.aScope

/-- A word of memory read, computed and written in one event at the point of a scope (R130), for lanes with these operands:
the machine, the word's old value, and what each lane fetches. -/
def Mach.wordAtomic (m : Mach) (E : Env) (cls : Cls) (sc : Nat) (locs : List Loc) (object : Option (Nat × Nat)) (op : Nat)
    (t : ETy) (args : List (Nat × Nat)) : Mach × Nat × List Nat :=
  let m1 := m.raiseAll E.c.core sc cls locs
  let old := leNat (locs.map (m1.peek E.c.core (pointOf sc) E.key))
  let r := atomSeq op t old args
  let m2 := (locs.zip (leBytes (t.bits / 8) r.2)).foldl (fun m p => m.performByte E.c.core sc cls E.key p.1 p.2) m1
  let m3 := match object with
    | some (s, off) => m2.noteWritten E.d E.x.addr s off (t.bits / 8)
    | none => m2
  (m3, old, r.1)

/-- The word of a set of lanes: the machine and what each lane fetches. -/
def Mach.atomWord (m : Mach) (E : Env) (e : Enc) (g : List (Fibre × Acc)) : Mach × Nat × List (Fibre × Nat) :=
  match g with
  | [] => (m, 0, [])
  | (_, a) :: _ =>
    let r := m.wordAtomic E a.cls (atomScope e a) (runLocs a.runs) a.object e.aOp (tyOf e) (g.map fun p => atomArgs e p.1)
    (r.1, r.2.1, (g.map (·.1)).zip r.2.2)

/-- The scopes of an atomic's acquire, when it has one (R119, R130). -/
def atomAcq (e : Enc) (g : List (Fibre × Acc)) : Option (Nat × Nat) :=
  if e.aOrd = 1 ∨ e.aOrd = 3 then some (e.aScope, g.foldl (fun s p => Nat.lor s (2 ^ p.2.cls.bit)) e.aStor) else none

/-- The lanes of a combined fabric atomic: slot, operand, expected value. -/
def atomLanes (e : Enc) (g : List (Fibre × Acc)) : List (Nat × Nat × Nat) := g.map fun p => (p.1.slot, atomArgs e p.1)

/-- One address of an atomic whose lanes reach the fabric: the request, or a word of memory, which waits for the responses
that the others fetch (R242). -/
def Mach.atomOut (m : Mach) (E : Env) (e : Enc) (fetch : Bool) (g : List (Fibre × Acc)) : Mach :=
  let w := (tyOf e).bits / 8
  let kind := OutKind.atomic fetch e.aOp e.tyCode (atomLanes e g) e.vd e.s (atomAcq e g)
  match g with
  | [] => m
  | (f, a) :: _ =>
    match a.fab with
    | some (node, rk, off) =>
      ((m.noFill E.cluster fun o => o.meets node rk off w).fabDrop E.c.core (fabLocs node rk off w)).sendFab E.d E.c.id E.g.id f.slot node rk off [] w kind
    | none =>
      if fetch then
        m.answerLoad E 0 f.slot
          (.word a.cls (atomScope e a) (runLocs a.runs) a.object e.aOp e.tyCode (atomLanes e g) e.vd e.s (atomAcq e g)) []
      else (m.atomWord E e g).1

/-- The effect of an atomic in the lanes that passed their checks (R242). -/
def Mach.atomAll (m : Mach) (E : Env) (e : Enc) (fetch : Bool) (later : BitVec 32) (l : List (Fibre × Acc)) : Mach :=
  let gs := groupAddr l
  let m0 := m.touchSlots E.x.addr l
  if anyFab l then
    let m1 := gs.foldl (fun m g => m.atomOut E e fetch g) m0
    if fetch then m0.awaitFabric m1 E later else m1
  else
    let r := gs.foldl (fun (r : Mach × List (Fibre × Nat)) g => let q := r.1.atomWord E e g; (q.1, r.2 ++ q.2.2)) (m0, [])
    let m1 := if fetch then r.1.pendLanes E false e.vd (tyOf e).regs r.2 else r.1
    m1.acquire E.c.core (gs.map (atomAcq e))

/-- Whether an earlier fabric write that overlaps is unacknowledged (R407). -/
def Mach.fabBusy (m : Mach) (cluster : Nat) (l : List (Fibre × Acc)) : Bool :=
  l.any fun p =>
    match p.2.fab with
    | some (node, rk, off) => m.fabOverlap cluster node rk off (p.2.runs.foldl (fun n r => n + r.len) 0)
    | none => false

/-- A release atomic at sys of class N completes when its own bytes too are at their home (step 3 of R125, R96): a release of no
bytes that the lanes' later stores leave behind. -/
def Mach.queueHome (m : Mach) (E : Env) (e : Enc) (l : List (Fibre × Acc)) : Mach :=
  if (e.aOrd = 2 ∨ e.aOrd = 3) ∧ e.aScope = 5 then
    (l.filter fun p => p.2.cls == .n).foldl (fun m p =>
      m.updFibre E.c.id p.1.slot fun f =>
        { f with stores := f.stores ++ [⟨.bytes [], .n, E.key, 5, some (2 ^ Cls.n.bit), none, m.nextId, [], false, []⟩] }) m
  else m

/-- ATOM and ATOMR (R240 to R242): the lanes' queues drain first, so that the fibre's earlier stores come before (R122); a
release comes before the write (R125). -/
def atomicM (fetch : Bool) (e : Enc) (E : Env) (m : Mach) : Mach :=
  let w := (tyOf e).bits / 8
  let rs := (E.act e).map fun f =>
    (f, if e.aMode = 2 then scratchLane E.c (f.reg e.va : Int) w w
        else m.deref E.d (E.xOf f) E.cluster f.carry ⟨w, 3, w, true, false, fetch⟩ (if e.aMode = 0 then f.reg e.va else f.val e.va 2) none none)
  if (worst rs).isSome then (byLanes e rs (fun _ m => m) id E m).tick E.c.core 1
  else
    let l := oks rs
    let fs := l.map (·.1)
    let m0 := m.drainAll E.d E.c.id fs
    let r := if !m0.drained E.c.id (fs.map (·.slot)) then (m0, false)
      else if (e.aOrd = 2 ∨ e.aOrd = 3) ∧ l ≠ [] then
        m0.releaseNow E.d E.c fs e.aScope (l.foldl (fun s p => Nat.lor s (2 ^ p.2.cls.bit)) e.aStor)
      else (m0, true)
    if !r.2 || r.1.fabBusy E.cluster l then r.1.stall E.c.id E.g.id
    else if fetch && anyFab l then (askLanes e rs (fun later l m => (m.atomAll E e true later l).queueHome E e l) E r.1).tick E.c.core 1
    else
      (byLanes e rs (fun l m => (m.atomAll E e fetch 0 l).queueHome E e l) (fun m => m.advance E e) E r.1).tick E.c.core 1

def atomM (e : Enc) : Env → Mach → Mach := atomicM true e
def atomrM (e : Enc) : Env → Mach → Mach := atomicM false e

/-! ### Fences -/

/-- Errors recorded against a fibre as %tinfo shows them (R138). -/
def fabInfo (f : Fibre) : Nat := if f.fabErrs = 0 then 0 else f.fabNode + 2 ^ 8 * min f.fabErrs 0xFFFFFF

/-- The check of R138 at the end of a fence, then what follows it. -/
def Mach.fabricCheck (m : Mach) (E : Env) (e : Enc) (sysF : Bool) (fin : Mach → Mach) : Mach :=
  if sysF && (E.act e).any (fun f => f.fabErrs != 0) then
    (takeTrap E m (maskOf (E.act e)) 23 fabInfo).updCrew E.c.id fun c =>
      c.mapLanes E.g.course (maskOf (E.act e)) fun f => { f with fabErrs := 0, fabNode := 0 }
  else fin m

/-- FENCE (R127, R138, R244). -/
def fenceM (e : Enc) (E : Env) (m : Mach) : Mach :=
  let act := E.act e
  let ord := e.m 55 54
  let sysF := e.fScope = 5 && storHas e.fStor .f
  if act = [] then (m.advance E e).tick E.c.core 1
  else
    let r := if 2 ≤ ord then m.releaseNow E.d E.c act e.fScope e.fStor
      else if sysF then let m1 := m.drainAll E.d E.c.id act; (m1, m1.drained E.c.id (act.map (·.slot)))
      else (m, true)
    if !r.2 || (sysF && r.1.unacked E.c.id (act.map (·.slot))) then r.1.hold E.c.id E.g.id false
    else
      (r.1.fabricCheck E e sysF fun m =>
        ((if ord = 1 ∨ ord = 3 then m.discard E.c.core e.fScope e.fStor else m).advance E e)).tick E.c.core 1

/-- Whether operations that one of the fibres posted on an engine path are still going on (R132, R134). -/
def Mach.pathBusy (m : Mach) (c : Crew) (path : Nat) (slots : List Nat) : Bool :=
  let mine := fun (l : List Nat) => l.any slots.contains
  match path with
  | 1 => (c.copies.any fun p => slots.contains p.slot && !p.done)
      || (c.channels.any fun h => mine h.by_ && (h.state == 1 || h.state == 2)) || (c.gpasses.any fun g => mine g.by_)
  | 2 => m.posts.any fun p => p.crew == c.id && mine p.lanes
  | 3 => c.cursors.any fun h => mine h.by_ && (h.state == 2 || h.state == 3)
  | 4 => match c.binning with | some b => mine b.by_ && b.state == 2 | none => false
  | _ => false

/-- The copies of a core and its cluster that an engine's writes may have left stale (R134, R135). -/
def Mach.discardBoth (m : Mach) (core stor : Nat) : Mach := m.discard core 5 stor

/-- XFENCE (R134, R138, R244). Engines read and write at home, so the vector path's data goes all the way there; what engines
wrote into resident copies goes to its home at sys with N, once they have ended (R96). -/
def xfenceM (e : Enc) (E : Env) (m : Mach) : Mach :=
  let act := E.act e
  let slots := act.map (·.slot)
  let sysF := e.fScope = 5 && storHas e.fStor .f
  let busy := fun (m : Mach) => match m.crew E.c.id with | some c => m.pathBusy c (e.m 62 60) slots | none => false
  if act = [] then (m.advance E e).tick E.c.core 1
  else
    let r := if e.m 62 60 = 0 then
        let p := m.releaseNow E.d E.c act e.fScope e.fStor
        (p.1.writeBack E.c.core 4, p.2)
      else
        let p := if sysF then let m1 := m.drainAll E.d E.c.id act; (m1, m1.drained E.c.id slots) else (m, true)
        if e.fScope = 5 && storHas e.fStor .n && !busy m then
          let q := p.1.homeObjects E.d E.x.fn (E.c.id, (slots.head?).getD 0)
          (q.1, p.2 && q.2)
        else p
    if !r.2 || busy r.1 || (sysF && r.1.unacked E.c.id slots) then
      r.1.hold E.c.id E.g.id false
    else
      (r.1.fabricCheck E e sysF fun m =>
        ((if e.m 59 57 = 0 then m.discardBoth E.c.core e.fStor else m).advance E e)).tick E.c.core 1

/-! ### PFENCE -/

/-- Whether an older value of a byte of class P is on its way to its device, where it would take the place of the one that stands. -/
def Mach.olderOnWay (m : Mach) (a : Nat) : Bool :=
  m.persist.any fun p => !p.failed && p.cells.any fun c => c.1 == a && c.2 != m.pmem.read a

/-- Addresses of class P whose bytes are not in the persistence domain, or are there only until an older write-back arrives (R139,
R140). -/
def Mach.volatileBytes (m : Mach) : List (Nat × Byte) :=
  (((m.pmem.map (·.1)) ++ m.durable.map (·.1) ++ m.persist.flatMap fun p => p.cells.map (·.1)).dedup.filter fun a =>
    m.pmem.read a != m.durable.read a || m.olderOnWay a).map fun a => (a, m.pmem.read a)

/-- The write-backs of a PFENCE (R139 step 1), one for each port that has bytes to write. -/
def Mach.sendPersist (m : Mach) (d : Dev) (crew slot : Nat) : Mach :=
  (List.range 4).foldl (fun m p =>
    let cells := m.volatileBytes.filter fun c => c.1 / 2 ^ 46 % 4 == p
    if cells = [] then m
    else
      { m with
        persist := m.persist ++ [⟨m.nextId, crew, slot, p, cells, m.dclock, !d.downPorts.getD p false⟩], nextId := m.nextId + 1 }) m

/-- PFENCE (R139, R244): first the write-backs, then the wait for the devices. -/
def pfenceM (e : Enc) (E : Env) (m : Mach) : Mach :=
  let act := E.act e
  let mine := fun (p : PersistOut) => p.crew == E.c.id && act.any fun f => f.slot == p.slot
  -- The trap ends this PFENCE: write-backs to other ports that are still on their way are no longer its own.
  let failed := fun (m : Mach) =>
    (takeTrap E { m with persist := (m.persist.filter fun p => !(mine p && p.failed)).map fun p => if mine p then { p with crew := 0 } else p }
      (maskOf act) 24 fun _ => (maskOf act).toNat).tick E.c.core 1
  match act with
  | [] => (m.advance E e).tick E.c.core 1
  | f :: _ =>
    if m.persist.any fun p => mine p && p.failed then failed m
    else if m.persist.any mine then m.hold E.c.id E.g.id false
    else if E.g.state = .held false then (m.advance E e).tick E.c.core 1
    else
      let m1 := m.drainAll E.d E.c.id act
      if !m1.drained E.c.id (act.map (·.slot)) then m1
      else
        let m2 := m1.writeBackAll.sendPersist E.d E.c.id f.slot
        if m2.persist.any fun p => mine p && p.failed then failed m2
        else if m2.persist.any mine then m2.hold E.c.id E.g.id false
        else (m2.advance E e).tick E.c.core 1

/-- ATOM, W form (R242). -/
def execAtomW (f : WForm) (s : State) : Host.Outcome State Fault Refusal :=
  isa (checked (f.enc 0x140) (shapeOf (f.enc 0x140)) (atomM (f.enc 0x140))) s

/-- ATOM, L form (R242). -/
def execAtomL (f : LForm) (s : State) : Host.Outcome State Fault Refusal :=
  isa (checked (f.enc 0x140) (shapeOf (f.enc 0x140)) (atomM (f.enc 0x140))) s

/-- ATOMR, W form (R242). -/
def execAtomrW (f : WForm) (s : State) : Host.Outcome State Fault Refusal :=
  isa (checked (f.enc 0x141) (shapeOf (f.enc 0x141)) (atomrM (f.enc 0x141))) s

/-- ATOMR, L form (R242). -/
def execAtomrL (f : LForm) (s : State) : Host.Outcome State Fault Refusal :=
  isa (checked (f.enc 0x141) (shapeOf (f.enc 0x141)) (atomrM (f.enc 0x141))) s

/-- FENCE, W form (R244). -/
def execFence (f : WForm) (s : State) : Host.Outcome State Fault Refusal :=
  isa (checked (f.enc 0x142) (shapeOf (f.enc 0x142)) (fenceM (f.enc 0x142))) s

/-- XFENCE, W form (R244). -/
def execXfence (f : WForm) (s : State) : Host.Outcome State Fault Refusal :=
  isa (checked (f.enc 0x143) (shapeOf (f.enc 0x143)) (xfenceM (f.enc 0x143))) s

/-- PFENCE, C form (R244). -/
def execPfenceC (f : CForm) (s : State) : Host.Outcome State Fault Refusal :=
  isa (checked (f.enc 0x144) (shapeOf (f.enc 0x144)) (pfenceM (f.enc 0x144))) s

/-- PFENCE, W form (R244). -/
def execPfenceW (f : WForm) (s : State) : Host.Outcome State Fault Refusal :=
  isa (checked (f.enc 0x144) (shapeOf (f.enc 0x144)) (pfenceM (f.enc 0x144))) s

end Sys2Proof.Machine
end

