-- ==== Sys2Proof/Machine/Exchange.lean ====
section
/-! DEFINITION. The steps of a core's gangs that no instruction makes: GANG_EXCHANGE (R342), REGROUP_BOUND (R29),
SPRING_TIMER_EXPIRY (R35) and HANDLER_TIMEOUT (R352). -/

namespace Sys2Proof.Machine

/-! ### Exchange (R342) -/

/-- Whether an active gang may be exchanged: it has waited more than 64 clocks, or issued for 4096 and stands at a clause
boundary or a stop. -/
def Gang.mayLeave (g : Gang) : Bool :=
  g.place == .active &&
    match g.state, g.wake with
    | _, .fabric .. => false
    | .held _, _ => decide (64 < g.waited) || decide (4096 ≤ g.issued)
    | .ready, _ => !g.begun && decide (4096 ≤ g.issued)
    | .regroup _, _ => decide (4096 ≤ g.issued)
    | .stalled, _ => false
    | .parked _, _ => true

def gangExchange (out inn : GangRef) (m : Mach) : Mach :=
  match m.crew inn.crew with
  | none => m
  | some c =>
    match m.dueIn c.core with
    | none => m
    | some p =>
      if p.1 ≠ inn.crew ∨ p.2.id ≠ inn.gang then m
      else if m.placed c.core .active < Config.activeGangs then m.bringIn c.core p
      else
        match (m.crew out.crew).bind fun o => if o.core = c.core then o.gang out.gang else none with
        | none => m
        | some g =>
          if !g.mayLeave then m
          else
            (m.bringIn c.core p).updGang out.crew out.gang fun g =>
              { g with place := .pending, readySince := m.clock c.core, passedOver := 0, waited := 0 }

/-! ### Bounds and timers -/

/-- The bound of a REGROUP wait has elapsed: every fibre waiting at the header joins one gang (R29). -/
def regroupBound (r : GangRef) (m : Mach) : Mach :=
  match m.crew r.crew with
  | none => m
  | some c =>
    match c.gang r.gang with
    | none => m
    | some g =>
      match g.state with
      | .regroup t => if t ≤ m.clock c.core then m.updCrew c.id fun c => c.regroupEnd g else m
      | _ => m

/-- A bin's timer expires and the bin is ready (R35). -/
def springExpiry (crew bin : Nat) (m : Mach) : Mach :=
  match m.crew crew with
  | none => m
  | some c =>
    if c.stopping || !(c.bins.any fun b => b.n == bin && !b.ready && decide (b.deadline ≤ m.clock c.core)) then m
    else
      (m.updCrew crew fun c => { c with bins := c.bins.map fun b => if b.n == bin then { b with ready := true } else b }).launchBins crew 16

/-- Timers that have run make their bins ready at once: nothing comes between (R43). -/
def Mach.dueSprings (m : Mach) : Mach :=
  (m.crews.flatMap fun c => c.bins.map fun b => (c.id, b.n)).foldl (fun m p => springExpiry p.1 p.2 m) m

/-- Whether a latched pre-emption of one of the gang's fibres has waited 65536 clocks: the gang issues nothing before it has taken
HANDLER_TIMEOUT (R352). -/
def Mach.latchOut (m : Mach) (E : Env) : Bool :=
  E.lanes.any fun f => match f.latched with | some t => decide (t + 65536 ≤ m.clock E.c.core) | none => false

/-- A latched pre-emption has waited 65536 clocks: the gang takes HANDLER_TIMEOUT, which is forwarded, and the request lapses
(R352). -/
def handlerTimeout (d : Dev) (r : GangRef) (m : Mach) : Mach :=
  match m.env d r with
  | none => m
  | some E =>
    let midway := match E.g.wake with | .fabric .. => true | _ => false
    if !m.latchOut E || E.g.wake == .ring || midway then m
    else
      let m1 := (m.leaveWaits d E.c E.g).updCrew E.c.id fun c => c.mapLanes E.g.course E.g.mask fun f => { f with latched := none }
      takeTrap E m1 E.g.mask 41 fun _ => E.g.mask.toNat

/-! ### Steps -/

/-- GANG_EXCHANGE (R342). -/
def execGangExchange (s : State) : Host.Outcome State Fault Refusal :=
  match s.arg with
  | .gangExchange out inn => .next { s with m := gangExchange out inn s.m }
  | _ => .refused .noOperands

/-- REGROUP_BOUND (R29). -/
def execRegroupBound (s : State) : Host.Outcome State Fault Refusal :=
  match s.arg with
  | .regroupBound g => .next { s with m := regroupBound g s.m }
  | _ => .refused .noOperands

/-- SPRING_TIMER_EXPIRY (R35). -/
def execSpringTimerExpiry (s : State) : Host.Outcome State Fault Refusal :=
  match s.arg with
  | .springTimerExpiry crew bin => .next { s with m := springExpiry crew bin.toNat s.m }
  | _ => .refused .noOperands

/-- HANDLER_TIMEOUT (R352). -/
def execHandlerTimeout (s : State) : Host.Outcome State Fault Refusal :=
  match s.arg with
  | .handlerTimeout g => .next { s with m := handlerTimeout s.dev g s.m }
  | _ => .refused .noOperands

end Sys2Proof.Machine
end

