-- ==== Sys2Proof/Machine/Pointer.lean ====
section
/-! DEFINITION. Long names and short pointers in registers: LDN and STN (R73, R94, R237) and the pointer instructions (R92,
R238, R239). -/

namespace Sys2Proof.Machine

/-! ### Long names -/

/-- What the 16 bytes of a name are to LDN (R73). -/
inductive NameRes where
  | raw (a : Nat)
  | malformed
  | name (ident : DWord) (off : Nat)
  deriving DecidableEq, Repr

def readName (n : Nat) : NameRes :=
  if !bitOf n 127 then .raw (n % 2 ^ 64)
  else if bitsOf n 63 40 ≠ 0 then .malformed
  else .name (BitVec.ofNat 64 (n / 2 ^ 64)) (n % 2 ^ 40)

/-- A short pointer (R74). -/
def shortPtr (slot off : Nat) : Nat := 2 ^ 63 + slot * 2 ^ 40 + off % 2 ^ 40

/-- The 16 bytes of an address stored as a name: the identity word above the offset word (R94). -/
def nameOf (x : Ctx) (a : Nat) : Nat :=
  if kindOf a = 2 then
    match x.slot (slotOf a) with
    | some s => s.ident.toNat * 2 ^ 64 + offsetOf a
    | none => 0
  else a

/-- What the lanes of an LDN get: their addresses, the lanes for which no slot can be bound, and whether a reclaim is still
going on. -/
structure NamesBound where
  vals : List (Fibre × Nat)
  failed : List Fibre
  waits : Bool

/-- Names bound in home-lane order (R80). -/
def Mach.bindAll (m : Mach) (E : Env) : List (Fibre × Nat) → Mach × NamesBound
  | [] => (m, ⟨[], [], false⟩)
  | (f, n) :: t =>
    match readName n with
    | .raw a => let r := m.bindAll E t; (r.1, { r.2 with vals := (f, a) :: r.2.vals })
    | .malformed => m.bindAll E t
    | .name ident off =>
      match m.bind E.d E.x.addr E.l.serial ident with
      | (m1, .slot s) => let r := m1.bindAll E t; (r.1, { r.2 with vals := (f, shortPtr s off) :: r.2.vals })
      | (m1, .exhausted) => let r := m1.bindAll E t; (r.1, { r.2 with failed := f :: r.2.failed })
      | (m1, .wait) => let r := m1.bindAll E t; (r.1, { r.2 with waits := true })

/-- The lanes' names have been read: they are bound and written, or the LDN traps or waits for a reclaim. -/
def Mach.landNames (m : Mach) (E : Env) (vd : Nat) (names : List (Fibre × Nat)) : Mach × NamesBound :=
  let r := m.bindAll E names
  if r.2.failed != [] || r.2.waits then r else (r.1.pendLanes E false vd 2 r.2.vals, r.2)

/-- LDN (R73, R80, R237). -/
def ldnM (e : Enc) : Env → Mach → Mach :=
  withRecord e e.amode e.vc fun E m =>
    let rs := (E.act e).map fun f => (f, m.memLane E e.amode e.va (memDisp e) e.vc (memWant e .b128 false true) f)
    let here := fun (f : Fibre) (a : Acc) => a.fab.isNone || m.fabServed E e.scope f a
    let m0 := ((oks rs).filter fun p => here p.1 p.2).foldl (fun m p => m.raiseAll E.c.core e.scope p.2.cls (runLocs p.2.runs)) m
    let names := fun (l : List (Fibre × Acc)) => l.map fun p => (p.1, leNat (m0.readAcc E e.scope p.1 p.2))
    let rs1 := rs.map fun p =>
      match p.2 with
      | .ok a =>
        if here p.1 a && readName (leNat (m0.readAcc E e.scope p.1 a)) = .malformed then (p.1, LaneRes.trap 60 14 0) else p
      | _ => p
    (if (worst rs1).isSome then byLanes e rs1 (fun _ m => m) id E m
    else if (oks rs1).any fun p => m.fabAwaits E e.scope p.1 p.2 then m.stall E.c.id E.g.id
    else if m.anySent E e.scope (oks rs1) then
      askLanes e rs1 (fun later l m => (m.touchSlots E.x.addr l).sendLoads E e 31 16 later l) E m
    else
      let r := m0.landNames E e.vd (names (oks rs1))
      if r.2.failed != [] then trapLanes E m e 17 r.2.failed
      else if r.2.waits then r.1.stall E.c.id E.g.id
      else
        byLanes e rs1
          (fun l m => (m.touchSlots E.x.addr l).acquire E.c.core (l.map fun p => acqOf e p.2)) (fun m => m.advance E e) E r.1).tick
      E.c.core 1

/-- STN (R94, R237). -/
def stnM (e : Enc) : Env → Mach → Mach :=
  withRecord e e.amode e.vc fun E m =>
    let rs := (E.act e).map fun f =>
      let a := f.val e.vd 2
      let r := m.memLane E e.amode e.va (memDisp e) e.vc (memWant e .b128 true true) f
      let own := if kindOf a = 3 then some 21 else if kindOf a = 2 ∧ (E.x.named (slotOf a)).isNone then some 16 else none
      match own, r with
      | some _, .trap .. => (f, r)
      | some code, _ => (f, LaneRes.trap 60 code 0)
      | none, _ => (f, r)
    (byLanes e rs
      (fun l m => (m.touchSlots E.x.addr l).queueStores E e true (l.map fun p => (p.1, p.2, leBytes 16 (nameOf E.x (p.1.val e.vd 2)))))
      (fun m => m.advance E e) E m).tick E.c.core 1

/-! ### Pointer instructions -/

/-- A lane that needs no memory of its own. -/
def passed : LaneRes := .ok ⟨[], .n, false, 0, 0, none, 0, none, none⟩

/-- A pointer whose slot must be bound, and with `size` looked up (R87, R92, R239). -/
def slotCheck (x : Ctx) (f : Fibre) (size : Bool) (a : Nat) : LaneRes :=
  match x.named (slotOf a) with
  | none => .trap 22 16 0
  | some s =>
    if size && s.state = 1 then
      match f.carry.name with
      | some (n, code) => if n = s.n then .trap 42 code 0 else .lookup s.n
      | none => .lookup s.n
    else passed

def ptrA (e : Enc) (f : Fibre) : Nat := f.val e.va 2
def ptrB (e : Enc) (f : Fibre) : Nat := f.val e.vb 2

/-- PEQ (R92). -/
def pEq (a b : Nat) : Bool := a == b && kindOf a != 3

def peqM (e : Enc) (E : Env) (m : Mach) : Mach :=
  ((m.pendPreds E false e.vd ((E.act e).map fun f => (f, pEq (ptrA e f) (ptrB e f)))).advance E e).tick E.c.core 1

/-- The offset replaced, with the kind and slot given (R92). -/
def withOffset (a kind : Nat) (off : Int) : Nat := kind * 2 ^ 62 + a % 2 ^ 62 / 2 ^ 40 * 2 ^ 40 + wrap 40 off

/-- PADD (R92): `size` is that of the pointer's slot. -/
def pAdd (a size : Nat) (d : Int) : Nat :=
  if kindOf a = 0 then a / 2 ^ 57 * 2 ^ 57 + wrap 57 ((a % 2 ^ 57 : Nat) + d)
  else if kindOf a = 1 then a / 2 ^ 40 * 2 ^ 40 + wrap 40 ((offsetOf a : Int) + d)
  else
    let o : Int := (offsetOf a : Int) + d
    if kindOf a = 2 ∧ 0 ≤ o ∧ o ≤ (size : Int) then withOffset a 2 o else withOffset a 3 o

def slotSize (x : Ctx) (a : Nat) : Nat := match x.slot (slotOf a) with | some s => s.size | none => 0

/-- PADD's signed 64-bit b operand (R238). -/
def paddD (e : Enc) (f : Fibre) : Int := toSigned 64 (if e.bImm then immAt e .b64 else f.val e.vb 2)

def paddM (e : Enc) (E : Env) (m : Mach) : Mach :=
  let rs := (E.act e).map fun f => (f, if kindOf (ptrA e f) = 2 then slotCheck E.x f true (ptrA e f) else passed)
  (byLanes e rs
    (fun l m => m.pendLanes E false e.vd 2 (l.map fun p => (p.1, pAdd (ptrA e p.1) (slotSize E.x (ptrA e p.1)) (paddD e p.1))))
    (fun m => m.advance E e) E m).tick E.c.core 1

/-- Whether PDIFF has two pointers into one object (R92). -/
def pSame (a b : Nat) : Bool := kindOf a == 2 && kindOf b == 2 && slotOf a == slotOf b

/-- PDIFF (R92): register and predicate are results of one instruction (R142). -/
def pdiffM (e : Enc) (E : Env) (m : Mach) : Mach :=
  let both := fun (f : Fibre) =>
    let same := pSame (ptrA e f) (ptrB e f)
    (f.pendVal false m.nextId e.vd 2 (if same then wrap 64 ((offsetOf (ptrA e f) : Int) - offsetOf (ptrB e f)) else 0)).pendPred
      false m.nextId e.vc same
  let m1 := (E.act e).foldl (fun m f => m.updFibre E.c.id f.slot fun _ => both f) m
  (({ m1 with nextId := m1.nextId + 1 } : Mach).advance E e).tick E.c.core 1

def pnameM (e : Enc) (E : Env) (m : Mach) : Mach :=
  let rs := (E.act e).map fun f =>
    (f, if kindOf (ptrA e f) = 3 then .trap 21 21 0
        else if kindOf (ptrA e f) = 2 then slotCheck E.x f false (ptrA e f) else passed)
  (byLanes e rs (fun l m => m.pendLanes E false e.vd 4 (l.map fun p => (p.1, nameOf E.x (ptrA e p.1)))) (fun m => m.advance E e)
    E m).tick E.c.core 1

def psizeM (e : Enc) (E : Env) (m : Mach) : Mach :=
  let rs := (E.act e).map fun f =>
    (f, if kindOf (ptrA e f) = 3 then .trap 21 20 0
        else if kindOf (ptrA e f) = 2 then slotCheck E.x f true (ptrA e f) else passed)
  (byLanes e rs
    (fun l m => m.pendLanes E false e.vd 2
      (l.map fun p => (p.1, if kindOf (ptrA e p.1) = 2 then slotSize E.x (ptrA e p.1) else 2 ^ 64 - 1)))
    (fun m => m.advance E e) E m).tick E.c.core 1

/-- PRES (R92): of a large object the extent counts, also while another is being fetched. -/
def pRes (x : Ctx) (a : Nat) : Bool :=
  if kindOf a = 2 then
    match x.slot (slotOf a) with
    | some s => if s.large then (s.state == 3 || s.state == 4) && s.extents.any (fun e => e.1 == offsetOf a / 2 ^ 21) else s.state == 4
    | none => false
  else kindOf a != 3

def presM (e : Enc) (E : Env) (m : Mach) : Mach :=
  let rs := (E.act e).map fun f => (f, if kindOf (ptrA e f) = 2 then slotCheck E.x f false (ptrA e f) else passed)
  (byLanes e rs
    (fun l m =>
      let m1 := m.pendPreds E false e.vd (l.map fun p => (p.1, pRes E.x (ptrA e p.1)))
      if e.mb 49 then
        (l.filter fun p => kindOf (ptrA e p.1) == 2 && !pRes E.x (ptrA e p.1)).foldl
          (fun m p => m.waitSlot E.d E.x.addr (slotOf (ptrA e p.1)) (offsetOf (ptrA e p.1) / 2 ^ 21) []) m1
      else m1)
    (fun m => m.advance E e) E m).tick E.c.core 1

/-- LDN, W form (R237). -/
def execLdnW (f : WForm) (s : State) : Host.Outcome State Fault Refusal :=
  isa (checked (f.enc 0x110) (shapeOf (f.enc 0x110)) (ldnM (f.enc 0x110))) s

/-- LDN, L form (R237). -/
def execLdnL (f : LForm) (s : State) : Host.Outcome State Fault Refusal :=
  isa (checked (f.enc 0x110) (shapeOf (f.enc 0x110)) (ldnM (f.enc 0x110))) s

/-- STN, W form (R237). -/
def execStnW (f : WForm) (s : State) : Host.Outcome State Fault Refusal :=
  isa (checked (f.enc 0x111) (shapeOf (f.enc 0x111)) (stnM (f.enc 0x111))) s

/-- STN, L form (R237). -/
def execStnL (f : LForm) (s : State) : Host.Outcome State Fault Refusal :=
  isa (checked (f.enc 0x111) (shapeOf (f.enc 0x111)) (stnM (f.enc 0x111))) s

/-- PEQ, W form (R239). -/
def execPeq (f : WForm) (s : State) : Host.Outcome State Fault Refusal :=
  isa (checked (f.enc 0x112) (shapeOf (f.enc 0x112)) (peqM (f.enc 0x112))) s

/-- PADD, W form (R239). -/
def execPaddW (f : WForm) (s : State) : Host.Outcome State Fault Refusal :=
  isa (checked (f.enc 0x113) (shapeOf (f.enc 0x113)) (paddM (f.enc 0x113))) s

/-- PADD, L form (R239). -/
def execPaddL (f : LForm) (s : State) : Host.Outcome State Fault Refusal :=
  isa (checked (f.enc 0x113) (shapeOf (f.enc 0x113)) (paddM (f.enc 0x113))) s

/-- PDIFF, W form (R239). -/
def execPdiff (f : WForm) (s : State) : Host.Outcome State Fault Refusal :=
  isa (checked (f.enc 0x114) (shapeOf (f.enc 0x114)) (pdiffM (f.enc 0x114))) s

/-- PNAME, W form (R239). -/
def execPname (f : WForm) (s : State) : Host.Outcome State Fault Refusal :=
  isa (checked (f.enc 0x115) (shapeOf (f.enc 0x115)) (pnameM (f.enc 0x115))) s

/-- PSIZE, W form (R239). -/
def execPsize (f : WForm) (s : State) : Host.Outcome State Fault Refusal :=
  isa (checked (f.enc 0x116) (shapeOf (f.enc 0x116)) (psizeM (f.enc 0x116))) s

/-- PRES, W form (R239). -/
def execPres (f : WForm) (s : State) : Host.Outcome State Fault Refusal :=
  isa (checked (f.enc 0x117) (shapeOf (f.enc 0x117)) (presM (f.enc 0x117))) s

end Sys2Proof.Machine
end

