-- ==== Sys2Proof/Machine/FabricIn.lean ====
section
/-! DEFINITION. What the fabric brings: acknowledgements and responses of the part's own requests (R136, R138), incoming packets
(R402 to R406, R413, R427), the Weir's grants (R408 to R412) and pull tokens from other receivers, with the steps FABRIC_ACK,
FABRIC_RESPONSE, PACKET_ARRIVAL, TOKEN_GRANT, TOKEN_EXPIRY, FABRIC_EVENT_WRITE, ABANDON_NOTICE, RESUME_REQUEST,
PEER_CONTEXT_FETCH and PULL_TOKEN_ARRIVAL. -/

namespace Sys2Proof.Machine

/-! ### Acknowledgements (R136, R138) -/

def Mach.dropOut (m : Mach) (id : Nat) : Mach := { m with fabOut := m.fabOut.filter fun o => o.id != id }

/-- An error recorded against a fibre, with the node of the earliest. -/
def Fibre.fabError (f : Fibre) (node : Nat) : Fibre :=
  { f with fabErrs := f.fabErrs + 1, fabNode := if f.fabErrs = 0 then node else f.fabNode }

def Mach.fabErrors (m : Mach) (o : FabOut) (err : Bool) : Mach :=
  if err then o.slots.foldl (fun m s => m.updFibre o.crew s fun f => f.fabError o.node) m else m

/-- Whether a request asks for bytes back. -/
def FabOut.asks (o : FabOut) : Bool :=
  match o.kind with
  | .load .. | .tile => true
  | .atomic fetch .. => fetch
  | .packet .. | .post _ => o.data.isEmpty
  | .store | .writeback .. | .word .. => false

/-- The places of a request's bytes. -/
def FabOut.locs (o : FabOut) : List Loc := fabLocs o.node o.rkey o.off o.len

/-- What an acknowledgement means for copies: the line that the L2 slice kept for the write goes, since an acquire may have come in
between (R126), but for bytes of other writes on their way; and of a store that was not placed no L1 of its cluster keeps the line. -/
def Mach.fabAcked (m : Mach) (o : FabOut) (err : Bool) : Mach :=
  if o.isWrite then
    let hit := fun (c : Copy) => o.locs.any c.loc.sameLine
    { m with
      l1 := m.l1.filter fun c => !(err && c.unit / 4 == o.core / 4 && hit c)
      l2 := m.l2.filter fun c => !(c.unit == o.core / 4 && hit c) || m.onItsWay c.unit c.loc }
  else m

/-- A request is acknowledged, one whose bytes have not all left yet with an error alone (R408). An error of a resident copy's write-back
that a fibre's release sent is recorded against that fibre, as those of its own writes are (R138; log entry 84). -/
def fabricAck (id : Nat) (err : Bool) (m : Mach) : Mach :=
  match m.fabOut.find? fun o => o.id == id && !o.asks && o.answer.isNone && (err || decide (o.len ≤ o.allowed)) with
  | none => m
  | some o =>
    match o.kind with
    | .packet ch _ _ _ =>
      (m.dropOut id).updCrew o.crew fun c =>
        { c with channels := c.channels.map fun h =>
            if h.n == ch then (if err then h.refuse 6 (o.off - h.base) else { h with moved := h.moved + o.len }) else h }
    | .post _ => { m with fabOut := m.fabOut.map fun p => if p.id == id then { p with answer := some (err, []) } else p }
    | _ => ((m.fabErrors o err).dropOut id).fabAcked o err

/-! ### Responses (R138, R160) -/

/-- What each lane of an answered request gets: its slot and value. -/
def FabOut.results (o : FabOut) (data : List Byte) : List (Nat × Nat) :=
  match o.kind with
  | .load _ type _ _ =>
    let v := leNat (data.take o.len)
    [(o.slot, if type = 31 then v else match ETy.ofCode type with | some t => loadValue t v | none => v)]
  | .atomic _ op type lanes _ _ _ =>
    let t := (ETy.ofCode type).getD .b32
    (lanes.map (·.1)).zip (atomSeq op t (leNat (data.take o.len)) (lanes.map (·.2))).1
  | _ => []

/-- Destination register, register count, S bit and acquire of a request. -/
def FabOut.target (o : FabOut) : Nat × Nat × Bool × Option (Nat × Nat) :=
  let regs := fun (type : Nat) => if type = 31 then 2 else match ETy.ofCode type with | some t => t.regs | none => 1
  match o.kind with
  | .load vd type s acq => (vd, regs type, s, acq)
  | .atomic _ _ type _ vd s acq => (vd, regs type, s, acq)
  | .word _ _ _ _ _ type _ vd s acq => (vd, regs type, s, acq)
  | _ => (0, 1, false, none)

def FabOut.isName (o : FabOut) : Bool := match o.kind with | .load _ 31 _ _ => true | _ => false

/-- The words of memory of an atomic whose fabric lanes have all been answered (R242): what each lane fetches. -/
def Mach.words (m : Mach) (E : Env) : List FabOut → Mach × List (Nat × Nat)
  | [] => (m, [])
  | o :: t =>
    match o.kind with
    | .word cls scope locs object op type lanes _ _ _ =>
      let r := m.wordAtomic E cls scope locs object op ((ETy.ofCode type).getD .b32) (lanes.map (·.2))
      let q := Mach.words r.1 E t
      (q.1, (lanes.map (·.1)).zip r.2.2 ++ q.2)
    | _ => Mach.words m E t

/-- The bytes that an answered read of the fabric brings: copies older than they are go, and they are kept as copies as far as
the read allows (R101, R121), unless a write to their line is still on its way: it may be older or newer than they are (R129). -/
def Mach.fabKeep (m : Mach) (k : Key) (o : FabOut) (err : Bool) (data : List Byte) : Mach :=
  match o.kind with
  | .load .. =>
    let m1 := (m.noFill (o.core / 4) fun p => p.meets o.node o.rkey o.off o.len).fabDrop o.core o.locs
    if err || o.fill = 0 || (o.locs.flatMap Loc.line).any (m.onItsWay (o.core / 4)) then m1
    else m1.fabPut o.core o.fill k (o.locs.zip data)
  | .atomic .. => (m.noFill (o.core / 4) fun p => p.meets o.node o.rkey o.off o.len).fabDrop o.core o.locs
  | _ => m

/-- The gang goes on after an instruction whose responses are all in. -/
def Mach.fabGoOn (m : Mach) (E : Env) (outs : List FabOut) : Mach :=
  let s := outs.any fun o => o.target.2.2.1
  let m1 := m.acquire E.c.core (outs.map fun o => o.target.2.2.2)
  (outs.foldl (fun m o => m.dropOut o.id) m1).updCrew E.c.id fun c =>
    (c.updGang E.g.id fun g => { g.bump with state := .ready, wake := .none, waited := 0 }).switchPark E.g.id s

/-- The lanes of an instruction that asked the fabric which park now that none has trapped (R15): they are left at it, and park as they
execute it again. -/
def Mach.leaveLater (m : Mach) (E : Env) (later : BitVec 32) : Mach :=
  if later = 0 then m
  else
    let r := m.splitOff E.c.id E.g.id later
    r.1.updGang E.c.id r.2 fun g => { g with state := .ready, wake := .none }

/-- Every response of a gang's instruction is there: it traps, or its results are written when they land and it goes on. A trap is
taken by the lanes too that would park (R15). -/
def fabFinish (E : Env) (ids : List Nat) (later : BitVec 32) (m : Mach) : Mach :=
  let outs := m.fabOut.filter fun o => ids.contains o.id
  if outs.any (·.answer.isNone) then m
  else
    let bad := outs.filter fun o => match o.answer with | some (err, b) => err || decide (b.length < o.len) | none => true
    let lanesOf := fun (l : List FabOut) => maskOf ((l.flatMap FabOut.slots).filterMap E.c.fibre)
    let act := lanesOf outs ||| later
    let gone := fun (m : Mach) => outs.foldl (fun m o => m.dropOut o.id) m
    if bad != [] then takeTrap E (gone m) act 23 fun _ => (lanesOf bad).toNat
    else
      let w := m.words E outs
      let vals := ((outs.flatMap fun o => o.results (o.answer.getD (false, [])).2) ++ w.2).filterMap fun p =>
        (E.c.fibre p.1).map fun f => (f, p.2)
      let tgt := match outs with | o :: _ => o.target | [] => (0, 1, false, none)
      if outs.any FabOut.isName then
        let wrong := vals.filter fun p => readName p.2 = .malformed
        if wrong != [] then takeTrap E (gone m) act 14 fun _ => (maskOf (wrong.map (·.1))).toNat
        else
          let r := m.landNames E tgt.1 vals
          if r.2.failed != [] then takeTrap E (gone m) act 17 fun _ => (maskOf r.2.failed).toNat
          else if r.2.waits then r.1
          else (r.1.leaveLater E later).fabGoOn E outs
      else ((w.1.pendLanes E false tgt.1 tgt.2.1 vals).leaveLater E later).fabGoOn E outs

/-- Bytes that a pull's packet has brought arrive under its message's tokens. -/
def Mach.pullArrived (m : Mach) (o : FabOut) (err : Bool) : Mach :=
  match o.kind with
  | .packet _ msg _ _ => if err then m else m.arrived msg o.len
  | _ => m

/-- A response comes: outside world 0 it is decrypted, and one whose tag fails is an error (R427). -/
def fabricResponse (d : Dev) (id : Nat) (err0 : Bool) (data0 : List Byte) (m : Mach) : Mach :=
  match m.fabOut.find? fun o => o.id == id && o.asks with
  | none => m
  | some o =>
    let k := match m.crew o.crew with | some c => (m.ctx c.ctx).key d | none => .zero
    let err := err0 || (o.opened d data0).isNone
    let data := (o.opened d data0).getD []
    let m1 := if o.answer.isSome then m else
      (({ m with fabOut := m.fabOut.map fun p => if p.id == id then { p with answer := some (err, data) } else p } : Mach).fabKeep k o
        err data).pullArrived o err
    match m1.env d ⟨o.crew, o.gang⟩ with
    | none => m1
    | some E =>
      match E.g.wake with
      | .fabric ids later => if ids.contains id then fabFinish E ids later m1 else m1
      | _ => m1

/-- Requests for which no usable port exists are refused at the sender (R398). -/
def Mach.refuseSends (m : Mach) (d : Dev) : Mach :=
  ((m.fabOut.filter fun o => o.answer.isNone && !d.canSend o.node).map fun o => (o.id, o.asks)).foldl
    (fun m p => if p.2 then fabricResponse d p.1 true [] m else fabricAck p.1 true m) m

/-! ### Incoming packets: the rkey (R402 to R404) -/

def rkeyQueue (k : Nat) : Nat := bitsOf k 31 18
def rkeyRegion (k : Nat) : Nat := bitsOf k 17 8

/-- Bytes that a packet acts on, and the permission it needs of the region and of the page. -/
def packetLen (p : Packet) : Nat :=
  match p.kind with
  | .read n => n
  | .write data => data.length
  | .atomic _ type _ _ _ => match ETy.ofCode type.toNat with | some t => t.bits / 8 | none => 0

def packetBit (p : Packet) : Nat := match p.kind with | .read _ => 1 | .write _ => 2 | .atomic .. => 3
def packetAccess (p : Packet) : Nat := match p.kind with | .read _ => 1 | .write _ => 2 | .atomic .. => 3

/-- The context that an rkey's queue names (R402), where the queue is enabled. -/
def Mach.rkeyCtx (m : Mach) (d : Dev) (p : Packet) : Option (Nat × Nat) :=
  let q := m.queue (rkeyQueue p.rkey.toNat)
  let w := m.queueDesc d (rkeyQueue p.rkey.toNat)
  if q.enabled && descEnabled w then some (descCtx w, descFn w) else none

inductive Checked where
  | ok (va : Nat)
  | refused
  | fault (va cause level access : Nat)
  deriving DecidableEq, Repr

/-- An arriving packet in the clear: of a context outside world 0 its payload is decrypted under the world's fabric key, and none where
its tag fails (R427). -/
def openPacket (d : Dev) (fn : Nat) (p : Packet) : Option Packet :=
  let plain := fun (l : List Byte) => payloadOpen (d.fabricKey fn) (Config.gcmNonce p.node.toNat p.msg p.offset.toNat) l p.tag
  if fn = 0 then some p
  else
    match p.kind with
    | .read _ => (plain []).map fun _ => p
    | .write data => (plain data).map fun l => { p with kind := .write l }
    | .atomic op type operand expected fetch =>
      (plain (leBytes 8 operand.toNat ++ leBytes 8 expected.toNat)).map fun l =>
        { p with kind := .atomic op type (BitVec.ofNat 64 (leNat (l.take 8))) (BitVec.ofNat 64 (leNat (l.drop 8))) fetch }

/-- The checks of R404. -/
def Mach.packetCheck (m : Mach) (d : Dev) (x : Ctx) (p : Packet) : Checked :=
  let f := x.fabric.toNat
  let k := p.rkey.toNat
  if !bitOf f 0 ∨ 2 ^ bitsOf f 19 16 ≤ rkeyRegion k then .refused
  else
    match m.rangeRuns d x 0 (bitsOf f 383 320 + 32 * rkeyRegion k) 32 1 false with
    | .fault va c l => .fault va c l 1
    | .window => .refused
    | .ok r =>
      let e := leNat ((runLocs r).map (m.homeRead (x.key d)))
      if !bitOf e 0 ∨ bitsOf e 71 64 ≠ k % 256 ∨ !bitOf e (packetBit p) ∨ bitsOf e 63 4 ≠ 0 ∨ bitsOf e 127 72 ≠ 0 ∨ bitsOf e 191 169 ≠ 0
          ∨ bitsOf e 168 128 < p.offset.toNat + packetLen p then .refused
      else .ok (bitsOf e 255 192 + p.offset.toNat)

/-! ### Messages (R406, R408 to R412) -/

def Mach.message (m : Mach) (node msg : Nat) : Option InMsg :=
  m.inMsgs.find? fun i => i.node == node && i.msg == msg && i.pull.isNone && i.oru.isNone && !i.orphan

def Mach.updMsg (m : Mach) (id : Nat) (h : InMsg → InMsg) : Mach :=
  { m with inMsgs := m.inMsgs.map fun i => if i.id == id then h i else i }

/-- A message that opens with a packet: the first Min(length, 16 KiB) bytes need no grant (R408). -/
def InMsg.opened (id ctx order : Nat) (p : Packet) : InMsg :=
  { id := id, node := p.node.toNat, msg := p.msg, ctx := ctx, queue := rkeyQueue p.rkey.toNat, region := rkeyRegion p.rkey.toNat
    rkey := p.rkey.toNat, prio := p.prio.toNat, total := p.total, granted := min p.total 16384, placed := 0, packets := []
    order := order, expired := 0, held := false, orphan := false, deferred := none, pull := none, oru := none }

/-- Bytes dropped at the receiver are granted again, and their token is not counted against the sender (R413). -/
def cutToken (msg n : Nat) : List Token → List Token
  | [] => []
  | t :: r =>
    if t.msg == msg then (if t.bytes ≤ n then r else { t with bytes := t.bytes - n, dropped := true } :: r) else t :: cutToken msg n r

def Mach.regrant (m : Mach) (i : InMsg) (n : Nat) : Mach :=
  { m.updMsg i.id (fun i => { i with granted := i.granted - n }) with tokens := cutToken i.id n m.tokens }

/-- A message is closed or released: further packets of it are refused (R406). -/
def Mach.close (m : Mach) (node msg : Nat) : Mach :=
  if m.closed.contains (node, msg) then m else { m with closed := (node, msg) :: m.closed }

/-- An open message and its tokens go, and it is closed. -/
def Mach.closeMsg (m : Mach) (node msg : Nat) : Mach :=
  match m.message node msg with
  | some i => ({ m with inMsgs := m.inMsgs.filter fun j => j.id != i.id, tokens := m.tokens.filter fun t => t.msg != i.id } : Mach).close node msg
  | none => m.close node msg

/-- A message whose bytes are all placed is closed. -/
def Mach.closeDone (m : Mach) (id : Nat) : Mach :=
  match m.inMsgs.find? fun i => i.id == id with
  | some i => if i.total ≤ i.placed then m.closeMsg i.node i.msg else m
  | none => m

/-- A packet's bytes written at their place in the receiving context (R132, R404). -/
def Mach.placeBytes (m : Mach) (d : Dev) (x : Ctx) (runs : List Run) (data : List Byte) : Mach :=
  m.engineWrite (x.key d) (runLocs runs) data

/-- A deferred final write lands once the rest of its message has (R137). Its check is made again: after a revocation it is dropped,
so that nothing carrying the old rkey changes memory late (R405). -/
def Mach.landDeferred (m : Mach) (d : Dev) (x : Ctx) (id : Nat) : Mach :=
  match m.inMsgs.find? fun i => i.id == id with
  | none => m
  | some i =>
    match i.deferred with
    | none => m
    | some p =>
      if i.placed + packetLen p < i.total then m
      else
        match m.packetCheck d x p, p.kind with
        | .ok va, .write data =>
          match m.rangeRuns d x 0 va data.length 2 false with
          | .ok runs =>
            if (runLocs runs).any d.lost then m.closeMsg i.node i.msg
            else (m.placeBytes d x runs data).updMsg id fun i => { i with placed := i.placed + data.length, deferred := none }
          | _ => m.closeMsg i.node i.msg
        | _, _ => m.closeMsg i.node i.msg

/-- A write packet that has passed its checks. -/
def Mach.placeWrite (m : Mach) (d : Dev) (x : Ctx) (p : Packet) (runs : List Run) (data : List Byte) : Mach :=
  if p.total ≤ data.length then (m.placeBytes d x runs data).closeMsg p.node.toNat p.msg
  else
    let opened := m.message p.node.toNat p.msg
    let m1 := match opened with
      | some _ => m
      | none => if p.unscheduled then
          { m with inMsgs := m.inMsgs ++ [InMsg.opened m.nextId x.addr m.nextId p], nextId := m.nextId + 1 } else m
    match m1.message p.node.toNat p.msg with
    | none => m1
    | some i =>
      if i.packets.contains (p.offset.toNat, data.length) then m1
      else
        let m2 := if p.unscheduled then m1 else m1.arrived i.id data.length
        let note := fun (i : InMsg) => { i with packets := i.packets ++ [(p.offset.toNat, data.length)] }
        if p.final ∧ i.placed + data.length < i.total then m2.updMsg i.id fun i => { note i with deferred := some p }
        else
          let m3 := (m2.placeBytes d x runs data).updMsg i.id fun i => { note i with placed := i.placed + data.length }
          (m3.landDeferred d x i.id).closeDone i.id

/-- An atomic of a packet, performed at the point of sys (R415). -/
def Mach.placeAtomic (m : Mach) (d : Dev) (x : Ctx) (p : Packet) (va : Nat) (runs : List Run) : Mach :=
  match p.kind with
  | .atomic op type operand expected _ =>
    match ETy.ofCode type.toNat with
    | none => m
    | some t =>
      if va % (t.bits / 8) ≠ 0 then m
      else
        let old := leNat (m.engineRead (x.key d) runs)
        let r := atomSeq op.toNat t old [(operand.toNat % 2 ^ t.bits, expected.toNat % 2 ^ t.bits)]
        (m.placeBytes d x runs (leBytes (t.bits / 8) r.2)).closeMsg p.node.toNat p.msg
  | _ => m

/-- A packet is dropped (R413): the bytes of a scheduled one are granted again; an unscheduled one is refused with a retry mark, and
its bytes join the scheduled remainder of its message. -/
def Mach.dropPacket (m : Mach) (ctx : Nat) (p : Packet) : Mach :=
  match m.message p.node.toNat p.msg, p.kind with
  | _, .read _ => m
  | some i, _ =>
    if p.unscheduled then m.updMsg i.id fun i => { i with granted := i.granted - packetLen p } else m.regrant i (packetLen p)
  | none, _ =>
    if p.unscheduled then
      { m with
        inMsgs := m.inMsgs ++ [{ InMsg.opened m.nextId ctx m.nextId p with granted := min p.total 16384 - packetLen p }]
        nextId := m.nextId + 1 }
    else m

/-- A packet for a context whose peer context is held, in the clear: checked and placed, refused, or dropped for a translation fault. -/
def Mach.takePacket (m0 : Mach) (d : Dev) (ctx fn : Nat) (p : Packet) : Mach :=
  let m := m0.claim fn ctx
  let x := m.view d fn ctx
  let drop := fun (m : Mach) (va c l a : Nat) =>
    (m.raiseFault d x 0 (.fabric ctx p.node.toNat p.msg) va c l a).1.dropPacket ctx p
  if m.closed.contains (p.node.toNat, p.msg) then m
  else match m.packetCheck d x p with
  | .refused => m
  | .fault va c l a => drop m va c l a
  | .ok va =>
    match m.rangeRuns d x 0 va (packetLen p) (packetAccess p) false with
    | .fault fva c l => drop m fva c l (packetAccess p)
    | .window => m
    | .ok runs =>
      match p.kind with
      | .write data => if (runLocs runs).any d.lost then m else m.placeWrite d x p runs data
      | .atomic .. => if (runLocs runs).any d.unreadable then m else m.placeAtomic d x p va runs
      | .read _ => m

/-- A packet whose tag fails is refused (R427). -/
def Mach.processPacket (m : Mach) (d : Dev) (ctx fn : Nat) (p : Packet) : Mach :=
  match openPacket d fn p with
  | none => m
  | some q => m.takePacket d ctx fn q

/-- An arriving packet waits in the miss buffer while its peer context is away; a full buffer drops it (R413). -/
def packetArrival (d : Dev) (p : Packet) (m : Mach) : Mach :=
  match m.rkeyCtx d p with
  | none => m
  | some (ctx, fn) =>
    if m.peers.contains ctx then { m with peers := ctx :: m.peers.filter (· != ctx) }.processPacket d ctx fn p
    else if m.missed.length < 512 then { m with missed := m.missed ++ [p] }
    else if m.closed.contains (p.node.toNat, p.msg) then m
    else m.dropPacket ctx p

/-- What the Weir keeps of a context goes to the context's save area (R413). The rules give the area's place and neither what it holds
nor its length: free bytes, 4 KiB of them (log entry 72). -/
def Mach.savePeer (m : Mach) (d : Dev) (ctx : Nat) : Mach :=
  let x := m.view d (m.ctx ctx).fn ctx
  let a := bitsOf x.fabric.toNat 511 448
  m.vaWrite d (x.via [1, 3] a 4096) a ((List.range 4096).map fun i => BitVec.ofNat 8 (Config.freeOf 413 (ctx + m.nextId) i).toNat)

/-- An evicted peer context comes back, the least recently touched leaving for it, and its waiting packets proceed (R413). -/
def peerFetch (d : Dev) (ctx : Nat) (m : Mach) : Mach :=
  if m.peers.contains ctx then m
  else
    let mine := m.missed.filter fun p => match m.rkeyCtx d p with | some (c, _) => c == ctx | none => false
    let m0 := (m.peers.drop 4095).foldl (fun m c => m.savePeer d c) m
    let m1 := { m0 with peers := ctx :: m.peers.take 4095, missed := m.missed.filter fun p => !mine.contains p }
    mine.foldl
      (fun m p => match m.rkeyCtx d p with
        | some (c, fn) => m.processPacket d c fn p
        | none => m) m1

/-! ### Grants (R408 to R410) -/

def InMsg.waiting (i : InMsg) : Bool := decide (i.granted < i.total) && !i.held && !i.orphan

/-- Whether a packet of a message has met a translation fault that is not answered yet: its bytes are granted again after RETRY
(R413). -/
def Mach.faulted (m : Mach) (i : InMsg) : Bool := m.faults.any fun r => r.joined.contains (.fabric i.ctx i.node i.msg)

/-- Whether i is granted before j: the higher class, the fewer bytes still to grant, the older (R409). -/
def InMsg.before (i j : InMsg) : Bool :=
  if i.prio ≠ j.prio then j.prio < i.prio
  else if i.total - i.granted ≠ j.total - j.granted then i.total - i.granted < j.total - j.granted
  else decide (i.order ≤ j.order)

def firstMsg : List InMsg → Option InMsg
  | [] => none
  | i :: t =>
    match firstMsg t with
    | none => some i
    | some j => if i.before j then some i else some j

/-- Bytes granted and not arrived. -/
def Mach.outstanding (m : Mach) : Nat := m.tokens.foldl (fun n t => n + (t.bytes - t.used)) 0

/-- A channel learns how much of its pull is granted. -/
def Mach.showGranted (m : Mach) (msg : Nat) : Mach :=
  match m.inMsgs.find? fun i => i.id == msg with
  | none => m
  | some i =>
    match i.pull with
    | none => m
    | some (crew, ch) =>
      m.updCrew crew fun c => { c with channels := c.channels.map fun h => if h.n == ch then { h with granted := i.granted } else h }

/-- The next pull token, while the outstanding grant has room: 8 MiB, of which 1 MiB is class 7's alone. -/
def tokenGrant (m : Mach) : Mach :=
  match firstMsg (m.inMsgs.filter fun i => i.waiting && !m.faulted i) with
  | none => m
  | some i =>
    let n := min 65536 (i.total - i.granted)
    if (if i.prio = 7 then 8 else 7) * 2 ^ 20 < m.outstanding + n then m
    else
      ((m.updMsg i.id fun i => { i with granted := i.granted + n }).issueToken i.id n).showGranted i.id

/-- A message whose sender has failed: an incoming one is closed and waits for its event entry, a pull ends its record, and a fetch of
the ORU ends without a copy (R88, R410). -/
def Mach.orphan (m : Mach) (d : Dev) (i : InMsg) : Mach :=
  let m1 := { m with tokens := m.tokens.filter fun t => t.msg != i.id }
  match i.pull, i.oru with
  | none, none => (m1.updMsg i.id fun i => { i with orphan := true }).close i.node i.msg
  | none, some (ctx, n) =>
    match (m1.ctx ctx).slot n with
    | some s => if s.state = 3 then m1.failFetch d ctx s else m1
    | none => m1
  | some (crew, ch), _ =>
    let mine := m1.fabOut.filter fun o => o.ofChannel crew ch && o.answer.isNone
    let m2 := { m1 with
      inMsgs := m1.inMsgs.filter fun j => j.id != i.id
      fabOut := m1.fabOut.filter fun o => !(o.ofChannel crew ch && o.answer.isNone) }
    m2.updCrew crew fun c => { c with channels := c.channels.map fun (h : Channel) =>
      if h.n == ch then { mine.foldl (fun h o => h.refuse 6 (o.off - h.base)) h with status := 6 } else h }

/-- A token expires: what has not arrived under it is granted again later. One under which nothing came counts against the sender, unless
its bytes were dropped here; two in succession end the message (R410, R413). -/
def tokenExpiry (d : Dev) (token : Nat) (m : Mach) : Mach :=
  match m.tokens.find? fun t => t.id == token with
  | none => m
  | some t =>
    if m.dclock < t.deadline then m
    else
      let m1 := { m with tokens := m.tokens.filter fun u => u.id != token }
      match m1.inMsgs.find? fun i => i.id == t.msg with
      | none => m1
      | some i =>
        let idle := if t.used ≠ 0 then 0 else if t.dropped then i.expired else i.expired + 1
        let m2 := (m1.updMsg i.id fun i => { i with granted := i.granted - (t.bytes - t.used), expired := idle }).showGranted i.id
        if idle = 2 then m2.orphan d i else m2

/-- The 64 bytes of an ORPHAN entry (R411). -/
def InMsg.event (i : InMsg) : Nat := 1 + i.queue * 2 ^ 8 + i.region * 2 ^ 22 + i.node * 2 ^ 32 + i.placed * 2 ^ 64

/-- An orphan's entry is written once the fabric event ring has room, and its state released. -/
def fabricEvent (d : Dev) (ctx : Nat) (m : Mach) : Mach :=
  match m.inMsgs.find? fun i => i.ctx == ctx && i.orphan with
  | none => m
  | some i =>
    let x := m.view d (m.ctx ctx).fn ctx
    let r := x.eventRing.toNat
    let prod := m.headerNat d x 0x950 4
    let cons := m.headerNat d x 0x954 4
    let y := x.via [1, 3] (bitsOf r 255 192) (64 * 2 ^ (r % 32))
    let a := bitsOf r 255 192 + 64 * (prod % 2 ^ (r % 32))
    if 2 ^ (r % 32) ≤ (prod + 2 ^ 32 - cons) % 2 ^ 32 ∨ !m.ringOpen d y a 64 then m
    else
      let m1 := m.vaWrite d y a (leBytes 64 i.event)
      let m2 := m1.physWrite (d.fnKey x.fn) (ctx + 0x950) (leBytes 4 (prod + 1))
      ({ m2 with inMsgs := m2.inMsgs.filter fun j => j.id != i.id }).raiseIrq x.fn 1

/-! ### Senders that stop and go on (R412) -/

/-- An abandon notice: the message's outstanding tokens are cancelled and not counted, its state kept. -/
def abandonNotice (id : Nat) (m : Mach) : Mach :=
  let lost := (m.tokens.filter fun t => t.msg == id).foldl (fun n t => n + (t.bytes - t.used)) 0
  { m.updMsg id (fun i => { i with held := true, granted := i.granted - lost }) with tokens := m.tokens.filter fun t => t.msg != id }

/-- A resume request: the rest is granted from the acknowledged count, and bytes sent again are placed again. -/
def resumeRequest (id acked : Nat) (m : Mach) : Mach :=
  m.updMsg id fun i =>
    if i.held then
      { i with held := false, granted := acked, placed := acked, packets := i.packets.filter fun p => decide (p.1 + p.2 ≤ acked) }
    else i

/-- A token for a channel's push: it grants up to 64 KiB, until it lapses (R408, R410; log entry 71). -/
def Channel.token (h : Channel) (now bytes : Nat) : Channel :=
  match h.body with
  | none => h
  | some b =>
    let h1 := h.lapse now
    let n := min (min bytes 65536) (recLen b.toNat - h1.granted)
    if kindOf (recDst b.toNat) ≠ 1 then h else { h1 with granted := h1.granted + n, grants := h1.grants ++ [(now + Config.clocks32us, n)] }

/-- The first write-back of the ORU that still has bytes without a grant may send more of them (R89, R408). -/
def allowMore (bytes : Nat) : List FabOut → List FabOut
  | [] => []
  | o :: t => if o.allowed < o.len then { o with allowed := min o.len (o.allowed + min bytes 65536) } :: t else o :: allowMore bytes t

/-- A pull token reaches this device as the sender of a channel's record, or of the ORU's write-backs under crew 0 (R89, R408). -/
def pullToken (crew ch bytes : Nat) (m : Mach) : Mach :=
  if crew = 0 then { m with fabOut := allowMore bytes m.fabOut }
  else
    m.updCrew crew fun c =>
      { c with channels := c.channels.map fun h => if h.n == ch then h.token m.dclock bytes else h }

/-! ### Steps -/

/-- FABRIC_ACK (R136, R138). -/
def execFabricAck (s : State) : Host.Outcome State Fault Refusal :=
  match s.arg with
  | .fabricAck id err => .next { s with m := fabricAck id err s.m }
  | _ => .refused .noOperands

/-- FABRIC_RESPONSE (R138). -/
def execFabricResponse (s : State) : Host.Outcome State Fault Refusal :=
  match s.arg with
  | .fabricResponse id err data => .next { s with m := fabricResponse s.dev id err data s.m }
  | _ => .refused .noOperands

/-- PACKET_ARRIVAL (R404, R406, R413, R415). -/
def execPacketArrival (s : State) : Host.Outcome State Fault Refusal :=
  match s.arg with
  | .packetArrival p => .next { s with m := packetArrival s.dev p s.m }
  | _ => .refused .noOperands

/-- TOKEN_GRANT (R409). -/
def execTokenGrant (s : State) : Host.Outcome State Fault Refusal := .next { s with m := tokenGrant s.m }

/-- TOKEN_EXPIRY (R410). -/
def execTokenExpiry (s : State) : Host.Outcome State Fault Refusal :=
  match s.arg with
  | .tokenExpiry token => .next { s with m := tokenExpiry s.dev token s.m }
  | _ => .refused .noOperands

/-- FABRIC_EVENT_WRITE (R410, R411). -/
def execFabricEventWrite (s : State) : Host.Outcome State Fault Refusal :=
  match s.arg with
  | .fabricEventWrite ctx => .next { s with m := fabricEvent s.dev ctx s.m }
  | _ => .refused .noOperands

/-- ABANDON_NOTICE (R412). -/
def execAbandonNotice (s : State) : Host.Outcome State Fault Refusal :=
  match s.arg with
  | .abandonNotice msg => .next { s with m := abandonNotice msg s.m }
  | _ => .refused .noOperands

/-- RESUME_REQUEST (R412). -/
def execResumeRequest (s : State) : Host.Outcome State Fault Refusal :=
  match s.arg with
  | .resumeRequest msg acked => .next { s with m := resumeRequest msg acked.toNat s.m }
  | _ => .refused .noOperands

/-- PEER_CONTEXT_FETCH (R413). -/
def execPeerContextFetch (s : State) : Host.Outcome State Fault Refusal :=
  match s.arg with
  | .peerContextFetch ctx => .next { s with m := peerFetch s.dev ctx s.m }
  | _ => .refused .noOperands

/-- PULL_TOKEN_ARRIVAL (R408). -/
def execPullTokenArrival (s : State) : Host.Outcome State Fault Refusal :=
  match s.arg with
  | .pullTokenArrival crew ch bytes => .next { s with m := pullToken crew ch.toNat bytes.toNat s.m }
  | _ => .refused .noOperands

end Sys2Proof.Machine
end

