-- ==== Sys2Proof/Machine/Gpass.lean ====
section
/-! DEFINITION. GPASS and its step GPASS_UNIT (R426). -/

namespace Sys2Proof.Machine

/-- One side of a GPASS: its range, and for ciphertext the offset of its first byte in the object and the places of its tags. -/
structure GSide where
  range : LaneRes
  attrs : List (Bool × Nat)
  off : Nat
  tags : LaneRes
  /-- What the last unit holds beyond the range (R421). -/
  rest : LaneRes
  aligned : Bool
  deriving DecidableEq, Repr

/-- The tags of `n` units from the one at an offset. -/
def Mach.unitTags (m : Mach) (E : Env) (errorPage : Option Nat) (slot : Option Slot) (start size off n access : Nat) : LaneRes :=
  ((List.range n).map fun i => m.tagRuns E.d E.x E.cluster errorPage slot start size (off / 512 + i) access).foldl LaneRes.append (.ok .none)

/-- A side looked up and checked (R261, R421, R422). -/
def Mach.gside (m : Mach) (E : Env) (f : Fibre) (a len access key : Nat) : GSide :=
  let r := if kindOf a = 1 then LaneRes.trap 20 4 0 else m.engineRange E f ⟨len, access, 1, false, false, true⟩ a
  match r with
  | .ok acc =>
    let attrs := if kindOf a = 0 then m.pageAttrs E.d E.x E.cluster a len access else [(acc.cipher, acc.keyId)]
    let units := (len + 511) / 512
    let side := fun (slot : Option Slot) (start size off : Nat) =>
      if off % 512 ≠ 0 ∨ size = 0 then GSide.mk r attrs off (.ok .none) (.ok .none) false
      else
        GSide.mk r attrs off (m.unitTags E f.carry.errorPage slot start size off units access)
          (m.unitRest E.d E.x E.cluster f.carry.errorPage slot start size off len access) true
    if key = 0 then ⟨r, attrs, 0, .ok .none, .ok .none, true⟩
    else
      match acc.object, acc.start with
      | some (s, off), _ =>
        match E.x.slot s with
        | some sl => side (some sl) 0 sl.size off
        | none => ⟨r, attrs, off, .ok .none, .ok .none, false⟩
      | none, some st =>
        side none st (match E.x.ranges.find? fun q => q.base == st with | some q => q.limit - q.base | none => 0) (acc.va - st)
      | none, none => ⟨r, attrs, 0, .ok .none, .ok .none, false⟩
  | _ => ⟨r, [], 0, .ok .none, .ok .none, true⟩

/-- GPASS at issue (R425, R426): a bad length is ILLEGAL_OPERAND; then the gate, the ranges, the gate's agreement with both sides and
the unit alignment of a ciphertext side (CIPHER_USE). -/
def gpassM (e : Enc) : Env → Mach → Mach :=
  lowest e fun f E m =>
    let len := b32At e f
    let g := e.mb 59
    if len % 16 ≠ 0 then trapAct e E m 2 e.parcel
    else
      match m.gateEntry E.d E.x E.l (e.m 62 60) with
      | none => trapAct e E m 39 (actMask e E)
      | some gate =>
        let s := m.gside E f (f.val e.va 2) len 1 gate.skey
        let t := m.gside E f (f.val e.vd 2) len 2 gate.dkey
        let rs := [s.range, t.range, gaugeCheck g E e f]
        if !allOk rs then collect e rs id E m
        else if !sideAgrees gate.skey s.attrs || !sideAgrees gate.dkey t.attrs then trapAct e E m 39 (actMask e E)
        else if !s.aligned || !t.aligned then trapAct e E m 32 (actMask e E)
        else
          collect e (rs ++ [s.tags, s.rest, t.tags, t.rest])
            (fun m =>
              let op : GpassOp :=
                { id := m.nextId, slot := f.slot, by_ := (E.act e).map Fibre.slot, src := (accOf s.range).runs, dst := (accOf t.range).runs
                  len := len, at_ := 0, srcOff := s.off, dstOff := t.off, srcTags := (accOf s.tags).runs, dstTags := (accOf t.tags).runs
                  srcRest := (accOf s.rest).runs, dstRest := (accOf t.rest).runs
                  srcObject := (accOf s.range).object, dstObject := (accOf t.range).object, skey := gate.skey, dkey := gate.dkey
                  scomp := gate.scomp, dcomp := gate.dcomp, gauge := gaugeAt g E e f, failed := false }
              { (m.touchSlots E.x.addr [(f, accOf s.range), (f, accOf t.range)]).updCrew E.c.id
                  (fun c => { c with gpasses := c.gpasses ++ [op] }) with nextId := m.nextId + 1 }) E m

def Mach.setGpass (m : Mach) (crew : Nat) (o : GpassOp) : Mach :=
  m.updCrew crew fun c => { c with gpasses := c.gpasses.map fun p => if p.id == o.id then o else p }

/-- The arrival of a GPASS, and its end; a gauge that is not valid is a copy error of the fibre (R113, R426). -/
def Mach.gpassEnd (m : Mach) (crew : Nat) (o : GpassOp) : Mach :=
  let m1 := m.updCrew crew fun c => { c with gpasses := c.gpasses.filter fun p => p.id != o.id }
  match o.gauge with
  | none => m1
  | some a =>
    let r := m1.arrive a 1 (if o.failed then o.len else o.at_) o.failed
    if r.2 then r.1 else r.1.copyError crew o.slot 1

/-- GPASS_UNIT: the next 512-byte unit of a GPASS, or its end (R426). A unit that cannot be read, or whose tag fails,
ends it, and so does a range with chip-window bytes that its context owns no longer (R115, R437; log entry 69). -/
def gpassUnit (d : Dev) (crew id : Nat) (m : Mach) : Mach :=
  match m.crew crew with
  | none => m
  | some c =>
    match c.gpasses.find? fun o => o.id == id with
    | none => m
    | some o =>
      if o.len ≤ o.at_ then m.gpassEnd crew o
      else
        let x := m.ctx c.ctx
        let n := min 512 (o.len - o.at_)
        let ks : Key := ⟨d.world x.fn, o.scomp⟩
        let kd : Key := ⟨d.world x.fn, o.dcomp⟩
        let src := sliceRuns o.src o.at_ n
        let dst := sliceRuns o.dst o.at_ n
        let tagOf := fun (l : List Run) => sliceRuns l (8 * (o.at_ / 512)) 8
        let restOf := fun (l : List Run) => if o.at_ + n = o.len then l else []
        let read := src ++ tagOf o.srcTags ++ restOf o.srcRest
        let failed := (m.copyError crew o.slot 1).gpassEnd crew { o with failed := true }
        if !m.ownsRuns c.ctx (o.src ++ o.dst) then failed
        else if m.runsBlocked dst || (o.src ++ o.srcTags ++ o.srcRest).any (m.staleRun x.fn false)
            || (o.dst ++ o.dstTags ++ o.dstRest).any (m.staleRun x.fn true) then m
        else if (runLocs (read ++ restOf o.dstRest)).any d.unreadable then failed
        else
          match crossUnit d x.fn ⟨o.scomp, o.dcomp, o.skey, o.dkey⟩ ((o.srcOff + o.at_) / 512) ((o.dstOff + o.at_) / 512)
              (m.engineRead ks src) (m.engineRead ks (restOf o.srcRest)) (m.engineRead ks (tagOf o.srcTags))
              (m.engineRead kd (restOf o.dstRest)) with
          | none => failed
          | some (b, tag) =>
            let m1 := m.engineWrite kd (runLocs dst) b
            let m2 := match o.dstObject with
              | some (s, off) => m1.noteWritten d c.ctx s (off + o.at_) n
              | none => m1
            let m3 := match tag with
              | some t =>
                (m2.engineWrite kd (runLocs (tagOf o.dstTags)) t).noteTag d x (o.dstObject.map fun (p : Nat × Nat) => (p.1, p.2 + o.at_)) 8
              | none => m2
            m3.setGpass crew { o with at_ := o.at_ + n }

/-- GPASS, W form (R426). -/
def execGpassW (f : WForm) (s : State) : Host.Outcome State Fault Refusal :=
  isa (checked (f.enc 0x1F0) (shapeOf (f.enc 0x1F0)) (gpassM (f.enc 0x1F0))) s

/-- GPASS, L form (R426). -/
def execGpassL (f : LForm) (s : State) : Host.Outcome State Fault Refusal :=
  isa (checked (f.enc 0x1F0) (shapeOf (f.enc 0x1F0)) (gpassM (f.enc 0x1F0))) s

/-- GPASS_UNIT (R426). -/
def execGpassUnit (s : State) : Host.Outcome State Fault Refusal :=
  match s.arg with
  | .gpassUnit crew id => .next { s with m := gpassUnit s.dev crew id s.m }
  | _ => .refused .noOperands

end Sys2Proof.Machine
end

