-- ==== Sys2Proof/Machine/IntArith.lean ====
section
/-! DEFINITION. Integer arithmetic, compare, select, address and move (R178 to R187). -/

namespace Sys2Proof.Machine

/-- Clocks of an integer instruction (R177). -/
def mulCost (e : Enc) : Nat := if (tyOf e).bits = 64 then 4 else 1
def divCost (e : Enc) : Nat := if (tyOf e).bits = 64 then 40 else 16

/-- The last lines of R179: saturate where asked, then wrap into the type. -/
def putInt (e : Enc) (f : Fibre) (x : Int) : Fibre :=
  setD e (tyOf e) f (wrap (tyOf e).bits (if e.sat57 then clampInt (tyOf e) x else x))

/-- A two-operand computation on exact integers (R179, R182). -/
def intBin (e : Enc) (op : Nat → Int → Int → Int) (f : Fibre) : Fibre :=
  putInt e f (op (tyOf e).bits (extAt (tyOf e) (aAt e (tyOf e) f)) (extAt (tyOf e) (bAt e (tyOf e) f)))

/-- A one-operand computation on exact integers (R182). -/
def intUn (e : Enc) (op : Int → Int) (f : Fibre) : Fibre := putInt e f (op (extAt (tyOf e) (aAt e (tyOf e) f)))

/-- Bits [2w−1:w] of a product (R179). -/
def mulHigh (w : Nat) (a b : Int) : Int := a * b / ((2 ^ w : Nat) : Int)

/-- Quotient and remainder (R182): all ones and the dividend at b = 0; otherwise truncating, the one signed overflow giving
Min(t) by the wrap. -/
def divQ (w : Nat) (a b : Int) : Int := if b = 0 then ((2 ^ w : Nat) : Int) - 1 else a.tdiv b
def divR (a b : Int) : Int := if b = 0 then a else a - a.tdiv b * b

def iaddM (e : Enc) : Env → Mach → Mach := regOp e 1 fun _ => intBin e fun _ a b => a + b
def isubM (e : Enc) : Env → Mach → Mach := regOp e 1 fun _ => intBin e fun _ a b => a - b
def imulM (e : Enc) : Env → Mach → Mach := regOp e (mulCost e) fun _ => intBin e fun _ a b => a * b
def imulhM (e : Enc) : Env → Mach → Mach := regOp e (mulCost e) fun _ => intBin e mulHigh
def idivM (e : Enc) : Env → Mach → Mach := regOp e (divCost e) fun _ => intBin e divQ
def iremM (e : Enc) : Env → Mach → Mach := regOp e (divCost e) fun _ => intBin e fun _ a b => divR a b
def iminM (e : Enc) : Env → Mach → Mach := regOp e 1 fun _ => intBin e fun _ a b => min a b
def imaxM (e : Enc) : Env → Mach → Mach := regOp e 1 fun _ => intBin e fun _ a b => max a b
def inegM (e : Enc) : Env → Mach → Mach := regOp e 1 fun _ => intUn e fun a => -a
def iabsM (e : Enc) : Env → Mach → Mach := regOp e 1 fun _ => intUn e fun a => if a < 0 then -a else a

/-- IMAD (R179). -/
def imadLane (e : Enc) (f : Fibre) : Fibre :=
  putInt e f (extAt (tyOf e) (aAt e (tyOf e) f) * extAt (tyOf e) (bAt e (tyOf e) f) + extAt (tyOf e) (cAt e (tyOf e) f))

def imadM (e : Enc) : Env → Mach → Mach := regOp e (mulCost e) fun _ => imadLane e

/-- IADDC (R180): the carry-in predicate is read before the carry-out is written. -/
def iaddcLane (e : Enc) (f : Fibre) : Fibre :=
  let t := tyOf e
  let cin := b2n (e.mb 49 && f.pred (e.vc % 16))
  (setD e t f (aAt e t f + bAt e t f + cin)).setPred (e.vc / 16) (carryOut t.bits (aAt e t f) (bAt e t f) cin)

def iaddcM (e : Enc) : Env → Mach → Mach := regOp e 1 fun _ => iaddcLane e

/-- IMADW (R181): a 64-bit sum with vc:vc+1. -/
def imadwLane (e : Enc) (f : Fibre) : Fibre :=
  let t := tyOf e
  f.setVal e.vd 2 (wrap 64 (extAt t (aAt e t f) * extAt t (bAt e t f) + ((f.val e.vc 2 : Nat) : Int)))

def imadwM (e : Enc) : Env → Mach → Mach := regOp e 2 fun _ => imadwLane e

/-- ICMP (R183). The .b types compare bit patterns. -/
def icmpLane (e : Enc) (f : Fibre) : Fibre :=
  let t := tyOf e
  f.setPred e.vd (icmpHolds e.cond (extAt t (aAt e t f)) (extAt t (bAt e t f)))

def icmpM (e : Enc) : Env → Mach → Mach := regOp e 1 fun _ => icmpLane e

/-- ISEL (R184). -/
def iselLane (e : Enc) (f : Fibre) : Fibre :=
  setD e (tyOf e) f (if f.pred e.vc then aAt e (tyOf e) f else bAt e (tyOf e) f)

def iselM (e : Enc) : Env → Mach → Mach := regOp e 1 fun _ => iselLane e

/-- LEA (R185): va and vd are pairs, b has the type's width and signedness, N is aux. -/
def leaLane (e : Enc) (f : Fibre) : Fibre :=
  f.setVal e.vd 2 (wrap 64 (((f.val e.va 2 : Nat) : Int) + extAt (tyOf e) (bAt e (tyOf e) f) * ((2 ^ e.aux : Nat) : Int)))

def leaM (e : Enc) : Env → Mach → Mach := regOp e 1 fun _ => leaLane e

/-- MOV and MOVI (R186). -/
def movM (e : Enc) : Env → Mach → Mach := regOp e 1 fun _ f => setD e (tyOf e) f (aAt e (tyOf e) f)
def moviM (e : Enc) : Env → Mach → Mach := regOp e 1 fun _ f => setD e (tyOf e) f (immAt e (tyOf e))

/-- The state registers (R34, R187), for one lane at the issue of its gang. -/
def stateReg (m : Mach) (E : Env) (f : Fibre) (n : Nat) : Nat :=
  match n with
  | 0 => Config.width
  | 1 => f.lane
  | 2 => f.slot
  | 3 => f.course
  | 4 => E.c.idx
  | 5 => E.l.field 127 96
  | 6 => E.c.core / 4
  | 7 => E.c.core / 32
  | 8 => E.d.node
  | 9 => E.g.mask.toNat
  | 10 => E.l.attempt
  | 11 => m.clock E.c.core
  | 12 => E.l.field 511 448
  | 13 => if f.inHandler then f.tinfo.toNat else 0
  | _ => m.headerNat E.d E.x 0x40 8

/-- MOVS (R187). -/
def movsM (e : Enc) (E : Env) (m : Mach) : Mach :=
  regOp e 1 (fun E f => f.setVal e.vd (stateRegs e.va) (stateReg m E f e.va)) E m

/-- IADD, W form (R179). -/
def execIaddW (f : WForm) (s : State) : Host.Outcome State Fault Refusal :=
  isa (checked (f.enc 0x000) (shapeOf (f.enc 0x000)) (iaddM (f.enc 0x000))) s

/-- IADD, L form (R179). -/
def execIaddL (f : LForm) (s : State) : Host.Outcome State Fault Refusal :=
  isa (checked (f.enc 0x000) (shapeOf (f.enc 0x000)) (iaddM (f.enc 0x000))) s

/-- IADDC, W form (R180). -/
def execIaddcW (f : WForm) (s : State) : Host.Outcome State Fault Refusal :=
  isa (checked (f.enc 0x001) (shapeOf (f.enc 0x001)) (iaddcM (f.enc 0x001))) s

/-- IADDC, L form (R180). -/
def execIaddcL (f : LForm) (s : State) : Host.Outcome State Fault Refusal :=
  isa (checked (f.enc 0x001) (shapeOf (f.enc 0x001)) (iaddcM (f.enc 0x001))) s

/-- ISUB, W form (R179). -/
def execIsubW (f : WForm) (s : State) : Host.Outcome State Fault Refusal :=
  isa (checked (f.enc 0x002) (shapeOf (f.enc 0x002)) (isubM (f.enc 0x002))) s

/-- ISUB, L form (R179). -/
def execIsubL (f : LForm) (s : State) : Host.Outcome State Fault Refusal :=
  isa (checked (f.enc 0x002) (shapeOf (f.enc 0x002)) (isubM (f.enc 0x002))) s

/-- IMUL, W form (R179). -/
def execImulW (f : WForm) (s : State) : Host.Outcome State Fault Refusal :=
  isa (checked (f.enc 0x003) (shapeOf (f.enc 0x003)) (imulM (f.enc 0x003))) s

/-- IMUL, L form (R179). -/
def execImulL (f : LForm) (s : State) : Host.Outcome State Fault Refusal :=
  isa (checked (f.enc 0x003) (shapeOf (f.enc 0x003)) (imulM (f.enc 0x003))) s

/-- IMULH, W form (R179). -/
def execImulhW (f : WForm) (s : State) : Host.Outcome State Fault Refusal :=
  isa (checked (f.enc 0x004) (shapeOf (f.enc 0x004)) (imulhM (f.enc 0x004))) s

/-- IMULH, L form (R179). -/
def execImulhL (f : LForm) (s : State) : Host.Outcome State Fault Refusal :=
  isa (checked (f.enc 0x004) (shapeOf (f.enc 0x004)) (imulhM (f.enc 0x004))) s

/-- IMAD, W form (R179). -/
def execImadW (f : WForm) (s : State) : Host.Outcome State Fault Refusal :=
  isa (checked (f.enc 0x005) (shapeOf (f.enc 0x005)) (imadM (f.enc 0x005))) s

/-- IMAD, L form (R179). -/
def execImadL (f : LForm) (s : State) : Host.Outcome State Fault Refusal :=
  isa (checked (f.enc 0x005) (shapeOf (f.enc 0x005)) (imadM (f.enc 0x005))) s

/-- IMADW, W form (R181). -/
def execImadwW (f : WForm) (s : State) : Host.Outcome State Fault Refusal :=
  isa (checked (f.enc 0x006) (shapeOf (f.enc 0x006)) (imadwM (f.enc 0x006))) s

/-- IMADW, L form (R181). -/
def execImadwL (f : LForm) (s : State) : Host.Outcome State Fault Refusal :=
  isa (checked (f.enc 0x006) (shapeOf (f.enc 0x006)) (imadwM (f.enc 0x006))) s

/-- IDIV, W form (R182). -/
def execIdivW (f : WForm) (s : State) : Host.Outcome State Fault Refusal :=
  isa (checked (f.enc 0x007) (shapeOf (f.enc 0x007)) (idivM (f.enc 0x007))) s

/-- IDIV, L form (R182). -/
def execIdivL (f : LForm) (s : State) : Host.Outcome State Fault Refusal :=
  isa (checked (f.enc 0x007) (shapeOf (f.enc 0x007)) (idivM (f.enc 0x007))) s

/-- IREM, W form (R182). -/
def execIremW (f : WForm) (s : State) : Host.Outcome State Fault Refusal :=
  isa (checked (f.enc 0x008) (shapeOf (f.enc 0x008)) (iremM (f.enc 0x008))) s

/-- IREM, L form (R182). -/
def execIremL (f : LForm) (s : State) : Host.Outcome State Fault Refusal :=
  isa (checked (f.enc 0x008) (shapeOf (f.enc 0x008)) (iremM (f.enc 0x008))) s

/-- INEG, C form (R182). -/
def execInegC (f : CForm) (s : State) : Host.Outcome State Fault Refusal :=
  isa (checked (f.enc 0x009) (shapeOf (f.enc 0x009)) (inegM (f.enc 0x009))) s

/-- INEG, W form (R182). -/
def execInegW (f : WForm) (s : State) : Host.Outcome State Fault Refusal :=
  isa (checked (f.enc 0x009) (shapeOf (f.enc 0x009)) (inegM (f.enc 0x009))) s

/-- IABS, C form (R182). -/
def execIabsC (f : CForm) (s : State) : Host.Outcome State Fault Refusal :=
  isa (checked (f.enc 0x00A) (shapeOf (f.enc 0x00A)) (iabsM (f.enc 0x00A))) s

/-- IABS, W form (R182). -/
def execIabsW (f : WForm) (s : State) : Host.Outcome State Fault Refusal :=
  isa (checked (f.enc 0x00A) (shapeOf (f.enc 0x00A)) (iabsM (f.enc 0x00A))) s

/-- IMIN, W form (R182). -/
def execIminW (f : WForm) (s : State) : Host.Outcome State Fault Refusal :=
  isa (checked (f.enc 0x00B) (shapeOf (f.enc 0x00B)) (iminM (f.enc 0x00B))) s

/-- IMIN, L form (R182). -/
def execIminL (f : LForm) (s : State) : Host.Outcome State Fault Refusal :=
  isa (checked (f.enc 0x00B) (shapeOf (f.enc 0x00B)) (iminM (f.enc 0x00B))) s

/-- IMAX, W form (R182). -/
def execImaxW (f : WForm) (s : State) : Host.Outcome State Fault Refusal :=
  isa (checked (f.enc 0x00C) (shapeOf (f.enc 0x00C)) (imaxM (f.enc 0x00C))) s

/-- IMAX, L form (R182). -/
def execImaxL (f : LForm) (s : State) : Host.Outcome State Fault Refusal :=
  isa (checked (f.enc 0x00C) (shapeOf (f.enc 0x00C)) (imaxM (f.enc 0x00C))) s

/-- ICMP, W form (R183). -/
def execIcmpW (f : WForm) (s : State) : Host.Outcome State Fault Refusal :=
  isa (checked (f.enc 0x00D) (shapeOf (f.enc 0x00D)) (icmpM (f.enc 0x00D))) s

/-- ICMP, L form (R183). -/
def execIcmpL (f : LForm) (s : State) : Host.Outcome State Fault Refusal :=
  isa (checked (f.enc 0x00D) (shapeOf (f.enc 0x00D)) (icmpM (f.enc 0x00D))) s

/-- ISEL, W form (R184). -/
def execIselW (f : WForm) (s : State) : Host.Outcome State Fault Refusal :=
  isa (checked (f.enc 0x00E) (shapeOf (f.enc 0x00E)) (iselM (f.enc 0x00E))) s

/-- ISEL, L form (R184). -/
def execIselL (f : LForm) (s : State) : Host.Outcome State Fault Refusal :=
  isa (checked (f.enc 0x00E) (shapeOf (f.enc 0x00E)) (iselM (f.enc 0x00E))) s

/-- LEA, W form (R185). -/
def execLeaW (f : WForm) (s : State) : Host.Outcome State Fault Refusal :=
  isa (checked (f.enc 0x00F) (shapeOf (f.enc 0x00F)) (leaM (f.enc 0x00F))) s

/-- LEA, L form (R185). -/
def execLeaL (f : LForm) (s : State) : Host.Outcome State Fault Refusal :=
  isa (checked (f.enc 0x00F) (shapeOf (f.enc 0x00F)) (leaM (f.enc 0x00F))) s

/-- MOV, C form (R186). -/
def execMovC (f : CForm) (s : State) : Host.Outcome State Fault Refusal :=
  isa (checked (f.enc 0x010) (shapeOf (f.enc 0x010)) (movM (f.enc 0x010))) s

/-- MOV, W form (R186). -/
def execMovW (f : WForm) (s : State) : Host.Outcome State Fault Refusal :=
  isa (checked (f.enc 0x010) (shapeOf (f.enc 0x010)) (movM (f.enc 0x010))) s

/-- MOVI, W form (R186). -/
def execMoviW (f : WForm) (s : State) : Host.Outcome State Fault Refusal :=
  isa (checked (f.enc 0x011) (shapeOf (f.enc 0x011)) (moviM (f.enc 0x011))) s

/-- MOVI, L form (R186). -/
def execMoviL (f : LForm) (s : State) : Host.Outcome State Fault Refusal :=
  isa (checked (f.enc 0x011) (shapeOf (f.enc 0x011)) (moviM (f.enc 0x011))) s

/-- MOVS, C form (R187). -/
def execMovsC (f : CForm) (s : State) : Host.Outcome State Fault Refusal :=
  isa (checked (f.enc 0x012) (shapeOf (f.enc 0x012)) (movsM (f.enc 0x012))) s

/-- MOVS, W form (R187). -/
def execMovsW (f : WForm) (s : State) : Host.Outcome State Fault Refusal :=
  isa (checked (f.enc 0x012) (shapeOf (f.enc 0x012)) (movsM (f.enc 0x012))) s

end Sys2Proof.Machine
end

