-- ==== Sys2Proof/Machine/Lanes.lean ====
section
/-! DEFINITION. Cross-lane instructions (R207 to R215). -/

namespace Sys2Proof.Machine

/-- The fibre of a home lane among the active ones. -/
def atLane (act : List Fibre) (l : Nat) : Option Fibre := act.find? fun f => f.lane == l

/-- What lane `f` sees of a lane: each register and predicate of it with a long-latency write pending shows the old value or the new
one, a free choice of its own for each reading lane (R157, R207). `n` numbers the instruction. -/
def Fibre.seenBy (n : Nat) (f g : Fibre) : Fibre :=
  g.pend.foldl (fun r p => if (Config.freeOf 207 (2 ^ 12 * n + f.slot) (2 ^ 9 * p.instr + p.dst.code)).toNat % 2 = 0 then r else r.land1 p) g

/-- A cross-lane instruction (R207): each active lane's result from the active lanes as it sees them. -/
def laneOp (e : Enc) (cost : Nat) (h : List Fibre → Fibre → Fibre) (E : Env) (m : Mach) : Mach :=
  let m1 := regOp e cost (fun E f => h ((E.act e).map (Fibre.seenBy m.nextId f)) f) E m
  { m1 with nextId := m1.nextId + 1 }

/-- A reading lane as it sees itself. -/
def selfSeen (act : List Fibre) (f : Fibre) : Fibre := (atLane act f.lane).getD f

/-- The partner of a lane (R208). -/
def partner (e : Enc) (f : Fibre) : Option Nat :=
  let l := f.lane
  let d := Config.width / 2 ^ e.m 55 51
  let seg := max d 1
  match e.m 57 56 with
  | 0 => some (l - l % seg + b32At e f % seg)
  | 1 => some (Nat.xor l d)
  | 2 => if d ≤ l then some (l - d) else none
  | _ => some (l + d)

/-- The result predicate of SHFL and PUSHL. -/
def setOk (e : Enc) (f : Fibre) (ok : Bool) : Fibre := if e.mb 50 then f.setPred e.vc ok else f

/-- SHFL in one lane (R209). -/
def shflLane (e : Enc) (act : List Fibre) (f : Fibre) : Fibre :=
  match (partner e f).bind (atLane act) with
  | some g => setOk e (setD e (tyOf e) f (aAt e (tyOf e) g)) true
  | none => setOk e (setD e (tyOf e) f (aAt e (tyOf e) (selfSeen act f))) false

/-- PUSHL in one lane (R210): the highest-numbered lane that names it wins. -/
def pushlLane (e : Enc) (act : List Fibre) (f : Fibre) : Fibre :=
  match (act.filter fun g => partner e g == some f.lane).getLast? with
  | some g => setOk e (setD e (tyOf e) f (aAt e (tyOf e) g)) true
  | none => setOk e f false

def wideCost (e : Enc) : Nat := if (tyOf e).bits = 64 then 2 else 1

def shflM (e : Enc) : Env → Mach → Mach := laneOp e (wideCost e) (shflLane e)
def pushlM (e : Enc) : Env → Mach → Mach := laneOp e (wideCost e) (pushlLane e)

/-! ### Reductions and scans (R211 to R213) -/

/-- The rounding of XRED and XSCAN. -/
def redMode (e : Enc) : RMode := ⟨e.m 57 55, e.mb 53, false⟩

/-- The combining function C on bit patterns of the type (R211). -/
def combine (e : Enc) (x y : Nat) : Nat :=
  let t := tyOf e
  let op := e.m 52 50
  if t.isFloat then
    let f := fmtOf t
    if op = 0 then (f.round (redMode e) (Num.add ((redMode e).rnd == 3) (f.decode x) (f.decode y)) 0).1
    else
      let r := fltMinMax f (op == 2) x y
      if e.mb 53 then f.flush r else r
  else
    match op with
    | 0 => (x + y) % 2 ^ t.bits
    | 1 => if extAt t x ≤ extAt t y then x else y
    | 2 => if extAt t x ≤ extAt t y then y else x
    | 3 => Nat.land x y
    | 4 => Nat.lor x y
    | _ => Nat.xor x y

/-- The exclusive scan's value for the first lane (R211). -/
def scanFirst (e : Enc) : Nat :=
  let t := tyOf e
  match e.m 52 50 with
  | 1 => if t.isFloat then (fmtOf t).infBits false else wrap t.bits (maxOf t)
  | 2 => if t.isFloat then (fmtOf t).infBits true else wrap t.bits (minOf t)
  | 3 => 2 ^ t.bits - 1
  | _ => 0

/-- A lane's value as it enters, with FTZI. -/
def redValue (e : Enc) (f : Fibre) : Nat :=
  let v := aAt e (tyOf e) f
  if (tyOf e).isFloat && e.mb 54 then (fmtOf (tyOf e)).flush v else v

/-- C with absent values (R212): a single value is copied, a NaN as it stands (log entry 61). -/
def combineOpt (e : Enc) (x y : Option Nat) : Option Nat :=
  match x, y with
  | some a, some b => some (combine e a b)
  | some a, none => some a
  | none, b => b

/-- One level of the tree: neighbours combined. -/
def pairUp (e : Enc) : List (Option Nat) → List (Option Nat)
  | a :: b :: t => combineOpt e a b :: pairUp e t
  | l => l

/-- The fixed tree over home lanes (R212): log2(W) levels. -/
def xredTree (e : Enc) (act : List Fibre) : Nat :=
  let u := (List.range Config.width).map fun l => (atLane act l).map (redValue e)
  (((List.range 5).foldl (fun l _ => pairUp e l) u).head?.bind id).getD 0

/-- The scan over the values in lane order, exclusive or inclusive, the last result first (R213). -/
def scanStep (e : Enc) : List Nat → List Nat
  | [] => []
  | v :: t => (t.foldl (fun (p : List Nat × Nat × Nat) w =>
      let r := combine e p.2.1 (if e.mb 49 then p.2.2 else w)
      (p.1 ++ [r], r, w)) ([if e.mb 49 then scanFirst e else v], (if e.mb 49 then scanFirst e else v), v)).1

/-- A lane's result of the scan: by its place among the active lanes. -/
def xscanAt (e : Enc) (act : List Fibre) (f : Fibre) : Nat :=
  (scanStep e (act.map (redValue e))).getD (act.findIdx fun g => g.lane == f.lane) 0

def redCost (e : Enc) : Nat := if tyOf e = .f64 then 20 else if (tyOf e).bits = 64 then 10 else 5

def xredM (e : Enc) : Env → Mach → Mach := laneOp e (redCost e) fun act f => setD e (tyOf e) f (xredTree e act)
def xscanM (e : Enc) : Env → Mach → Mach := laneOp e (redCost e) fun act f => setD e (tyOf e) f (xscanAt e act f)

/-! ### VOTE, MATCH and ELECT (R214) -/

def voteLane (e : Enc) (act : List Fibre) (f : Fibre) : Fibre :=
  match e.m 57 56 with
  | 0 => f.setPred e.vd (act.any fun g => g.pred e.va)
  | 1 => f.setPred e.vd (act.all fun g => g.pred e.va)
  | 2 => f.setPred e.vd (act.all fun g => g.pred e.va == (selfSeen act f).pred e.va)
  | _ => f.setReg e.vd (maskOf (act.filter fun g => g.pred e.va)).toNat

def voteM (e : Enc) : Env → Mach → Mach := laneOp e 1 (voteLane e)

def matchLane (e : Enc) (act : List Fibre) (f : Fibre) : Fibre :=
  let same := act.filter fun g => aAt e (tyOf e) g == aAt e (tyOf e) (selfSeen act f)
  f.setReg e.vd (if e.mb 57 then (if same.length = act.length then (maskOf act).toNat else 0) else (maskOf same).toNat)

def matchM (e : Enc) : Env → Mach → Mach := laneOp e (wideCost e) (matchLane e)

def electLane (e : Enc) (act : List Fibre) (f : Fibre) : Fibre :=
  let low := (act.head?.map (·.lane)).getD 0
  if e.mb 57 then f.setReg e.vd low else f.setPred e.vd (f.lane == low)

def electM (e : Enc) : Env → Mach → Mach := laneOp e 1 (electLane e)

/-- SHFL, W form (R209). -/
def execShflW (f : WForm) (s : State) : Host.Outcome State Fault Refusal :=
  isa (checked (f.enc 0x0C0) (shapeOf (f.enc 0x0C0)) (shflM (f.enc 0x0C0))) s

/-- SHFL, L form (R209). -/
def execShflL (f : LForm) (s : State) : Host.Outcome State Fault Refusal :=
  isa (checked (f.enc 0x0C0) (shapeOf (f.enc 0x0C0)) (shflM (f.enc 0x0C0))) s

/-- PUSHL, W form (R210). -/
def execPushlW (f : WForm) (s : State) : Host.Outcome State Fault Refusal :=
  isa (checked (f.enc 0x0C1) (shapeOf (f.enc 0x0C1)) (pushlM (f.enc 0x0C1))) s

/-- PUSHL, L form (R210). -/
def execPushlL (f : LForm) (s : State) : Host.Outcome State Fault Refusal :=
  isa (checked (f.enc 0x0C1) (shapeOf (f.enc 0x0C1)) (pushlM (f.enc 0x0C1))) s

/-- XRED, W form (R212). -/
def execXred (f : WForm) (s : State) : Host.Outcome State Fault Refusal :=
  isa (checked (f.enc 0x0C2) (shapeOf (f.enc 0x0C2)) (xredM (f.enc 0x0C2))) s

/-- XSCAN, W form (R213). -/
def execXscan (f : WForm) (s : State) : Host.Outcome State Fault Refusal :=
  isa (checked (f.enc 0x0C3) (shapeOf (f.enc 0x0C3)) (xscanM (f.enc 0x0C3))) s

/-- VOTE, W form (R214). -/
def execVote (f : WForm) (s : State) : Host.Outcome State Fault Refusal :=
  isa (checked (f.enc 0x0C4) (shapeOf (f.enc 0x0C4)) (voteM (f.enc 0x0C4))) s

/-- MATCH, W form (R214). -/
def execMatchLanes (f : WForm) (s : State) : Host.Outcome State Fault Refusal :=
  isa (checked (f.enc 0x0C5) (shapeOf (f.enc 0x0C5)) (matchM (f.enc 0x0C5))) s

/-- ELECT, W form (R214). -/
def execElect (f : WForm) (s : State) : Host.Outcome State Fault Refusal :=
  isa (checked (f.enc 0x0C6) (shapeOf (f.enc 0x0C6)) (electM (f.enc 0x0C6))) s

end Sys2Proof.Machine
end

