-- ==== Sys2Proof/Machine/Logic.lean ====
section
/-! DEFINITION. Logic, shifts, bit fields, bit counts and predicates (R188 to R194). -/

namespace Sys2Proof.Machine

/-- A two-operand computation on bits at the type (R188). -/
def bitBin (e : Enc) (op : Nat → Nat → Nat → Nat) (f : Fibre) : Fibre :=
  setD e (tyOf e) f (op (tyOf e).bits (aAt e (tyOf e) f) (bAt e (tyOf e) f))

/-- The complement of a `w`-bit value. -/
def notW (w a : Nat) : Nat := 2 ^ w - 1 - a % 2 ^ w

def andM (e : Enc) : Env → Mach → Mach := regOp e 1 fun _ => bitBin e fun _ a b => a &&& b
def orM (e : Enc) : Env → Mach → Mach := regOp e 1 fun _ => bitBin e fun _ a b => a ||| b
def xorM (e : Enc) : Env → Mach → Mach := regOp e 1 fun _ => bitBin e fun _ a b => a ^^^ b
def andnM (e : Enc) : Env → Mach → Mach := regOp e 1 fun _ => bitBin e fun w a b => a &&& notW w b
def notM (e : Enc) : Env → Mach → Mach :=
  regOp e 1 fun _ f => setD e (tyOf e) f (notW (tyOf e).bits (aAt e (tyOf e) f))

/-- A number from its bits, bit 0 first. -/
def ofBits : List Bool → Nat
  | [] => 0
  | b :: t => b2n b + 2 * ofBits t

/-- The three-input truth table (R188). -/
def lop3 (w tt a b c : Nat) : Nat :=
  ofBits ((List.range w).map fun i => bitOf tt (b2n (bitOf a i) + 2 * b2n (bitOf b i) + 4 * b2n (bitOf c i)))

def lop3M (e : Enc) : Env → Mach → Mach :=
  regOp e 1 fun _ f =>
    let t := tyOf e
    setD e t f (lop3 t.bits (e.m 56 49) (aAt e t f) (bAt e t f) (cAt e t f))

/-- The shifts and rotates of R189; `n` is the whole 32-bit count. -/
def shl (w a n : Nat) : Nat := if w ≤ n then 0 else a * 2 ^ n % 2 ^ w
def shr (w a n : Nat) : Nat := if w ≤ n then 0 else a / 2 ^ n
def sar (w a n : Nat) : Nat := wrap w (toSigned w a / ((2 ^ min n w : Nat) : Int))
def rol (w a n : Nat) : Nat := a * 2 ^ (n % w) % 2 ^ w + a / 2 ^ (w - n % w)
def ror (w a n : Nat) : Nat := rol w a (w - n % w)

def shiftM (op : Nat → Nat → Nat → Nat) (e : Enc) : Env → Mach → Mach :=
  regOp e 1 fun _ f => setD e (tyOf e) f (op (tyOf e).bits (aAt e (tyOf e) f) (b32At e f))

def shlM (e : Enc) : Env → Mach → Mach := shiftM shl e
def shrM (e : Enc) : Env → Mach → Mach := shiftM shr e
def sarM (e : Enc) : Env → Mach → Mach := shiftM sar e
def rolM (e : Enc) : Env → Mach → Mach := shiftM rol e
def rorM (e : Enc) : Env → Mach → Mach := shiftM ror e

/-- SHF (R190). -/
def shf (cap : Bool) (a c n : Nat) : Nat :=
  (a * 2 ^ 32 + c) / 2 ^ (if cap then min n 64 else n % 64) % 2 ^ 32

def shfM (e : Enc) : Env → Mach → Mach :=
  regOp e 1 fun _ f => f.setReg e.vd (shf (e.mb 49) (f.reg e.va) (f.reg e.vc) (b32At e f))

/-- BFX (R191): position in b[7:0], length in b[15:8]. -/
def bfx (t : ETy) (a b : Nat) : Nat :=
  let p := b % 256
  let q := b / 256 % 256
  if q = 0 ∨ t.bits ≤ p then 0
  else
    let k := min q (t.bits - p)
    let f := a / 2 ^ p % 2 ^ k
    if t.signed then wrap t.bits (toSigned k f) else f

def bfxM (e : Enc) : Env → Mach → Mach :=
  regOp e 1 fun _ f => setD e (tyOf e) f (bfx (tyOf e) (aAt e (tyOf e) f) (b32At e f))

/-- BFI (R191). -/
def bfi (w a c b : Nat) : Nat :=
  let p := b % 256
  let q := b / 256 % 256
  if q = 0 ∨ w ≤ p then a
  else
    let k := min q (w - p)
    a - a / 2 ^ p % 2 ^ k * 2 ^ p + c % 2 ^ k * 2 ^ p

def bfiM (e : Enc) : Env → Mach → Mach :=
  regOp e 1 fun _ f => setD e (tyOf e) f (bfi (tyOf e).bits (aAt e (tyOf e) f) (cAt e (tyOf e) f) (b32At e f))

/-- Bit counts (R192). -/
def popc (w a : Nat) : Nat := ((List.range w).filter fun i => bitOf a i).length
def lzc (w a : Nat) : Nat := if a % 2 ^ w = 0 then w else w - 1 - Nat.log2 (a % 2 ^ w)
def tzc (w a : Nat) : Nat := ((List.range w).takeWhile fun i => !bitOf a i).length
def brev (w a : Nat) : Nat := ofBits ((List.range w).map fun i => bitOf a (w - 1 - i))

def countM (op : Nat → Nat → Nat) (e : Enc) : Env → Mach → Mach :=
  regOp e 1 fun _ f => f.setReg e.vd (op (tyOf e).bits (aAt e (tyOf e) f))

def popcM (e : Enc) : Env → Mach → Mach := countM popc e
def lzcM (e : Enc) : Env → Mach → Mach := countM lzc e
def tzcM (e : Enc) : Env → Mach → Mach := countM tzc e
def brevM (e : Enc) : Env → Mach → Mach :=
  regOp e 1 fun _ f => setD e (tyOf e) f (brev (tyOf e).bits (aAt e (tyOf e) f))

/-- FNS (R192): the n-th set bit from position p, upward or downward. -/
def fns (w a b : Nat) (down : Bool) : Nat :=
  let p := b % 256
  let n := b / 256 % 256
  if n = 0 ∨ w ≤ p then 0xFFFFFFFF
  else
    let idx := (if down then (List.range (p + 1)).reverse else (List.range w).drop p).filter fun i => bitOf a i
    idx.getD (n - 1) 0xFFFFFFFF

def fnsM (e : Enc) : Env → Mach → Mach :=
  regOp e 1 fun _ f => f.setReg e.vd (fns (tyOf e).bits (aAt e (tyOf e) f) (b32At e f) (e.mb 49))

/-- PLOG (R193). -/
def plogM (e : Enc) : Env → Mach → Mach :=
  regOp e 1 fun _ f =>
    f.setPred e.vd (bitOf (e.m 56 49) (b2n (f.pred e.va) + 2 * b2n (f.pred e.vb) + 4 * b2n (f.pred e.vc)))

/-- The predicate word as read: bit 15 is 1 (R20, R194). -/
def Fibre.predWord (f : Fibre) : Nat := f.preds.toNat % 2 ^ 15 + 2 ^ 15

/-- PMOV (R194). -/
def pmovM (e : Enc) : Env → Mach → Mach :=
  regOp e 1 fun _ f =>
    if e.mods = 0 then f.setReg e.vd f.predWord else { f with preds := BitVec.ofNat 16 (f.reg e.va % 2 ^ 15) }

/-- AND, W form (R188). -/
def execAndW (f : WForm) (s : State) : Host.Outcome State Fault Refusal :=
  isa (checked (f.enc 0x040) (shapeOf (f.enc 0x040)) (andM (f.enc 0x040))) s

/-- AND, L form (R188). -/
def execAndL (f : LForm) (s : State) : Host.Outcome State Fault Refusal :=
  isa (checked (f.enc 0x040) (shapeOf (f.enc 0x040)) (andM (f.enc 0x040))) s

/-- OR, W form (R188). -/
def execOrW (f : WForm) (s : State) : Host.Outcome State Fault Refusal :=
  isa (checked (f.enc 0x041) (shapeOf (f.enc 0x041)) (orM (f.enc 0x041))) s

/-- OR, L form (R188). -/
def execOrL (f : LForm) (s : State) : Host.Outcome State Fault Refusal :=
  isa (checked (f.enc 0x041) (shapeOf (f.enc 0x041)) (orM (f.enc 0x041))) s

/-- XOR, W form (R188). -/
def execXorW (f : WForm) (s : State) : Host.Outcome State Fault Refusal :=
  isa (checked (f.enc 0x042) (shapeOf (f.enc 0x042)) (xorM (f.enc 0x042))) s

/-- XOR, L form (R188). -/
def execXorL (f : LForm) (s : State) : Host.Outcome State Fault Refusal :=
  isa (checked (f.enc 0x042) (shapeOf (f.enc 0x042)) (xorM (f.enc 0x042))) s

/-- NOT, C form (R188). -/
def execNotC (f : CForm) (s : State) : Host.Outcome State Fault Refusal :=
  isa (checked (f.enc 0x043) (shapeOf (f.enc 0x043)) (notM (f.enc 0x043))) s

/-- NOT, W form (R188). -/
def execNotW (f : WForm) (s : State) : Host.Outcome State Fault Refusal :=
  isa (checked (f.enc 0x043) (shapeOf (f.enc 0x043)) (notM (f.enc 0x043))) s

/-- ANDN, W form (R188). -/
def execAndnW (f : WForm) (s : State) : Host.Outcome State Fault Refusal :=
  isa (checked (f.enc 0x044) (shapeOf (f.enc 0x044)) (andnM (f.enc 0x044))) s

/-- ANDN, L form (R188). -/
def execAndnL (f : LForm) (s : State) : Host.Outcome State Fault Refusal :=
  isa (checked (f.enc 0x044) (shapeOf (f.enc 0x044)) (andnM (f.enc 0x044))) s

/-- LOP3, W form (R188). -/
def execLop3W (f : WForm) (s : State) : Host.Outcome State Fault Refusal :=
  isa (checked (f.enc 0x045) (shapeOf (f.enc 0x045)) (lop3M (f.enc 0x045))) s

/-- LOP3, L form (R188). -/
def execLop3L (f : LForm) (s : State) : Host.Outcome State Fault Refusal :=
  isa (checked (f.enc 0x045) (shapeOf (f.enc 0x045)) (lop3M (f.enc 0x045))) s

/-- SHL, W form (R189). -/
def execShlW (f : WForm) (s : State) : Host.Outcome State Fault Refusal :=
  isa (checked (f.enc 0x046) (shapeOf (f.enc 0x046)) (shlM (f.enc 0x046))) s

/-- SHL, L form (R189). -/
def execShlL (f : LForm) (s : State) : Host.Outcome State Fault Refusal :=
  isa (checked (f.enc 0x046) (shapeOf (f.enc 0x046)) (shlM (f.enc 0x046))) s

/-- SHR, W form (R189). -/
def execShrW (f : WForm) (s : State) : Host.Outcome State Fault Refusal :=
  isa (checked (f.enc 0x047) (shapeOf (f.enc 0x047)) (shrM (f.enc 0x047))) s

/-- SHR, L form (R189). -/
def execShrL (f : LForm) (s : State) : Host.Outcome State Fault Refusal :=
  isa (checked (f.enc 0x047) (shapeOf (f.enc 0x047)) (shrM (f.enc 0x047))) s

/-- SAR, W form (R189). -/
def execSarW (f : WForm) (s : State) : Host.Outcome State Fault Refusal :=
  isa (checked (f.enc 0x048) (shapeOf (f.enc 0x048)) (sarM (f.enc 0x048))) s

/-- SAR, L form (R189). -/
def execSarL (f : LForm) (s : State) : Host.Outcome State Fault Refusal :=
  isa (checked (f.enc 0x048) (shapeOf (f.enc 0x048)) (sarM (f.enc 0x048))) s

/-- ROL, W form (R189). -/
def execRolW (f : WForm) (s : State) : Host.Outcome State Fault Refusal :=
  isa (checked (f.enc 0x049) (shapeOf (f.enc 0x049)) (rolM (f.enc 0x049))) s

/-- ROL, L form (R189). -/
def execRolL (f : LForm) (s : State) : Host.Outcome State Fault Refusal :=
  isa (checked (f.enc 0x049) (shapeOf (f.enc 0x049)) (rolM (f.enc 0x049))) s

/-- ROR, W form (R189). -/
def execRorW (f : WForm) (s : State) : Host.Outcome State Fault Refusal :=
  isa (checked (f.enc 0x04A) (shapeOf (f.enc 0x04A)) (rorM (f.enc 0x04A))) s

/-- ROR, L form (R189). -/
def execRorL (f : LForm) (s : State) : Host.Outcome State Fault Refusal :=
  isa (checked (f.enc 0x04A) (shapeOf (f.enc 0x04A)) (rorM (f.enc 0x04A))) s

/-- SHF, W form (R190). -/
def execShfW (f : WForm) (s : State) : Host.Outcome State Fault Refusal :=
  isa (checked (f.enc 0x04B) (shapeOf (f.enc 0x04B)) (shfM (f.enc 0x04B))) s

/-- SHF, L form (R190). -/
def execShfL (f : LForm) (s : State) : Host.Outcome State Fault Refusal :=
  isa (checked (f.enc 0x04B) (shapeOf (f.enc 0x04B)) (shfM (f.enc 0x04B))) s

/-- BFX, W form (R191). -/
def execBfxW (f : WForm) (s : State) : Host.Outcome State Fault Refusal :=
  isa (checked (f.enc 0x04C) (shapeOf (f.enc 0x04C)) (bfxM (f.enc 0x04C))) s

/-- BFX, L form (R191). -/
def execBfxL (f : LForm) (s : State) : Host.Outcome State Fault Refusal :=
  isa (checked (f.enc 0x04C) (shapeOf (f.enc 0x04C)) (bfxM (f.enc 0x04C))) s

/-- BFI, W form (R191). -/
def execBfiW (f : WForm) (s : State) : Host.Outcome State Fault Refusal :=
  isa (checked (f.enc 0x04D) (shapeOf (f.enc 0x04D)) (bfiM (f.enc 0x04D))) s

/-- BFI, L form (R191). -/
def execBfiL (f : LForm) (s : State) : Host.Outcome State Fault Refusal :=
  isa (checked (f.enc 0x04D) (shapeOf (f.enc 0x04D)) (bfiM (f.enc 0x04D))) s

/-- POPC, C form (R192). -/
def execPopcC (f : CForm) (s : State) : Host.Outcome State Fault Refusal :=
  isa (checked (f.enc 0x04E) (shapeOf (f.enc 0x04E)) (popcM (f.enc 0x04E))) s

/-- POPC, W form (R192). -/
def execPopcW (f : WForm) (s : State) : Host.Outcome State Fault Refusal :=
  isa (checked (f.enc 0x04E) (shapeOf (f.enc 0x04E)) (popcM (f.enc 0x04E))) s

/-- LZC, C form (R192). -/
def execLzcC (f : CForm) (s : State) : Host.Outcome State Fault Refusal :=
  isa (checked (f.enc 0x04F) (shapeOf (f.enc 0x04F)) (lzcM (f.enc 0x04F))) s

/-- LZC, W form (R192). -/
def execLzcW (f : WForm) (s : State) : Host.Outcome State Fault Refusal :=
  isa (checked (f.enc 0x04F) (shapeOf (f.enc 0x04F)) (lzcM (f.enc 0x04F))) s

/-- TZC, C form (R192). -/
def execTzcC (f : CForm) (s : State) : Host.Outcome State Fault Refusal :=
  isa (checked (f.enc 0x050) (shapeOf (f.enc 0x050)) (tzcM (f.enc 0x050))) s

/-- TZC, W form (R192). -/
def execTzcW (f : WForm) (s : State) : Host.Outcome State Fault Refusal :=
  isa (checked (f.enc 0x050) (shapeOf (f.enc 0x050)) (tzcM (f.enc 0x050))) s

/-- FNS, W form (R192). -/
def execFnsW (f : WForm) (s : State) : Host.Outcome State Fault Refusal :=
  isa (checked (f.enc 0x051) (shapeOf (f.enc 0x051)) (fnsM (f.enc 0x051))) s

/-- FNS, L form (R192). -/
def execFnsL (f : LForm) (s : State) : Host.Outcome State Fault Refusal :=
  isa (checked (f.enc 0x051) (shapeOf (f.enc 0x051)) (fnsM (f.enc 0x051))) s

/-- BREV, C form (R192). -/
def execBrevC (f : CForm) (s : State) : Host.Outcome State Fault Refusal :=
  isa (checked (f.enc 0x052) (shapeOf (f.enc 0x052)) (brevM (f.enc 0x052))) s

/-- BREV, W form (R192). -/
def execBrevW (f : WForm) (s : State) : Host.Outcome State Fault Refusal :=
  isa (checked (f.enc 0x052) (shapeOf (f.enc 0x052)) (brevM (f.enc 0x052))) s

/-- PLOG, W form (R193). -/
def execPlog (f : WForm) (s : State) : Host.Outcome State Fault Refusal :=
  isa (checked (f.enc 0x053) (shapeOf (f.enc 0x053)) (plogM (f.enc 0x053))) s

/-- PMOV, C form (R194). -/
def execPmovC (f : CForm) (s : State) : Host.Outcome State Fault Refusal :=
  isa (checked (f.enc 0x054) (shapeOf (f.enc 0x054)) (pmovM (f.enc 0x054))) s

/-- PMOV, W form (R194). -/
def execPmovW (f : WForm) (s : State) : Host.Outcome State Fault Refusal :=
  isa (checked (f.enc 0x054) (shapeOf (f.enc 0x054)) (pmovM (f.enc 0x054))) s

end Sys2Proof.Machine
end

