-- ==== Sys2Proof/Machine/Dispatch.lean ====
section
/-! DEFINITION. One arm per constructor of `Instr`: each a direct call of its meaning. -/

namespace Sys2Proof.Machine

def exec (i : Instr) (s : State) : Host.Outcome State Fault Refusal :=
  match i with
  | .iaddW f => Sys2Proof.Machine.execIaddW f s
  | .iaddL f => Sys2Proof.Machine.execIaddL f s
  | .iaddcW f => Sys2Proof.Machine.execIaddcW f s
  | .iaddcL f => Sys2Proof.Machine.execIaddcL f s
  | .isubW f => Sys2Proof.Machine.execIsubW f s
  | .isubL f => Sys2Proof.Machine.execIsubL f s
  | .imulW f => Sys2Proof.Machine.execImulW f s
  | .imulL f => Sys2Proof.Machine.execImulL f s
  | .imulhW f => Sys2Proof.Machine.execImulhW f s
  | .imulhL f => Sys2Proof.Machine.execImulhL f s
  | .imadW f => Sys2Proof.Machine.execImadW f s
  | .imadL f => Sys2Proof.Machine.execImadL f s
  | .imadwW f => Sys2Proof.Machine.execImadwW f s
  | .imadwL f => Sys2Proof.Machine.execImadwL f s
  | .idivW f => Sys2Proof.Machine.execIdivW f s
  | .idivL f => Sys2Proof.Machine.execIdivL f s
  | .iremW f => Sys2Proof.Machine.execIremW f s
  | .iremL f => Sys2Proof.Machine.execIremL f s
  | .inegC f => Sys2Proof.Machine.execInegC f s
  | .inegW f => Sys2Proof.Machine.execInegW f s
  | .iabsC f => Sys2Proof.Machine.execIabsC f s
  | .iabsW f => Sys2Proof.Machine.execIabsW f s
  | .iminW f => Sys2Proof.Machine.execIminW f s
  | .iminL f => Sys2Proof.Machine.execIminL f s
  | .imaxW f => Sys2Proof.Machine.execImaxW f s
  | .imaxL f => Sys2Proof.Machine.execImaxL f s
  | .icmpW f => Sys2Proof.Machine.execIcmpW f s
  | .icmpL f => Sys2Proof.Machine.execIcmpL f s
  | .iselW f => Sys2Proof.Machine.execIselW f s
  | .iselL f => Sys2Proof.Machine.execIselL f s
  | .leaW f => Sys2Proof.Machine.execLeaW f s
  | .leaL f => Sys2Proof.Machine.execLeaL f s
  | .movC f => Sys2Proof.Machine.execMovC f s
  | .movW f => Sys2Proof.Machine.execMovW f s
  | .moviW f => Sys2Proof.Machine.execMoviW f s
  | .moviL f => Sys2Proof.Machine.execMoviL f s
  | .movsC f => Sys2Proof.Machine.execMovsC f s
  | .movsW f => Sys2Proof.Machine.execMovsW f s
  | .andW f => Sys2Proof.Machine.execAndW f s
  | .andL f => Sys2Proof.Machine.execAndL f s
  | .orW f => Sys2Proof.Machine.execOrW f s
  | .orL f => Sys2Proof.Machine.execOrL f s
  | .xorW f => Sys2Proof.Machine.execXorW f s
  | .xorL f => Sys2Proof.Machine.execXorL f s
  | .notC f => Sys2Proof.Machine.execNotC f s
  | .notW f => Sys2Proof.Machine.execNotW f s
  | .andnW f => Sys2Proof.Machine.execAndnW f s
  | .andnL f => Sys2Proof.Machine.execAndnL f s
  | .lop3W f => Sys2Proof.Machine.execLop3W f s
  | .lop3L f => Sys2Proof.Machine.execLop3L f s
  | .shlW f => Sys2Proof.Machine.execShlW f s
  | .shlL f => Sys2Proof.Machine.execShlL f s
  | .shrW f => Sys2Proof.Machine.execShrW f s
  | .shrL f => Sys2Proof.Machine.execShrL f s
  | .sarW f => Sys2Proof.Machine.execSarW f s
  | .sarL f => Sys2Proof.Machine.execSarL f s
  | .rolW f => Sys2Proof.Machine.execRolW f s
  | .rolL f => Sys2Proof.Machine.execRolL f s
  | .rorW f => Sys2Proof.Machine.execRorW f s
  | .rorL f => Sys2Proof.Machine.execRorL f s
  | .shfW f => Sys2Proof.Machine.execShfW f s
  | .shfL f => Sys2Proof.Machine.execShfL f s
  | .bfxW f => Sys2Proof.Machine.execBfxW f s
  | .bfxL f => Sys2Proof.Machine.execBfxL f s
  | .bfiW f => Sys2Proof.Machine.execBfiW f s
  | .bfiL f => Sys2Proof.Machine.execBfiL f s
  | .popcC f => Sys2Proof.Machine.execPopcC f s
  | .popcW f => Sys2Proof.Machine.execPopcW f s
  | .lzcC f => Sys2Proof.Machine.execLzcC f s
  | .lzcW f => Sys2Proof.Machine.execLzcW f s
  | .tzcC f => Sys2Proof.Machine.execTzcC f s
  | .tzcW f => Sys2Proof.Machine.execTzcW f s
  | .fnsW f => Sys2Proof.Machine.execFnsW f s
  | .fnsL f => Sys2Proof.Machine.execFnsL f s
  | .brevC f => Sys2Proof.Machine.execBrevC f s
  | .brevW f => Sys2Proof.Machine.execBrevW f s
  | .plog f => Sys2Proof.Machine.execPlog f s
  | .pmovC f => Sys2Proof.Machine.execPmovC f s
  | .pmovW f => Sys2Proof.Machine.execPmovW f s
  | .faddW f => Sys2Proof.Machine.execFaddW f s
  | .faddL f => Sys2Proof.Machine.execFaddL f s
  | .fsubW f => Sys2Proof.Machine.execFsubW f s
  | .fsubL f => Sys2Proof.Machine.execFsubL f s
  | .fmulW f => Sys2Proof.Machine.execFmulW f s
  | .fmulL f => Sys2Proof.Machine.execFmulL f s
  | .ffmaW f => Sys2Proof.Machine.execFfmaW f s
  | .ffmaL f => Sys2Proof.Machine.execFfmaL f s
  | .fminW f => Sys2Proof.Machine.execFminW f s
  | .fminL f => Sys2Proof.Machine.execFminL f s
  | .fmaxW f => Sys2Proof.Machine.execFmaxW f s
  | .fmaxL f => Sys2Proof.Machine.execFmaxL f s
  | .fcmpW f => Sys2Proof.Machine.execFcmpW f s
  | .fcmpL f => Sys2Proof.Machine.execFcmpL f s
  | .fclass f => Sys2Proof.Machine.execFclass f s
  | .frcp f => Sys2Proof.Machine.execFrcp f s
  | .frsq f => Sys2Proof.Machine.execFrsq f s
  | .fsqrt f => Sys2Proof.Machine.execFsqrt f s
  | .fexp2 f => Sys2Proof.Machine.execFexp2 f s
  | .flog2 f => Sys2Proof.Machine.execFlog2 f s
  | .fsin f => Sys2Proof.Machine.execFsin f s
  | .fcos f => Sys2Proof.Machine.execFcos f s
  | .ftanh f => Sys2Proof.Machine.execFtanh f s
  | .cvt f => Sys2Proof.Machine.execCvt f s
  | .shflW f => Sys2Proof.Machine.execShflW f s
  | .shflL f => Sys2Proof.Machine.execShflL f s
  | .pushlW f => Sys2Proof.Machine.execPushlW f s
  | .pushlL f => Sys2Proof.Machine.execPushlL f s
  | .xred f => Sys2Proof.Machine.execXred f s
  | .xscan f => Sys2Proof.Machine.execXscan f s
  | .vote f => Sys2Proof.Machine.execVote f s
  | .matchLanes f => Sys2Proof.Machine.execMatchLanes f s
  | .elect f => Sys2Proof.Machine.execElect f s
  | .braW f => Sys2Proof.Machine.execBraW f s
  | .braL f => Sys2Proof.Machine.execBraL f s
  | .brx f => Sys2Proof.Machine.execBrx f s
  | .callW f => Sys2Proof.Machine.execCallW f s
  | .callL f => Sys2Proof.Machine.execCallL f s
  | .retC f => Sys2Proof.Machine.execRetC f s
  | .retW f => Sys2Proof.Machine.execRetW f s
  | .regroupW f => Sys2Proof.Machine.execRegroupW f s
  | .regroupL f => Sys2Proof.Machine.execRegroupL f s
  | .yieldGang f => Sys2Proof.Machine.execYieldGang f s
  | .spawnW f => Sys2Proof.Machine.execSpawnW f s
  | .spawnL f => Sys2Proof.Machine.execSpawnL f s
  | .fexitC f => Sys2Proof.Machine.execFexitC f s
  | .fexitW f => Sys2Proof.Machine.execFexitW f s
  | .nop f => Sys2Proof.Machine.execNop f s
  | .bkptC f => Sys2Proof.Machine.execBkptC f s
  | .bkptW f => Sys2Proof.Machine.execBkptW f s
  | .svcC f => Sys2Proof.Machine.execSvcC f s
  | .svcW f => Sys2Proof.Machine.execSvcW f s
  | .tret f => Sys2Proof.Machine.execTret f s
  | .tmaskC f => Sys2Proof.Machine.execTmaskC f s
  | .tmaskW f => Sys2Proof.Machine.execTmaskW f s
  | .ldW f => Sys2Proof.Machine.execLdW f s
  | .ldL f => Sys2Proof.Machine.execLdL f s
  | .stW f => Sys2Proof.Machine.execStW f s
  | .stL f => Sys2Proof.Machine.execStL f s
  | .ldsW f => Sys2Proof.Machine.execLdsW f s
  | .ldsL f => Sys2Proof.Machine.execLdsL f s
  | .stsW f => Sys2Proof.Machine.execStsW f s
  | .stsL f => Sys2Proof.Machine.execStsL f s
  | .prefW f => Sys2Proof.Machine.execPrefW f s
  | .prefL f => Sys2Proof.Machine.execPrefL f s
  | .ldnW f => Sys2Proof.Machine.execLdnW f s
  | .ldnL f => Sys2Proof.Machine.execLdnL f s
  | .stnW f => Sys2Proof.Machine.execStnW f s
  | .stnL f => Sys2Proof.Machine.execStnL f s
  | .peq f => Sys2Proof.Machine.execPeq f s
  | .paddW f => Sys2Proof.Machine.execPaddW f s
  | .paddL f => Sys2Proof.Machine.execPaddL f s
  | .pdiff f => Sys2Proof.Machine.execPdiff f s
  | .pname f => Sys2Proof.Machine.execPname f s
  | .psize f => Sys2Proof.Machine.execPsize f s
  | .pres f => Sys2Proof.Machine.execPres f s
  | .atomW f => Sys2Proof.Machine.execAtomW f s
  | .atomL f => Sys2Proof.Machine.execAtomL f s
  | .atomrW f => Sys2Proof.Machine.execAtomrW f s
  | .atomrL f => Sys2Proof.Machine.execAtomrL f s
  | .fence f => Sys2Proof.Machine.execFence f s
  | .xfence f => Sys2Proof.Machine.execXfence f s
  | .pfenceC f => Sys2Proof.Machine.execPfenceC f s
  | .pfenceW f => Sys2Proof.Machine.execPfenceW f s
  | .cpaW f => Sys2Proof.Machine.execCpaW f s
  | .cpaL f => Sys2Proof.Machine.execCpaL f s
  | .cpsealC f => Sys2Proof.Machine.execCpsealC f s
  | .cpsealW f => Sys2Proof.Machine.execCpsealW f s
  | .cpwaitC f => Sys2Proof.Machine.execCpwaitC f s
  | .cpwaitW f => Sys2Proof.Machine.execCpwaitW f s
  | .xfer f => Sys2Proof.Machine.execXfer f s
  | .xstat f => Sys2Proof.Machine.execXstat f s
  | .ginitW f => Sys2Proof.Machine.execGinitW f s
  | .ginitL f => Sys2Proof.Machine.execGinitL f s
  | .garriveW f => Sys2Proof.Machine.execGarriveW f s
  | .garriveL f => Sys2Proof.Machine.execGarriveL f s
  | .gexpectW f => Sys2Proof.Machine.execGexpectW f s
  | .gexpectL f => Sys2Proof.Machine.execGexpectL f s
  | .gwait f => Sys2Proof.Machine.execGwait f s
  | .gread f => Sys2Proof.Machine.execGread f s
  | .gfree f => Sys2Proof.Machine.execGfree f s
  | .mmaW f => Sys2Proof.Machine.execMmaW f s
  | .mmasW f => Sys2Proof.Machine.execMmasW f s
  | .bldW f => Sys2Proof.Machine.execBldW f s
  | .bldL f => Sys2Proof.Machine.execBldL f s
  | .azero f => Sys2Proof.Machine.execAzero f s
  | .ard f => Sys2Proof.Machine.execArd f s
  | .astoreW f => Sys2Proof.Machine.execAstoreW f s
  | .astoreL f => Sys2Proof.Machine.execAstoreL f s
  | .astzW f => Sys2Proof.Machine.execAstzW f s
  | .astzL f => Sys2Proof.Machine.execAstzL f s
  | .cvtqW f => Sys2Proof.Machine.execCvtqW f s
  | .cvtqL f => Sys2Proof.Machine.execCvtqL f s
  | .dqW f => Sys2Proof.Machine.execDqW f s
  | .dqL f => Sys2Proof.Machine.execDqL f s
  | .tchkW f => Sys2Proof.Machine.execTchkW f s
  | .tchkL f => Sys2Proof.Machine.execTchkL f s
  | .ceopen f => Sys2Proof.Machine.execCeopen f s
  | .cerun f => Sys2Proof.Machine.execCerun f s
  | .cesplit f => Sys2Proof.Machine.execCesplit f s
  | .cesaveW f => Sys2Proof.Machine.execCesaveW f s
  | .cesaveL f => Sys2Proof.Machine.execCesaveL f s
  | .celoadW f => Sys2Proof.Machine.execCeloadW f s
  | .celoadL f => Sys2Proof.Machine.execCeloadL f s
  | .cestat f => Sys2Proof.Machine.execCestat f s
  | .ceclose f => Sys2Proof.Machine.execCeclose f s
  | .binitW f => Sys2Proof.Machine.execBinitW f s
  | .binitL f => Sys2Proof.Machine.execBinitL f s
  | .bapp f => Sys2Proof.Machine.execBapp f s
  | .breplay f => Sys2Proof.Machine.execBreplay f s
  | .bstat f => Sys2Proof.Machine.execBstat f s
  | .gpassW f => Sys2Proof.Machine.execGpassW f s
  | .gpassL f => Sys2Proof.Machine.execGpassL f s
  | .capture => Sys2Proof.Machine.execCapture s
  | .queueEnable => Sys2Proof.Machine.execQueueEnable s
  | .dependencePoll => Sys2Proof.Machine.execDependencePoll s
  | .launch => Sys2Proof.Machine.execLaunch s
  | .mark => Sys2Proof.Machine.execMark s
  | .evict => Sys2Proof.Machine.execEvict s
  | .reclaim => Sys2Proof.Machine.execReclaim s
  | .writeback => Sys2Proof.Machine.execWriteback s
  | .admitCrew => Sys2Proof.Machine.execAdmitCrew s
  | .priorityAging => Sys2Proof.Machine.execPriorityAging s
  | .coadmitWait => Sys2Proof.Machine.execCoadmitWait s
  | .preemptForPriority => Sys2Proof.Machine.execPreemptForPriority s
  | .crewResume => Sys2Proof.Machine.execCrewResume s
  | .crewRetire => Sys2Proof.Machine.execCrewRetire s
  | .completionRecord => Sys2Proof.Machine.execCompletionRecord s
  | .gangExchange => Sys2Proof.Machine.execGangExchange s
  | .clauseStart => Sys2Proof.Machine.execClauseStart s
  | .registerResultWrite => Sys2Proof.Machine.execRegisterResultWrite s
  | .storeDrain => Sys2Proof.Machine.execStoreDrain s
  | .regroupBound => Sys2Proof.Machine.execRegroupBound s
  | .springTimerExpiry => Sys2Proof.Machine.execSpringTimerExpiry s
  | .handlerTimeout => Sys2Proof.Machine.execHandlerTimeout s
  | .requestRingWrite => Sys2Proof.Machine.execRequestRingWrite s
  | .responseDoorbell => Sys2Proof.Machine.execResponseDoorbell s
  | .responseDoorbellKill => Sys2Proof.Machine.execResponseDoorbellKill s
  | .faultDoorbellRetry => Sys2Proof.Machine.execFaultDoorbellRetry s
  | .faultDoorbellError => Sys2Proof.Machine.execFaultDoorbellError s
  | .preemptionPreempt => Sys2Proof.Machine.execPreemptionPreempt s
  | .preemptionResume => Sys2Proof.Machine.execPreemptionResume s
  | .invalidation => Sys2Proof.Machine.execInvalidation s
  | .invalidationComplete => Sys2Proof.Machine.execInvalidationComplete s
  | .registerWrite => Sys2Proof.Machine.execRegisterWrite s
  | .pageWalk => Sys2Proof.Machine.execPageWalk s
  | .nameLookup => Sys2Proof.Machine.execNameLookup s
  | .fetchDone => Sys2Proof.Machine.execFetchDone s
  | .eviction => Sys2Proof.Machine.execEviction s
  | .cpaCopyDone => Sys2Proof.Machine.execCpaCopyDone s
  | .transferPacket => Sys2Proof.Machine.execTransferPacket s
  | .transferRecordDone => Sys2Proof.Machine.execTransferRecordDone s
  | .postGrant => Sys2Proof.Machine.execPostGrant s
  | .postAge => Sys2Proof.Machine.execPostAge s
  | .matrixStep => Sys2Proof.Machine.execMatrixStep s
  | .postDone => Sys2Proof.Machine.execPostDone s
  | .cursorStep => Sys2Proof.Machine.execCursorStep s
  | .binReplayRegion => Sys2Proof.Machine.execBinReplayRegion s
  | .gpassUnit => Sys2Proof.Machine.execGpassUnit s
  | .fabricAck => Sys2Proof.Machine.execFabricAck s
  | .fabricResponse => Sys2Proof.Machine.execFabricResponse s
  | .packetArrival => Sys2Proof.Machine.execPacketArrival s
  | .tokenGrant => Sys2Proof.Machine.execTokenGrant s
  | .tokenExpiry => Sys2Proof.Machine.execTokenExpiry s
  | .fabricEventWrite => Sys2Proof.Machine.execFabricEventWrite s
  | .abandonNotice => Sys2Proof.Machine.execAbandonNotice s
  | .resumeRequest => Sys2Proof.Machine.execResumeRequest s
  | .peerContextFetch => Sys2Proof.Machine.execPeerContextFetch s
  | .downstreamAck => Sys2Proof.Machine.execDownstreamAck s
  | .persistTimeout => Sys2Proof.Machine.execPersistTimeout s
  | .hostApertureAccess => Sys2Proof.Machine.execHostApertureAccess s
  | .atsInvalidate => Sys2Proof.Machine.execAtsInvalidate s
  | .atsInvalidateTimeout => Sys2Proof.Machine.execAtsInvalidateTimeout s
  | .ideIntegrityFailure => Sys2Proof.Machine.execIdeIntegrityFailure s
  | .tdispMessage => Sys2Proof.Machine.execTdispMessage s
  | .getVersion => Sys2Proof.Machine.execGetVersion s
  | .getCapabilities => Sys2Proof.Machine.execGetCapabilities s
  | .negotiateAlgorithms => Sys2Proof.Machine.execNegotiateAlgorithms s
  | .getDigests => Sys2Proof.Machine.execGetDigests s
  | .getCertificate => Sys2Proof.Machine.execGetCertificate s
  | .challenge => Sys2Proof.Machine.execChallenge s
  | .getMeasurements => Sys2Proof.Machine.execGetMeasurements s
  | .keyExchange => Sys2Proof.Machine.execKeyExchange s
  | .finish => Sys2Proof.Machine.execFinish s
  | .endSession => Sys2Proof.Machine.execEndSession s
  | .openWorld => Sys2Proof.Machine.execOpenWorld s
  | .seal => Sys2Proof.Machine.execSeal s
  | .scrub => Sys2Proof.Machine.execScrub s
  | .scrubExecute => Sys2Proof.Machine.execScrubExecute s
  | .flr => Sys2Proof.Machine.execFlr s
  | .singlePartFault => Sys2Proof.Machine.execSinglePartFault s
  | .portLinkTraining => Sys2Proof.Machine.execPortLinkTraining s
  | .nodeNumberWrite => Sys2Proof.Machine.execNodeNumberWrite s
  | .powerCapSet => Sys2Proof.Machine.execPowerCapSet s
  | .powerCapReached => Sys2Proof.Machine.execPowerCapReached s
  | .junctionOverLimit => Sys2Proof.Machine.execJunctionOverLimit s
  | .junctionShutdown => Sys2Proof.Machine.execJunctionShutdown s
  | .powerLoss => Sys2Proof.Machine.execPowerLoss s
  | .powerOn => Sys2Proof.Machine.execPowerOn s
  | .packageReset => Sys2Proof.Machine.execPackageReset s
  | .bootStep => Sys2Proof.Machine.execBootStep s
  | .faultQueueWrite => Sys2Proof.Machine.execFaultQueueWrite s
  | .hostLinkTraining => Sys2Proof.Machine.execHostLinkTraining s
  | .ideKeyManagement => Sys2Proof.Machine.execIdeKeyManagement s
  | .pullTokenArrival => Sys2Proof.Machine.execPullTokenArrival s
  | .downstreamLinkDown => Sys2Proof.Machine.execDownstreamLinkDown s
  | .powerBelowCap => Sys2Proof.Machine.execPowerBelowCap s
  | .junctionRecovered => Sys2Proof.Machine.execJunctionRecovered s

end Sys2Proof.Machine
end

