-- ==== Sys2Proof/Machine/Run.lean ====
section
/-! DEFINITION. The moves that are no row of the opcode table (caches, a host's page tables, time), what follows an issue or
a step of the part, and how one instruction is placed for the next step. -/

namespace Sys2Proof.Machine

/-- Whether a gang can issue: it is active, its clause has begun, nothing parks it, and no response from
the fabric holds it (R148, R160, R342). -/
def Env.canIssue (E : Env) : Bool :=
  E.g.begun && E.g.place == .active && !E.c.preempted &&
    match E.g.state, E.g.wake with
    | _, .fabric .. => false
    | .ready, _ => true
    | .held _, _ => true
    | .stalled, _ => true
    | _, _ => false

/-- A step's consequences that are no row: requests without a port are refused (R398), pre-emptions complete once every gang of
the crew has parked (R360), bins whose timers have run are ready (R43), and waiting gangs see what their gauges have become (R112). -/
def Mach.aftermath (d : Dev) (m : Mach) : Mach := ((m.refuseSends d).dueSprings.settle d).pollGauges

/-- Whether a gang waits at its instruction as it did before it tried again. -/
def stillHeld (r : GangRef) (s t : State) : Bool :=
  match (s.m.crew r.crew).bind (·.gang r.gang), (t.m.crew r.crew).bind (·.gang r.gang) with
  | some g, some h => g == h && match h.state with | .held _ => true | .stalled => true | _ => false
  | _, _ => false

/-- Gangs of a core that wait in place, but one, have waited some clocks more (R342). -/
def Mach.waitOn (m : Mach) (core : Nat) (r : GangRef) (n : Nat) : Mach :=
  { m with crews := m.crews.map fun c =>
      if c.core != core then c
      else
        { c with gangs := c.gangs.map fun g =>
            if c.id == r.crew && g.id == r.gang then g
            else
              match g.state with
              | .held _ | .stalled | .regroup _ => { g with waited := g.waited + n }
              | _ => g } }

/-- A line brought into a cache whole (R101, R121, R129): every byte of it that is not dirty there takes the value that a read at the
next point sees. Bytes behind a fabric address come only with the answer to a read. -/
def Mach.fillCopy (m : Mach) (level unit : Nat) (loc : Loc) (cls : Cls) (key : Key) : Mach :=
  if !loc.cached || loc.space == .fab then m
  else if level = 1 then
    let m0 := m.reclass unit cls [loc]
    (loc.line.filter fun l => !(copyOf m0.l1 unit l).any (·.dirty)).foldl
      (fun m l => m.putL1 ⟨unit, l, m0.peek unit 2 key l, false, cls, key⟩) m0
  else
    (loc.line.filter fun l => !(copyOf m.l2 unit l).any (·.dirty)).foldl
      (fun a l => a.putL2 ⟨unit, l, m.homeRead key l, false, cls, key⟩) m

/-- A line leaves a cache whole: its dirty bytes are written one level on, the clean ones dropped (R121, R129). The L2 slice
keeps a line of fabric bytes while a write to one of them is on its way (R136). -/
def Mach.spillCopy (m : Mach) (level unit : Nat) (loc : Loc) : Mach :=
  if level = 1 then m.spillLine1 unit loc
  else if loc.space == .fab && (heldOf m.l2 unit loc).any (m.onItsWay unit) then m
  else m.spillLine2 unit loc

/-- A host's ATS answers change; the part may hold the earlier answer until an Invalidate Request, and what waited for a page finds it
(R394, R395). -/
def Mach.hostMapSet (m : Mach) (e : Ats) (present : Bool) : Mach :=
  let same := fun (a : Ats) => a.fn == e.fn && a.page == e.page
  let old := m.hostMaps.filter same
  ({ m with
    hostMaps := (if present then [e] else []) ++ m.hostMaps.filter fun a => !same a
    ats := old ++ m.ats.filter fun a => !(same a && !old.isEmpty) } : Mach).retranslate e.fn

/-- How far time can run at once: no further than the next spring timer (R43). -/
def Mach.span (m : Mach) (n : Nat) : Nat :=
  (m.crews.flatMap fun c => if c.stopping then [] else c.bins.map fun b => b.deadline - m.clock c.core).foldl
    (fun n k => if k = 0 then n else min n k) n

/-- Clocks pass: every counter advances, and gangs that wait in place have waited that long (R34, R342). -/
def Mach.passTime (m : Mach) (most : Nat) : Mach :=
  let n := m.span most
  { m with
    dclock := m.dclock + n
    crews := m.crews.map fun c =>
      { c with gangs := c.gangs.map fun g =>
          match g.state with
          | .held _ => { g with waited := g.waited + n }
          | .stalled => { g with waited := g.waited + n }
          | .regroup _ => { g with waited := g.waited + n }
          | _ => g } }

/-! ### Placing one instruction -/

/-- Where the placed clause stands: its header, in device virtual and linear HBM addresses alike. -/
def placeBase : Nat := 0x100000

/-- A context whose one range entry maps the first GiB above page 0 for every access. -/
def placeCtx : Ctx :=
  { Ctx.blank (2 ^ 56) 0 with
    loaded := true, root := 0, ranges := [⟨4096, 2 ^ 30, 4096, 1, false, 7, 0, 0⟩] }

/-- One fibre with 256 registers of 0. -/
def placeFibre : Fibre :=
  { slot := 0, regs := List.replicate 256 0, preds := 0, stream := 0, stores := [], pend := [], nextBatch := 0, copyErrs := 0, moreBatches := 0, moreOpen := 0
    fabErrs := 0, fabNode := 0, masked := false, inHandler := false, tinfo := 0, brk := none, latched := none, carry := ⟨none, none⟩
    exited := false, ghost := 0 }

/-- A gang of that fibre that stands at index 0 of a begun clause of one instruction of any class. -/
def placeGang : Gang :=
  { id := 0, course := 0, mask := 1, hdr := placeBase, idx := 0, begun := true, header := 2 ^ 31 + 0x3C00 + 3 * 16
    state := .ready, place := .active, wake := .none, waited := 0, issued := 0, readySince := 0, passedOver := 0
    ringWait := none, ringAt := 0, sPark := false, fetchError := none, kept := none }

def placeCrew (id : Nat) : Crew :=
  { id := id, launch := id, ctx := 2 ^ 56, idx := 0, core := 0, slotBase := 0, limit := 32, nregs := 256, scrBase := 0
    scrSize := 4096, image := 2 ^ 29, fibres := [placeFibre], gangs := [placeGang], bins := [], spawned := 0, cursors := []
    channels := [], binning := none, copies := [], gpasses := [], preempt := 0, preempted := false, stopAll := false
    stopped := false }

/-- The state with a crew of one fibre that a loader would have placed: its instruction's bytes stand where the gang fetches
its next instruction, and the gang issues next. Memory, the crew, its context and the agenda are all that this takes. -/
def State.placeProgram (s : State) (bytes : List Byte) : State :=
  let id := s.m.nextId
  { s with
    m := { s.m with
      hbm := s.m.hbm.writeBytes (placeBase + 8) bytes
      crews := placeCrew id :: s.m.crews
      ctxs := placeCtx :: s.m.ctxs
      nextId := id + 1 }
    agenda := [.issue ⟨id, 0⟩] }

end Sys2Proof.Machine
end

