-- ==== Sys2Proof/Machine/Ready.lean ====
section
/-! DEFINITION. Gangs of the pending set whose wait is over become ready there (R342): whether a wait is over is what the gang's
instruction, or its clause header, would find. -/

namespace Sys2Proof.Machine

/-- Whether the instruction at a gang's program counter would do more than wait. -/
def State.wouldGoOn (s : State) (r : GangRef) (E : Env) : Bool :=
  match s.m.fetchInstr s.dev E.x E.cluster E.g.hdr E.g.idx with
  | .ok b =>
    match decode b with
    | .error _ => true
    | .ok (i, _) =>
      match exec i { s with cur := some r, arg := .none } with
      | .next t => !stillHeld r s t
      | _ => true
  | _ => true

/-- Whether the wait of a gang in the pending set is over. -/
def State.waitOver (s : State) (r : GangRef) (E : Env) : Bool :=
  match E.g.state with
  | .held _ => if E.g.begun then s.wouldGoOn r E else s.m.waitsHold E.c E.g E.g.header
  | .stalled => true
  | .regroup t => E.c.regroupMet E.g || decide (t ≤ s.m.clock E.c.core)
  | _ => false

/-- The gang becomes ready where it is; the end of a REGROUP wait joins its fibres (R29). -/
def Mach.makeReady (m : Mach) (E : Env) : Mach :=
  let m1 := if E.g.regrouping then m.updCrew E.c.id fun c => c.regroupEnd E.g else m
  m1.updGang E.c.id E.g.id fun g => { g with state := .ready, readySince := m.clock E.c.core, passedOver := 0 }

/-- One gang of the pending set looked at. -/
def State.readyOne (s : State) (r : GangRef) : State :=
  match s.m.env s.dev r with
  | none => s
  | some E => if E.g.place == .pending && s.waitOver r E then { s with m := s.m.makeReady E } else s

/-- Every gang of the pending set looked at, after a step. -/
def State.readyUp (s : State) : State :=
  (s.m.crews.flatMap fun c => (c.gangs.filter fun g => g.place == .pending && g.state != .ready && !g.isParked).map fun g => (⟨c.id, g.id⟩ : GangRef)).foldl
    State.readyOne s

/-- A step's consequences in whole: see `Mach.aftermath`; then gangs that wait in the pending set become ready (R342). -/
def State.settled (s : State) : State :=
  { ({ s with m := s.m.aftermath s.dev, cur := none, arg := .none } : State).readyUp with cur := none, arg := .none }

/-- After a step of the part or of a party round it. -/
def afterEvent (_s t : State) : State := t.settled

/-- After an issue: the clocks it took count for the gang, and as waiting for those of its core that wait (R342). -/
def afterIssue (r : GangRef) (s t : State) : State :=
  let core := match s.m.crew r.crew with | some c => c.core | none => 0
  let took := if stillHeld r s t then 0 else max 1 (t.m.clock core - s.m.clock core)
  { ({ t with
        m := (t.m.updGang r.crew r.gang fun g => { g with issued := g.issued + took }).waitOn core r took } : State).settled with
    turn := (r.crew, r.gang) }

end Sys2Proof.Machine
end

