-- ==== Sys2Proof/Machine/Schedule.lean ====
section
/-! DEFINITION. What the machine does when the agenda is empty: the fixed order in which it looks for a step that changes
anything (log entry 2). Steps of the part come before the issue of gangs; steps of outside parties stand on the agenda alone. -/

namespace Sys2Proof.Machine

/-- Gangs by crew and number, those after the one that issued last first. -/
def Mach.gangRefs (m : Mach) : List GangRef := m.crews.flatMap fun c => c.gangs.map fun g => ⟨c.id, g.id⟩

def rotate (turn : Nat × Nat) (l : List GangRef) : List GangRef :=
  let past := fun (r : GangRef) => decide (turn.1 < r.crew) || (r.crew == turn.1 && decide (turn.2 < r.gang))
  l.filter past ++ l.filter fun r => !past r

/-- The steps of queues and of the dispatcher (R326 to R341). -/
def queueMoves (s : State) : List Move :=
  let qs := (s.m.queues.filter fun q => !q.ring.isEmpty).map fun q => BitVec.ofNat 14 q.q
  let core := ((List.range Config.cores).find? fun k => inService s.dev k).getD 0
  (qs.flatMap fun q =>
      [.event .completionRecord (.completionRecord q), .event .dependencePoll (.dependencePoll q), .event .launch (.launch q),
       .event .mark (.mark q), .event .evict (.evict q), .event .reclaim (.reclaim q), .event .writeback (.writeback q),
       .event .priorityAging (.priorityAging q), .event .coadmitWait (.coadmitWait q)])
    ++ match s.m.dueQueue s.dev with
      | none => s.m.crews.map fun c => .event .crewResume (.crewResume c.id)
      | some q =>
        let at_ := match s.m.headLaunch q with
          | some l => ((List.range Config.cores).find? fun k => (s.m.room s.dev l k).isSome).getD core
          | none => core
        [.event .admitCrew (.admitCrew (BitVec.ofNat 14 q) (BitVec.ofNat 11 at_))]

/-- The steps of a crew's fibres, engines and timers. -/
def crewMoves (c : Crew) : List Move :=
  let ofFibre : Fibre → List Move := fun f =>
    (if f.pend.isEmpty then [] else [.event .registerResultWrite (.registerResultWrite c.id f.slot 0)])
      ++ if f.stores.isEmpty then [] else [.event .storeDrain (.storeDrain c.id f.slot)]
  let ofChannel : Channel → List Move := fun h =>
    [.event .transferRecordDone (.transferRecordDone c.id (BitVec.ofNat 3 h.n)),
     .event .transferPacket (.transferPacket c.id (BitVec.ofNat 3 h.n) 4096)]
  let ofGang : Gang → List Move := fun g =>
    [.event .requestRingWrite (.requestRingWrite ⟨c.id, g.id⟩), .event .regroupBound (.regroupBound ⟨c.id, g.id⟩),
     .event .handlerTimeout (.handlerTimeout ⟨c.id, g.id⟩)]
  let parts : List (List Move) :=
    [c.fibres.flatMap ofFibre,
     (c.copies.filter fun p => !p.done && p.src.all fun r => r.fab.isNone).map fun p =>
       .event .cpaCopyDone (.cpaCopyDone c.id p.id none false),
     c.channels.flatMap ofChannel,
     c.cursors.map fun h => .event .cursorStep (.cursorStep c.id (BitVec.ofNat 2 h.n)),
     [.event .binReplayRegion (.binReplayRegion c.id)],
     c.gpasses.map fun g => .event .gpassUnit (.gpassUnit c.id g.id),
     c.bins.map fun b => .event .springTimerExpiry (.springTimerExpiry c.id (BitVec.ofNat 4 b.n)),
     c.gangs.flatMap ofGang,
     [.event .crewRetire (.crewRetire c.id)]]
  parts.flatten

/-- Exchanges that a core could make (R342). -/
def exchangeMoves (m : Mach) (core : Nat) : List Move :=
  match m.dueIn core with
  | none => []
  | some p => ((m.coreGangs core).filter fun q => q.2.mayLeave || q.2.place == .pending).map fun q =>
      .event .gangExchange (.gangExchange ⟨q.1, q.2.id⟩ ⟨p.1, p.2.id⟩)

/-- The ORU's steps for a context; what a home or directory across the fabric answers comes on the agenda (R85 to R90). -/
def oruMoves (x : Ctx) : List Move :=
  x.slots.flatMap fun s =>
    let n := BitVec.ofNat 22 s.n
    (if s.lookup && kindOf x.directory != 1 then [Move.event .nameLookup (.nameLookup x.addr n none)] else [])
      ++ (if s.state = 3 ∧ s.cls ≤ 1 then [.event .fetchDone (.fetchDone x.addr n (BitVec.ofNat 19 (s.fetching.getD 0)) none)] else [])
      ++ if s.state = 5 then [.event .eviction (.eviction x.addr n 0)] else []

/-- The array, the fabric's own steps, fault records, and timeouts. -/
def partMoves (s : State) : List Move :=
  let fns := (s.m.faults.filter fun r => !r.written).map fun r => BitVec.ofNat 7 r.fn
  let ofPost : Post → List Move := fun p =>
    [.event .postDone (.postDone p.id), .event .matrixStep (.matrixStep p.id), .event .postAge (.postAge p.id),
     .event .postGrant (.postGrant p.id)]
  let parts : List (List Move) :=
    [s.m.posts.flatMap ofPost,
     (s.m.fabOut.filter fun o => o.asks && o.answer.isSome).map fun o => .event .fabricResponse (.fabricResponse o.id false []),
     s.m.missed.filterMap fun p => (s.m.rkeyCtx s.dev p).map fun c => .event .peerContextFetch (.peerContextFetch c.1),
     if s.m.inMsgs.isEmpty then [] else [.event .tokenGrant .none],
     s.m.tokens.map fun t => .event .tokenExpiry (.tokenExpiry t.id),
     (s.m.inMsgs.filter (·.orphan)).map fun i => .event .fabricEventWrite (.fabricEventWrite i.ctx),
     fns.map fun f => .event .faultQueueWrite (.faultQueueWrite f),
     s.m.persist.map fun o => .event .persistTimeout (.persistTimeout o.id),
     s.m.invals.map fun v => .event .invalidationComplete (.invalidationComplete (BitVec.ofNat 7 v.fn)),
     s.dev.atsInval.map fun v => .event .atsInvalidateTimeout (.atsInvalidateTimeout (BitVec.ofNat 7 v.fn)),
     (s.dev.fns.filter fun r => r.scrub.isSome).map fun r => .event .scrubExecute (.scrubExecute (BitVec.ofNat 7 r.fn) [])]
  parts.flatten

/-- The moves tried, in order. -/
def autoMoves (s : State) : List Move :=
  queueMoves s ++ partMoves s ++ s.m.ctxs.flatMap oruMoves ++ s.m.crews.flatMap crewMoves
    ++ ((s.m.crews.map (·.core)).dedup).flatMap (exchangeMoves s.m)
    ++ (rotate s.turn s.m.gangRefs).flatMap fun r => [.event .clauseStart (.clauseStart r false), .issue r]

end Sys2Proof.Machine
end

