-- ==== Sys2Proof/Machine/Step.lean ====
section
/-! DEFINITION. One step of the machine: the move at the head of the agenda, or, with an empty agenda, the first move of a
fixed order that changes anything; and placing one instruction where the next step issues it. -/

namespace Sys2Proof.Machine

/-- What follows a meaning that answered a next state. -/
def onNext (o : Host.Outcome State Fault Refusal) (f : State → State) : Host.Outcome State Fault Refusal :=
  match o with
  | .next t => .next (f t)
  | .fault e => .fault e
  | .refused e => .refused e

/-- A step of the part or of a party round it, with its operands. -/
def runEvent (i : Instr) (a : Arg) (s : State) : Host.Outcome State Fault Refusal :=
  onNext (exec i { s with cur := none, arg := a }) (afterEvent s)

/-- The gang issues the instruction at its program counter (R28, R148, R155). -/
def issue (r : GangRef) (s : State) : Host.Outcome State Fault Refusal :=
  match s.m.env s.dev r with
  | none => .next s
  | some E =>
    if !E.canIssue || s.m.latchOut E then .next s
    else if E.g.unread then .next (afterIssue r s { s with m := s.m.readResume E })
    else
      match s.m.fetchInstr s.dev E.x E.cluster E.g.hdr E.g.idx with
      | .ok b =>
        match decode b with
        | .error _ => .next { s with m := trapAll E s.m 1 (leNat (b.take 4)) }
        | .ok (i, _) => onNext (exec i { s with cur := some r, arg := .none }) (afterIssue r s)
      | f => .next { s with m := fetchFailed E s.m f }

def runMove (mv : Move) (s : State) : Host.Outcome State Fault Refusal :=
  match mv with
  | .event i a => if s.dev.powered || i == .powerOn then runEvent i a s else .next s
  | .issue r => if s.dev.powered then issue r s else .next s
  | .fill level unit loc cls key => .next { s with m := s.m.fillCopy level unit loc cls key }
  | .spill level unit loc => .next { s with m := s.m.spillCopy level unit loc }
  | .hostMap e present => .next { s with m := s.m.hostMapSet e present }
  | .onLink link => .next { s with dev := { s.dev with link := link.toNat } }
  | .registerRead fn off n => .next { s with m := s.m.readRegister s.dev fn.toNat off n }
  | .measure k v => .next { s with dev := s.dev.osExtend k.toNat v }
  | .poison line on =>
    let rest := s.dev.poison.filter (· != line)
    .next { s with dev := { s.dev with poison := if on then line :: rest else rest } }
  | .walkAfresh asker page on =>
    let rest := s.m.afresh.filter (· != (asker, page))
    .next { s with m := { s.m with afresh := if on then (asker, page) :: rest else rest } }
  | .time n => .next (State.settled { s with m := s.m.passTime n })

/-- The first of a list of moves that changes anything; a clock passes where none does. -/
def firstEffective (s : State) : List Move → Host.Outcome State Fault Refusal
  | [] => runMove (.time 1) s
  | mv :: t =>
    match runMove mv s with
    | .next u => if { u with turn := s.turn } = s then firstEffective s t else .next u
    | _ => firstEffective s t

/-- One step. -/
def step (s : State) : Host.Outcome State Fault Refusal :=
  match s.agenda with
  | mv :: rest => runMove mv { s with agenda := rest }
  | [] =>
    if !s.dev.powered then .fault .poweredOff
    else if s.dev.halted then .fault .startHalted
    else firstEffective s (autoMoves s)

/-- `s` with one instruction of a table row as the next that a gang issues: see `State.placeProgram`. -/
def State.withFetchWord (s : State) (nbits w : Nat) : State := s.placeProgram (natBytes 12 (w % 2 ^ nbits))

end Sys2Proof.Machine
end

