-- ==== Sys2Proof/Safety.lean ====
section
/-! DEFINITION. What counts as a safe state: the invariant that every step keeps. -/

namespace Sys2Proof.Machine

/-- Every index above `lo`, strictly rising, and no word 0. -/
def wordsAbove : Nat → List (Nat × Word) → Bool
  | _, [] => true
  | lo, c :: t => decide (lo ≤ c.1) && c.2 != 0 && wordsAbove (c.1 + 1) t

/-- Every byte memory, and the list of accumulator words, is in its canonical form: addresses strictly rising, no entry that reads as
an unlisted address. -/
def Mach.memoriesWf (m : Mach) : Bool :=
  m.hbm.wf && m.host.wf && m.pmem.wf && m.durable.wf && m.scratch.wf && wordsAbove 0 m.accs

end Sys2Proof.Machine
end

