-- ==== Sys2Proof/Certificates/Slice0/Obligations.lean ====
section
/-! DEFINITION. The statements about the model, each a proposition `Obligations.<Name>`, and the words they are written in.
A statement about an instruction holds for every form, type and operand that the spec gives it, in every state in which a gang
issues it; where its fields are not legal, `IllegalOperandsTrap` says what happens. -/

namespace Sys2Proof.Claims

open Sys2Proof.Machine

/-! ### The words of the statements -/

/-- `E` is the gang that `s` names as issuing, with its crew, context and launch. -/
def Issues (s : State) (E : Env) : Prop := ∃ r, s.cur = some r ∧ s.m.env s.dev r = some E

/-- The checks of R155 before an instruction pass: its fields are legal for the crew's register window (R21, R173). -/
def Legal (E : Env) (e : Enc) : Prop := (shapeOf e).fits e E.c.nregs = true

/-- The instruction answers a next state in which only what instructions and engines work on may differ, and that is `m`. -/
def Answers (i : Instr) (s : State) (m : Mach) : Prop := exec i s = .next { s with m := m }

/-- A claim about both forms of an instruction. -/
def wl (W : WForm → Instr) (L : LForm → Instr) (P : Instr → Prop) : Prop := (∀ f, P (W f)) ∧ ∀ f, P (L f)
def cw (C : CForm → Instr) (W : WForm → Instr) (P : Instr → Prop) : Prop := (∀ f, P (C f)) ∧ ∀ f, P (W f)

/-- Whether a fibre of the issuing crew is an active lane of the instruction (R26, R152). -/
def active (E : Env) (e : Enc) (f : Fibre) : Bool :=
  !f.exited && f.course == E.g.course && E.g.mask.getLsbD (f.slot % 32)
    && (e.guard == 15 || ((e.guard == 15 || f.preds.getLsbD e.guard) != e.neg))

/-- What a register instruction leaves (R145, R159, R172): each active lane's fibre of the issuing crew changed by `h` and
nothing else of any fibre, the gang at its next instruction, and the clocks of the core's pipe passed. -/
def lanesDone (s : State) (E : Env) (e : Enc) (cost : Nat) (h : Fibre → Fibre) : Mach :=
  (s.m.updCrew E.c.id fun c =>
    ({ c with fibres := c.fibres.map fun f => if active E e f then h f else f } : Crew).advance E.g.id e).tick E.c.core cost

/-- A register instruction completes with the effect `h` in its active lanes, wherever it is legal. -/
def Computes (cost : Enc → Nat) (h : Enc → Env → Fibre → Fibre) (i : Instr) : Prop :=
  ∀ s E e, i.enc = some e → Issues s E → Legal E e → Answers i s (lanesDone s E e (cost e) (h e E))

def one (_ : Enc) : Nat := 1

/-- The width of the instruction's type, and its operands as bit patterns of that width (`OperandForms`). -/
def width (e : Enc) : Nat := (tyOf e).bits
def opA (e : Enc) (f : Fibre) : BitVec (width e) := BitVec.ofNat (width e) (aAt e (tyOf e) f)
def opB (e : Enc) (f : Fibre) : BitVec (width e) := BitVec.ofNat (width e) (bAt e (tyOf e) f)
def opC (e : Enc) (f : Fibre) : BitVec (width e) := BitVec.ofNat (width e) (cAt e (tyOf e) f)

/-- A bit pattern as the type reads it (R177): Sext for a signed type, else Zext. -/
def ext (e : Enc) (v : BitVec (width e)) : Int := if (tyOf e).signed then v.toInt else (v.toNat : Int)

/-- A bit pattern written to the destination of the instruction's type. -/
def toD (e : Enc) (f : Fibre) (v : BitVec (width e)) : Fibre := setD e (tyOf e) f v.toNat

/-- The range of the type. -/
def least (e : Enc) : Int := if (tyOf e).signed then -(2 ^ (width e - 1)) else 0
def greatest (e : Enc) : Int := if (tyOf e).signed then 2 ^ (width e - 1) - 1 else 2 ^ width e - 1

/-- The last lines of R179. -/
def fitted (e : Enc) (f : Fibre) (x : Int) : Fibre :=
  toD e f (BitVec.ofInt (width e) (if e.sat57 then min (max x (least e)) (greatest e) else x))

def intResult (op : Enc → Int → Int → Int) (e : Enc) (_ : Env) (f : Fibre) : Fibre :=
  fitted e f (op e (ext e (opA e f)) (ext e (opB e f)))

end Sys2Proof.Claims

section Statements

open Sys2Proof Sys2Proof.Machine Sys2Proof.Claims

/-- R153 and R173: where an operand stands and how wide it is read. A 32-bit operand is one register, a 64-bit one a pair with
the low word first, a 16-bit one the low half; the immediate is sign-extended, a literal is taken whole, and at .f64 it is the
FP32 pattern's value. A result is written the same way, the bits above a narrow one 0. -/
def Obligations.OperandForms : Prop :=
  (∀ e f, tyOf e = .n32 → aAt e .n32 f = (f.regs.getD e.va 0).toNat)
  ∧ (∀ e f, aAt e .n64 f = ((f.regs.getD (e.va + 1) 0) ++ (f.regs.getD e.va 0) : BitVec 64).toNat)
  ∧ (∀ e f, aAt e .f16 f = ((f.regs.getD e.va 0).extractLsb' 0 16).toNat)
  ∧ (∀ e f, e.isL = false → e.ib = false → bAt e .n64 f = ((f.regs.getD (e.vb + 1) 0) ++ (f.regs.getD e.vb 0) : BitVec 64).toNat)
  ∧ (∀ e f, e.isL = false → e.ib = true → e.vb < 256 → bAt e .n32 f = ((BitVec.ofNat 8 e.vb).signExtend 32).toNat)
  ∧ (∀ e f, e.isL = false → e.ib = true → e.vb < 256 → bAt e .s64 f = ((BitVec.ofNat 8 e.vb).signExtend 64).toNat)
  ∧ (∀ e f, e.isL = true → e.lit < 2 ^ 32 → bAt e .n32 f = e.lit)
  ∧ (∀ e f, e.isL = true → e.lit < 2 ^ 32 → bAt e .s64 f = ((BitVec.ofNat 32 e.lit).signExtend 64).toNat)
  ∧ (∀ e f, e.isL = true → e.lit < 2 ^ 32 → bAt e .f64 f = widen32 e.lit)
  ∧ (∀ e f v, setD e .n32 f v = { f with regs := f.regs.set e.vd (BitVec.ofNat 32 v) })
  ∧ (∀ e f v, setD e .n64 f v =
      { f with regs := (f.regs.set e.vd (BitVec.ofNat 32 v)).set (e.vd + 1) (BitVec.ofNat 32 (v / 2 ^ 32)) })
  ∧ ∀ e f v, setD e .f16 f v = { f with regs := f.regs.set e.vd (BitVec.ofNat 32 (v % 2 ^ 16)) }

/-- R179 and R182 for the arithmetic without a carry: exact integers, saturated where asked, wrapped into the type. -/
def Sys2Proof.Claims.IntegerSums : Prop :=
  wl .iaddW .iaddL (Computes one (intResult fun _ x y => x + y))
  ∧ wl .isubW .isubL (Computes one (intResult fun _ x y => x - y))
  ∧ wl .imulW .imulL (Computes mulCost (intResult fun _ x y => x * y))
  ∧ wl .imulhW .imulhL (Computes mulCost (intResult fun e x y => x * y / 2 ^ width e))
  ∧ wl .imadW .imadL (Computes mulCost fun e _ f => fitted e f (ext e (opA e f) * ext e (opB e f) + ext e (opC e f)))
  ∧ cw .inegC .inegW (Computes one (intResult fun _ x _ => -x))
  ∧ cw .iabsC .iabsW (Computes one (intResult fun _ x _ => |x|))
  ∧ wl .iminW .iminL (Computes one (intResult fun _ x y => min x y))
  ∧ wl .imaxW .imaxL (Computes one (intResult fun _ x y => max x y))

namespace Sys2Proof.Claims

/-- Quotient and remainder as R182 gives them. -/
def quotient (e : Enc) (x y : Int) : Int :=
  if y = 0 then 2 ^ width e - 1
  else if (tyOf e).signed ∧ x = least e ∧ y = -1 then least e
  else x.tdiv y

def remainder (e : Enc) (x y : Int) : Int :=
  if y = 0 then x
  else if (tyOf e).signed ∧ x = least e ∧ y = -1 then 0
  else x - x.tdiv y * y

/-- IADDC's sum (R180). -/
def carryIn (e : Enc) (f : Fibre) : Nat :=
  if e.mb 49 ∧ (e.vc % 16 = 15 ∨ f.preds.getLsbD (e.vc % 16) = true) then 1 else 0

def addCarry (e : Enc) (_ : Env) (f : Fibre) : Fibre :=
  let x := (opA e f).toNat + (opB e f).toNat + carryIn e f
  (toD e f (BitVec.ofNat (width e) x)).setPred (e.vc / 16) (decide (2 ^ width e ≤ x))

/-- A pair of registers as one value, the first register lowest, and such a value written (R47, R173). -/
def pair (f : Fibre) (k : Nat) : BitVec 64 := (f.regs.getD (k + 1) 0) ++ (f.regs.getD k 0)
def setPair (f : Fibre) (k : Nat) (v : BitVec 64) : Fibre :=
  { f with regs := (f.regs.set k (v.extractLsb' 0 32)).set (k + 1) (v.extractLsb' 32 32) }

/-- ICMP's conditions (R183). -/
def compares : Nat → Int → Int → Bool
  | 0, x, y => x == y
  | 1, x, y => x != y
  | 2, x, y => decide (x < y)
  | 3, x, y => decide (x ≤ y)
  | 4, x, y => decide (x > y)
  | _, x, y => decide (x ≥ y)

end Sys2Proof.Claims

/-- R182: division and remainder, with their results at a divisor of 0 and at the signed overflow. -/
def Sys2Proof.Claims.IntegerDivision : Prop :=
  wl .idivW .idivL (Computes divCost fun e _ f => toD e f (BitVec.ofInt (width e) (quotient e (ext e (opA e f)) (ext e (opB e f)))))
  ∧ wl .iremW .iremL (Computes divCost fun e _ f => toD e f (BitVec.ofInt (width e) (remainder e (ext e (opA e f)) (ext e (opB e f)))))

/-- R180 and R181: addition with a carry predicate, and the 64-bit sum of 32-bit factors. -/
def Sys2Proof.Claims.CarryAndWideArithmetic : Prop :=
  wl .iaddcW .iaddcL (Computes one addCarry)
  ∧ wl .imadwW .imadwL (Computes (fun _ => 2) fun e _ f =>
      setPair f e.vd (BitVec.ofInt 64 (ext e (opA e f) * ext e (opB e f) + ((pair f e.vc).toNat : Int))))

/-- R179 and R182 for the arithmetic without a carry: exact integers, saturated where asked, wrapped into the type. R182:
division and remainder, with their results at a divisor of 0 and at the signed overflow. R180 and R181: addition with a carry
predicate, and the 64-bit sum of 32-bit factors. -/
def Obligations.IntegerArithmetic : Prop := IntegerSums ∧ IntegerDivision ∧ CarryAndWideArithmetic

/-- R183 to R186: compare, select, address and move. -/
def Sys2Proof.Claims.CompareSelectMove : Prop :=
  wl .icmpW .icmpL (Computes one fun e _ f => f.setPred e.vd (compares e.cond (ext e (opA e f)) (ext e (opB e f))))
  ∧ wl .iselW .iselL (Computes one fun e _ f =>
      toD e f (if e.vc = 15 ∨ f.preds.getLsbD e.vc = true then opA e f else opB e f))
  ∧ wl .leaW .leaL (Computes one fun e _ f =>
      setPair f e.vd (pair f e.va + BitVec.ofInt 64 (ext e (opB e f)) * BitVec.ofNat 64 (2 ^ e.aux)))
  ∧ cw .movC .movW (Computes one fun e _ f => toD e f (opA e f))
  ∧ wl .moviW .moviL (Computes one fun e _ f => toD e f (opB e f))

namespace Sys2Proof.Claims

/-- The state registers of R187 as R34 gives them: the value, as the fibre reads it at issue. -/
def stateValue (s : State) (E : Env) (f : Fibre) : Nat → BitVec 64
  | 0 => 32
  | 1 => BitVec.ofNat 64 (f.slot % 32)
  | 2 => BitVec.ofNat 64 f.slot
  | 3 => BitVec.ofNat 64 (f.slot / 32)
  | 4 => BitVec.ofNat 64 E.c.idx
  | 5 => BitVec.setWidth 64 (E.l.record.extractLsb' 96 32)
  | 6 => BitVec.ofNat 64 (E.c.core / 4)
  | 7 => BitVec.ofNat 64 (E.c.core / 32)
  | 8 => BitVec.ofNat 64 E.d.node
  | 9 => BitVec.setWidth 64 E.g.mask
  | 10 => BitVec.ofNat 64 E.l.attempt
  | 11 => BitVec.ofNat 64 (s.m.clock E.c.core)
  | 12 => E.l.record.extractLsb' 448 64
  | 13 => if f.inHandler then f.tinfo else 0
  | _ => BitVec.ofNat 64 (s.m.headerNat E.d E.x 0x40 8)

/-- A state register written to its register or pair. -/
def setState (f : Fibre) (k n : Nat) (v : BitVec 64) : Fibre :=
  if n < 11 then { f with regs := f.regs.set k (v.extractLsb' 0 32) } else setPair f k v

end Sys2Proof.Claims

/-- R187: every state register, as the lane's fibre has it at issue, read into a register or a pair; a modifier bit that is not 0
and a code from 15 on are ILLEGAL_OPERAND (2). -/
def Obligations.StateRegisterReads : Prop :=
  ∀ i s E e, (∃ f, i = .movsC f) ∨ (∃ f, i = .movsW f) → i.enc = some e → Issues s E →
    (Legal E e → Answers i s (lanesDone s E e 1 fun f => setState f e.vd e.va (stateValue s E f e.va)))
    ∧ (e.mods ≠ 0 ∨ 15 ≤ e.va → Answers i s (takeTrap E s.m E.g.mask 2 fun _ => e.parcel))

namespace Sys2Proof.Claims

/-- The number whose bit i is `g i`, for i below w. -/
def fromBits (w : Nat) (g : Nat → Bool) : Nat := ((List.range w).map fun i => if g i then 2 ^ i else 0).sum

/-- The 32-bit count operand of R189. -/
def count (e : Enc) (f : Fibre) : Nat := b32At e f

def bitsResult (op : (w : Nat) → BitVec w → BitVec w → BitVec w) (e : Enc) (_ : Env) (f : Fibre) : Fibre :=
  toD e f (op (width e) (opA e f) (opB e f))

def shiftResult (op : (w : Nat) → BitVec w → Nat → BitVec w) (e : Enc) (_ : Env) (f : Fibre) : Fibre :=
  toD e f (op (width e) (opA e f) (count e f))

/-- Bits [hi:lo] of the bits [62:49] that a truth table stands in. -/
def table (e : Enc) (j : Nat) : Bool := e.mods.testBit j

end Sys2Proof.Claims

/-- R188: the logic instructions bit by bit. -/
def Sys2Proof.Claims.LogicBitByBit : Prop :=
  wl .andW .andL (Computes one (bitsResult fun _ x y => x &&& y))
  ∧ wl .orW .orL (Computes one (bitsResult fun _ x y => x ||| y))
  ∧ wl .xorW .xorL (Computes one (bitsResult fun _ x y => x ^^^ y))
  ∧ wl .andnW .andnL (Computes one (bitsResult fun _ x y => x &&& ~~~y))
  ∧ cw .notC .notW (Computes one (bitsResult fun _ x _ => ~~~x))
  ∧ wl .lop3W .lop3L (Computes one fun e _ f =>
      toD e f (BitVec.ofNat (width e) (fromBits (width e) fun i =>
        table e (((opA e f).getLsbD i).toNat + 2 * ((opB e f).getLsbD i).toNat + 4 * ((opC e f).getLsbD i).toNat))))

/-- R189: shifts and rotates, whatever the 32-bit count. -/
def Sys2Proof.Claims.ShiftsAndRotates : Prop :=
  wl .shlW .shlL (Computes one (shiftResult fun _ x k => x <<< k))
  ∧ wl .shrW .shrL (Computes one (shiftResult fun _ x k => x >>> k))
  ∧ wl .sarW .sarL (Computes one (shiftResult fun _ x k => x.sshiftRight k))
  ∧ wl .rolW .rolL (Computes one (shiftResult fun _ x k => x.rotateLeft k))
  ∧ wl .rorW .rorL (Computes one (shiftResult fun _ x k => x.rotateRight k))

namespace Sys2Proof.Claims

/-- Position and length of a bit field, cut at the type's width (R191). -/
def fieldPos (e : Enc) (f : Fibre) : Nat := count e f % 256
def fieldLen (e : Enc) (f : Fibre) : Nat := if count e f % 256 < width e then min (count e f / 256 % 256) (width e - count e f % 256) else 0

def inField (e : Enc) (f : Fibre) (i : Nat) : Bool := decide (fieldPos e f ≤ i ∧ i < fieldPos e f + fieldLen e f)

/-- The funnel shift's position (R190). -/
def funnelPos (e : Enc) (f : Fibre) : Nat := if e.mb 49 then min (count e f) 64 else count e f % 64

/-- Set bits of a word in a range of bit numbers. -/
def setBits (x : Nat) (l : List Nat) : List Nat := l.filter fun i => x.testBit i

/-- The bits that FNS passes, in the order it passes them (R192). -/
def walked (e : Enc) (f : Fibre) : List Nat :=
  if e.mb 49 then (List.range (count e f % 256 + 1)).reverse
  else (List.range (width e)).filter fun i => decide (count e f % 256 ≤ i)

def findNth (e : Enc) (f : Fibre) : Nat :=
  if width e ≤ count e f % 256 ∨ count e f / 256 % 256 = 0 then 0xFFFFFFFF
  else ((setBits (opA e f).toNat (walked e f))[count e f / 256 % 256 - 1]?).getD 0xFFFFFFFF

/-- A 32-bit result. -/
def to32 (f : Fibre) (k v : Nat) : Fibre := { f with regs := f.regs.set k (BitVec.ofNat 32 v) }

end Sys2Proof.Claims

/-- R190 and R191: the funnel shift, extracting and inserting bit fields. -/
def Sys2Proof.Claims.FieldsAndFunnel : Prop :=
  wl .shfW .shfL (Computes one fun e _ f =>
    to32 f e.vd ((((f.regs.getD e.va 0) ++ (f.regs.getD e.vc 0) : BitVec 64) >>> funnelPos e f).toNat % 2 ^ 32))
  ∧ wl .bfxW .bfxL (Computes one fun e _ f =>
      toD e f
        (let field := (opA e f).extractLsb' (fieldPos e f) (fieldLen e f)
         if (tyOf e).signed then field.signExtend (width e) else field.setWidth (width e)))
  ∧ wl .bfiW .bfiL (Computes one fun e _ f =>
      toD e f (BitVec.ofNat (width e) (fromBits (width e) fun i =>
        if inField e f i then (opC e f).getLsbD (i - fieldPos e f) else (opA e f).getLsbD i)))

/-- R192: the bit counts, the reversal, and the search for the n-th set bit. -/
def Sys2Proof.Claims.BitCounts : Prop :=
  cw .popcC .popcW (Computes one fun e _ f => to32 f e.vd (setBits (opA e f).toNat (List.range (width e))).length)
  ∧ cw .lzcC .lzcW (Computes one fun e _ f =>
      to32 f e.vd ((List.range (width e)).filter fun i => (setBits (opA e f).toNat ((List.range (width e)).drop i)).isEmpty).length)
  ∧ cw .tzcC .tzcW (Computes one fun e _ f =>
      to32 f e.vd ((List.range (width e)).filter fun i => (setBits (opA e f).toNat (List.range (i + 1))).isEmpty).length)
  ∧ cw .brevC .brevW (Computes one fun e _ f =>
      toD e f (BitVec.ofNat (width e) (fromBits (width e) fun i => (opA e f).getLsbD (width e - 1 - i))))
  ∧ wl .fnsW .fnsL (Computes one fun e _ f => to32 f e.vd (findNth e f))

/-- R188: the logic instructions bit by bit. R189: shifts and rotates, whatever the 32-bit count. R190 and R191: the funnel
shift, extracting and inserting bit fields. R192: the bit counts, the reversal, and the search for the n-th set bit. -/
def Obligations.BitInstructions : Prop := LogicBitByBit ∧ ShiftsAndRotates ∧ FieldsAndFunnel ∧ BitCounts

namespace Sys2Proof.Claims

/-- A predicate as an instruction reads it: p15 is 1 (R20). -/
def predOf (f : Fibre) (k : Nat) : Bool := k = 15 || f.preds.getLsbD k

end Sys2Proof.Claims

/-- R20, R193 and R194: the truth table over predicates, the predicate word read with bit 15 set, and p0 to p14 written. -/
def Sys2Proof.Claims.PredicateInstructions : Prop :=
  (∀ f, Computes one (fun e _ f => f.setPred e.vd (table e ((predOf f e.va).toNat + 2 * (predOf f e.vb).toNat + 4 * (predOf f e.vc).toNat)))
    (.plog f))
  ∧ cw .pmovC .pmovW (Computes one fun e _ f =>
      if e.mb 49 then { f with preds := ((f.regs.getD e.va 0).extractLsb' 0 15).setWidth 16 }
      else to32 f e.vd ((f.preds ||| 0x8000).toNat))
  ∧ ∀ (f : Fibre) k v, k < 15 →
      (f.setPred k v).preds.getLsbD k = v ∧ (∀ j, j ≠ k → (f.setPred k v).preds.getLsbD j = f.preds.getLsbD j)
        ∧ f.setPred k v = { f with preds := (f.setPred k v).preds }

/-- R183 to R186: compare, select, address and move. R20, R193 and R194: the truth table over predicates, the predicate word read
with bit 15 set, and p0 to p14 written. -/
def Obligations.ComparesAndPredicates : Prop := CompareSelectMove ∧ PredicateInstructions

namespace Sys2Proof.Claims

/-! ### Floating point -/

/-- The rational value of a finite exact number. -/
def value : Machine.Num → ℚ
  | .fin neg m e => (if neg then -1 else 1) * (m : ℚ) * (2 : ℚ) ^ e
  | _ => 0

def finite : Machine.Num → Bool
  | .fin .. => true
  | _ => false

/-- The element formats of R44. -/
def formats : List FFmt := [fmt16, fmtBf, fmt32, fmt64, fmtE4, fmtE5]

/-- A pattern's sign bit and its other bits. -/
def signOf (f : FFmt) (v : Nat) : Bool := v.testBit (f.eb + f.mb)
def magOf (f : FFmt) (v : Nat) : Nat := v % 2 ^ (f.eb + f.mb)

/-- A NaN pattern (R44, R45). -/
def isNaN (f : FFmt) (v : Nat) : Bool :=
  if f.e4m3 then magOf f v == 0x7F else decide ((2 ^ f.eb - 1) * 2 ^ f.mb < magOf f v)

/-- A subnormal pattern replaced by the zero of its sign (R61). -/
def flushed (f : FFmt) (on : Bool) (v : Nat) : Nat :=
  if on ∧ magOf f v < 2 ^ f.mb then v - magOf f v else v

/-- The order of patterns that are no NaN: by sign and magnitude, with −0 below +0, or equal to it. -/
def orderKey (f : FFmt) (zerosApart : Bool) (v : Nat) : Int :=
  if signOf f v then -(magOf f v : Int) - (if zerosApart then 1 else 0) else magOf f v

/-- FMIN and FMAX of two patterns (R197). -/
def chosen (f : FFmt) (larger : Bool) (x y : Nat) : Nat :=
  if isNaN f x ∧ isNaN f y then f.nan
  else if isNaN f x then y
  else if isNaN f y then x
  else if larger then (if orderKey f true x ≤ orderKey f true y then y else x)
  else if orderKey f true x ≤ orderKey f true y then x else y

/-- FCMP's conditions (R199, R200). -/
def fcompares (f : FFmt) (cond x y : Nat) : Bool :=
  if isNaN f x ∨ isNaN f y then cond == 1 || cond == 7
  else if cond < 6 then compares cond (orderKey f false x) (orderKey f false y) else cond == 6

/-- The class mask of FCLASS (R201). -/
def classMask (f : FFmt) (v : Nat) : Nat :=
  let neg := signOf f v
  if isNaN f v then 2 ^ 8
  else if f.e4m3 = false ∧ magOf f v = (2 ^ f.eb - 1) * 2 ^ f.mb then (if neg then 2 ^ 0 else 2 ^ 7)
  else if magOf f v = 0 then (if neg then 2 ^ 3 else 2 ^ 4)
  else if magOf f v < 2 ^ f.mb then (if neg then 2 ^ 2 else 2 ^ 5)
  else if neg then 2 ^ 1 else 2 ^ 6

/-- Whether the type packs two elements, and element k of a pattern (R44). -/
def isPacked (e : Enc) : Bool := e.ty == some .f16x2 || e.ty == some .bf16x2
def element (e : Enc) (v k : Nat) : Nat := if isPacked e then v / 2 ^ (16 * k) % 2 ^ 16 else v

/-- An element as the instruction reads it: FTZI applied, then its exact value (R61, R196). -/
def reads (e : Enc) (v k : Nat) : Machine.Num :=
  (fmtOf (tyOf e)).decode (flushed (fmtOf (tyOf e)) (e.mods.testBit 5) (element e v k))

/-- An exact value rounded once as the instruction asks, with the stream after it (R57 to R62). -/
def rounds (e : Enc) (x : Machine.Num) (stream : Nat) : Nat × Nat := (fmtOf (tyOf e)).round ⟨e.rnd2, e.ftzo2, e.sat2⟩ x stream

/-- Arithmetic in a lane: each element's exact result rounded once, element 0 first, drawing from the lane's stream. -/
def floatResult (op : Enc → Machine.Num → Machine.Num → Machine.Num → Machine.Num) (e : Enc) (_ : Env) (f : Fibre) : Fibre :=
  let x := fun k => op e (reads e (opA e f).toNat k) (reads e (opB e f).toNat k) (reads e (opC e f).toNat k)
  let r0 := rounds e (x 0) f.stream.toNat
  if isPacked e then
    let r1 := rounds e (x 1) r0.2
    { toD e f (BitVec.ofNat (width e) (r0.1 + 2 ^ 16 * r1.1)) with stream := BitVec.ofNat 64 r1.2 }
  else { toD e f (BitVec.ofNat (width e) r0.1) with stream := BitVec.ofNat 64 r0.2 }

/-- Whether the instruction rounds down (RD). -/
def roundsDown (e : Enc) : Bool := e.rnd2 == 3

/-- A result of one operand rounded once, FRCP and FSQRT (R202). -/
def rootResult (fn : Machine.Num → Machine.Num) (e : Enc) (_ : Env) (f : Fibre) : Fibre :=
  let r := rounds e (fn (reads e (opA e f).toNat 0)) f.stream.toNat
  { toD e f (BitVec.ofNat (width e) r.1) with stream := BitVec.ofNat 64 r.2 }

def specialResult (op : Nat) (e : Enc) (_ : Env) (f : Fibre) : Fibre :=
  to32 f e.vd (specialFn op e.ftzi2 e.ftzo2 (f.regs.getD e.va 0).toNat)

def rootCost (e : Enc) : Nat := if tyOf e = .f64 then 16 else 4

end Sys2Proof.Claims

/-- R196 and R198: FADD, FSUB, FMUL and FFMA round the exact result once, element 0 before element 1, and draw from the lane's
rounding stream as the rounding says. -/
def Sys2Proof.Claims.FloatArithmeticRoundsOnce : Prop :=
  wl .faddW .faddL (Computes fltCost (floatResult fun e x y _ => Machine.Num.add (roundsDown e) x y))
  ∧ wl .fsubW .fsubL (Computes fltCost (floatResult fun e x y _ => Machine.Num.add (roundsDown e) x y.neg))
  ∧ wl .fmulW .fmulL (Computes fltCost (floatResult fun _ x y _ => Machine.Num.mul x y))
  ∧ wl .ffmaW .ffmaL (Computes fltCost (floatResult fun e x y z => Machine.Num.add (roundsDown e) (Machine.Num.mul x y) z))

/-- R196: the exact arithmetic is exact on finite values, gives NaN where the rule says, and signs an exact zero by the rule. -/
def Obligations.ExactArithmeticIsExact : Prop :=
  (∀ rd x y, finite x → finite y → finite (Machine.Num.add rd x y) ∧ value (Machine.Num.add rd x y) = value x + value y)
  ∧ (∀ x y, finite x → finite y → finite (Machine.Num.mul x y) ∧ value (Machine.Num.mul x y) = value x * value y)
  ∧ (∀ rd x, Machine.Num.add rd .nan x = .nan ∧ Machine.Num.add rd x .nan = .nan ∧ Machine.Num.mul .nan x = .nan ∧ Machine.Num.mul x .nan = .nan)
  ∧ (∀ rd s, Machine.Num.add rd (.inf s) (.inf (!s)) = .nan)
  ∧ (∀ s t e, Machine.Num.mul (.inf s) (.fin t 0 e) = .nan ∧ Machine.Num.mul (.fin t 0 e) (.inf s) = .nan)
  ∧ (∀ rd s d e, ∃ q, Machine.Num.add rd (.fin s 0 d) (.fin s 0 e) = .fin s 0 q)
  ∧ ∀ rd m d e, 0 < m → ∃ q, Machine.Num.add rd (.fin false m d) (.fin true m d) = .fin rd 0 q ∧ Machine.Num.mul (.fin true m d) (.fin true 0 e) = .fin false 0 (d + e)

/-- R57, R58 and R61: an exact value that a format holds is kept bit for bit in every mode, without a draw, and FTZO replaces a
subnormal by the zero of its sign. -/
def Obligations.RoundingKeepsWhatTheFormatHolds : Prop :=
  ∀ f ∈ formats, ∀ (o : RMode) (v stream : Nat), v < 2 ^ f.bits → finite (f.decode v) →
    f.round o (f.decode v) stream = (flushed f o.ftzo v, stream)

/-- R57: a finite result of RZ is no larger in magnitude than the exact value, one of RD no larger than it and one of RU no
smaller, for every format and every exact value. -/
def Obligations.DirectedRounding : Prop :=
  ∀ f ∈ formats, ∀ (x : Machine.Num) (stream : Nat), finite x →
    (let r := f.decode (f.round ⟨1, false, false⟩ x stream).1; finite r → |value r| ≤ |value x|)
    ∧ (let r := f.decode (f.round ⟨3, false, false⟩ x stream).1; finite r → value r ≤ value x)
    ∧ (let r := f.decode (f.round ⟨2, false, false⟩ x stream).1; finite r → value x ≤ value r)

/-- R153, R197, R199, R200 and R201: the smaller and the larger operand, the comparison, the class mask, and the FP32 pattern of
an immediate widened to FP64 without a change of value. -/
def Sys2Proof.Claims.FloatCompareAndClassify : Prop :=
  wl .fminW .fminL (Computes fltCost fun e _ f =>
    let m := fmtOf (tyOf e)
    let r := chosen m false (flushed m e.ftzi2 (opA e f).toNat) (flushed m e.ftzi2 (opB e f).toNat)
    toD e f (BitVec.ofNat (width e) (flushed m e.ftzo2 r)))
  ∧ wl .fmaxW .fmaxL (Computes fltCost fun e _ f =>
      let m := fmtOf (tyOf e)
      let r := chosen m true (flushed m e.ftzi2 (opA e f).toNat) (flushed m e.ftzi2 (opB e f).toNat)
      toD e f (BitVec.ofNat (width e) (flushed m e.ftzo2 r)))
  ∧ wl .fcmpW .fcmpL (Computes fltCost fun e _ f =>
      let m := fmtOf (tyOf e)
      f.setPred e.vd (fcompares m e.cond2 (flushed m e.ftzi2 (opA e f).toNat) (flushed m e.ftzi2 (opB e f).toNat)))
  ∧ (∀ w, Computes fltCost (fun e _ f => to32 f e.vd (classMask (fmtOf (tyOf e)) (opA e f).toNat)) (.fclass w))
  ∧ ∀ v < 2 ^ 32, isNaN fmt32 v = false → value (fmt64.decode (widen32 v)) = value (fmt32.decode v)
      ∧ (finite (fmt64.decode (widen32 v)) = finite (fmt32.decode v))

/-- R196 and R198: FADD, FSUB, FMUL and FFMA round the exact result once, element 0 before element 1, and draw from the lane's
rounding stream as the rounding says. R153, R197, R199, R200 and R201: the smaller and the larger operand, the comparison, the
class mask, and the FP32 pattern of an immediate widened to FP64 without a change of value. -/
def Obligations.FloatInstructions : Prop := FloatArithmeticRoundsOnce ∧ FloatCompareAndClassify

namespace Sys2Proof.Claims

/-- The real value of a pattern of a format. -/
def real (f : FFmt) (v : Nat) : ℝ := ((value (f.decode v) : ℚ) : ℝ)

/-- A finite pattern rounded from a real number, RN, RZ, RU, RD and RS in turn: RN is nearest, RZ, RU and RD are the nearest on
their side, and RS is the nearest on either side (R57). -/
def RoundedFrom (f : FFmt) (rnd v : Nat) (x : ℝ) : Prop :=
  ∀ q < 2 ^ f.bits, finite (f.decode q) →
    (rnd = 0 → |real f v - x| ≤ |real f q - x|)
    ∧ (rnd = 1 → |real f v| ≤ |x| ∧ (|real f q| ≤ |x| → |real f q| ≤ |real f v|))
    ∧ (rnd = 2 → x ≤ real f v ∧ (x ≤ real f q → real f v ≤ real f q))
    ∧ (rnd = 3 → real f v ≤ x ∧ (real f q ≤ x → real f q ≤ real f v))
    ∧ (rnd = 4 → (real f v ≤ x ∧ (real f q ≤ x → real f q ≤ real f v)) ∨ (x ≤ real f v ∧ (x ≤ real f q → real f v ≤ real f q)))

/-- One unit in the last place of an FP32 number of a magnitude. -/
noncomputable def unitAt (y : ℝ) : ℝ := (2 : ℝ) ^ (max (Int.log 2 |y| - 23) (-149))

/-- An FP32 pattern within n units in the last place of a number that is the true value to one part in 2^40. -/
def WithinUnits (n : Nat) (v : Nat) (x : ℝ) : Prop := ∃ y : ℝ, |y - x| ≤ |x| * 2 ^ (-40 : ℤ) ∧ |real fmt32 v - y| ≤ n * unitAt y

/-- An FP32 pattern within 2^−22 of a number that is the true value to 2^−60. -/
def WithinAbs (v : Nat) (x : ℝ) : Prop := ∃ y : ℝ, |y - x| ≤ 2 ^ (-60 : ℤ) ∧ |real fmt32 v - y| ≤ 2 ^ (-22 : ℤ)

/-- A finite FP32 operand other than zero, and one above zero. -/
def Finite32 (v : Nat) : Prop := v < 2 ^ 32 ∧ finite (fmt32.decode v) ∧ real fmt32 v ≠ 0
def Positive32 (v : Nat) : Prop := Finite32 v ∧ 0 < real fmt32 v

/-- A special function on a pattern, with no flush. -/
def special (op v : Nat) : Nat := specialFn op false false v

end Sys2Proof.Claims

/-- R202 and R203: the special functions complete, FRCP and FSQRT at FP32 and FP64, the others at FP32. FRCP and FSQRT give the
value of one function of the exact operand, rounded once, and draw as the rounding says; on a finite operand other than zero a
finite result is the correctly rounded reciprocal or root in each mode. The other six write 32 bits that depend on the operand's
bits and the two flush flags alone. The special values of the table (zeros, infinities, NaN, finite operands below zero) and the
stated exact quarter turns are given. -/
def Obligations.SpecialFunctions : Prop :=
  (∀ w, Computes rootCost (rootResult rcpValue) (.frcp w)) ∧ (∀ w, Computes rootCost (rootResult sqrtValue) (.fsqrt w))
  ∧ (∀ w, Computes (fun _ => 4) (specialResult 0x089) (.frsq w)) ∧ (∀ w, Computes (fun _ => 4) (specialResult 0x08B) (.fexp2 w))
  ∧ (∀ w, Computes (fun _ => 4) (specialResult 0x08C) (.flog2 w)) ∧ (∀ w, Computes (fun _ => 4) (specialResult 0x08D) (.fsin w))
  ∧ (∀ w, Computes (fun _ => 4) (specialResult 0x08E) (.fcos w)) ∧ (∀ w, Computes (fun _ => 4) (specialResult 0x08F) (.ftanh w))
  ∧ (∀ f ∈ [fmt32, fmt64], ∀ v < 2 ^ f.bits, ∀ rnd ≤ 4, ∀ stream < 2 ^ 64, finite (f.decode v) → real f v ≠ 0 →
      (let r := (f.round ⟨rnd, false, false⟩ (rcpValue (f.decode v)) stream).1
       finite (f.decode r) → RoundedFrom f rnd r (1 / real f v))
      ∧ (0 < real f v →
        let r := (f.round ⟨rnd, false, false⟩ (sqrtValue (f.decode v)) stream).1
        finite (f.decode r) ∧ RoundedFrom f rnd r (Real.sqrt (real f v))))
  ∧ (∀ s e, rcpValue (.fin s 0 e) = .inf s ∧ rcpValue (.inf s) = .fin s 0 0 ∧ sqrtValue (.fin s 0 e) = .fin s 0 0
      ∧ sqrtValue (.inf false) = .inf false ∧ sqrtValue (.inf true) = .nan ∧ rcpValue .nan = .nan ∧ sqrtValue .nan = .nan)
  ∧ (∀ m e, 0 < m → sqrtValue (.fin true m e) = .nan)
  ∧ (∀ m e, 0 < m → ∀ ftzi ftzo x, fmt32.input ftzi x = .fin true m e →
      specialFn 0x089 ftzi ftzo x = fmt32.nan ∧ specialFn 0x08C ftzi ftzo x = fmt32.nan)
  ∧ ∀ ftzi ftzo,
      [0x00000000, 0x80000000, 0x7F800000, 0xFF800000, 0x7FC00001].map (specialFn 0x089 ftzi ftzo)
          = [0x7F800000, 0xFF800000, 0, fmt32.nan, fmt32.nan]
      ∧ [0x00000000, 0x80000000, 0x7F800000, 0xFF800000, 0x7FC00001].map (specialFn 0x08B ftzi ftzo)
          = [0x3F800000, 0x3F800000, 0x7F800000, 0, fmt32.nan]
      ∧ [0x00000000, 0x80000000, 0x7F800000, 0xFF800000, 0x7FC00001].map (specialFn 0x08C ftzi ftzo)
          = [0xFF800000, 0xFF800000, 0x7F800000, fmt32.nan, fmt32.nan]
      ∧ [0x00000000, 0x80000000, 0x7F800000, 0xFF800000, 0x7FC00001].map (specialFn 0x08D ftzi ftzo)
          = [0, 0x80000000, fmt32.nan, fmt32.nan, fmt32.nan]
      ∧ [0x00000000, 0x80000000, 0x7F800000, 0xFF800000, 0x7FC00001].map (specialFn 0x08E ftzi ftzo)
          = [0x3F800000, 0x3F800000, fmt32.nan, fmt32.nan, fmt32.nan]
      ∧ [0x00000000, 0x80000000, 0x7F800000, 0xFF800000, 0x7FC00001].map (specialFn 0x08F ftzi ftzo)
          = [0, 0x80000000, 0x3F800000, 0xBF800000, fmt32.nan]
      ∧ [0x3F000000, 0xBF000000, 0x3F800000, 0xBF800000, 0x3E800000].map (specialFn 0x08D ftzi ftzo)
          = [0x80000000, 0, 0, 0x80000000, 0x3F800000]
      ∧ [0x3E800000, 0xBE800000, 0x3F400000, 0xBF400000, 0x3F000000].map (specialFn 0x08E ftzi ftzo)
          = [0x80000000, 0x80000000, 0, 0, 0xBF800000]

/-- R202, the accuracy of the six functions that are not rounded correctly, on finite operands other than zero: FRSQ within 1
unit in the last place and exact where the true value is an FP32 value; FEXP2 within 2 units, and exact at integers with a normal
result; FLOG2 within 2^−22 from 1/2 to 2 and within 2 units elsewhere, and exact at powers of two; FSIN and FCOS, of x turns,
within 2^−22, and exact at quarter turns; FTANH within 2 units. FSIN is odd and FCOS even. FTZI and FTZO flush operand and
result. The bounds are the rule's; which value within them is given is free (log entry 5), and a unit is that of the model's own
value of the function, which is the true value to one part in 2^40 (to 2^−60 where the bound is absolute). -/
def Obligations.SpecialFunctionBounds : Prop :=
  (∀ v, Positive32 v → WithinUnits 1 (special 0x089 v) (1 / Real.sqrt (real fmt32 v))
    ∧ ∀ q, q < 2 ^ 32 → finite (fmt32.decode q) → real fmt32 q = 1 / Real.sqrt (real fmt32 v) → real fmt32 (special 0x089 v) = real fmt32 q)
  ∧ (∀ v, Finite32 v →
      (finite (fmt32.decode (special 0x08B v)) → WithinUnits 2 (special 0x08B v) ((2 : ℝ) ^ real fmt32 v))
      ∧ ∀ k : ℤ, real fmt32 v = k → -126 ≤ k → k ≤ 127 → real fmt32 (special 0x08B v) = (2 : ℝ) ^ k)
  ∧ (∀ v, Positive32 v →
      (if 1 / 2 ≤ real fmt32 v ∧ real fmt32 v ≤ 2 then WithinAbs (special 0x08C v) (Real.logb 2 (real fmt32 v))
        else WithinUnits 2 (special 0x08C v) (Real.logb 2 (real fmt32 v)))
      ∧ ∀ k : ℤ, real fmt32 v = (2 : ℝ) ^ k → real fmt32 (special 0x08C v) = k)
  ∧ (∀ v, Finite32 v →
      WithinAbs (special 0x08D v) (Real.sin (2 * Real.pi * real fmt32 v)) ∧ WithinAbs (special 0x08E v) (Real.cos (2 * Real.pi * real fmt32 v))
      ∧ (∀ k : ℤ, 4 * real fmt32 v = k → real fmt32 (special 0x08D v) = Real.sin (2 * Real.pi * real fmt32 v)
          ∧ real fmt32 (special 0x08E v) = Real.cos (2 * Real.pi * real fmt32 v)))
  ∧ (∀ v, Finite32 v → WithinUnits 2 (special 0x08F v) (Real.tanh (real fmt32 v)))
  ∧ (∀ v < 2 ^ 31, finite (fmt32.decode v) →
      special 0x08D (v + 2 ^ 31) = (special 0x08D v + 2 ^ 31) % 2 ^ 32 ∧ special 0x08E (v + 2 ^ 31) = special 0x08E v)
  ∧ ∀ op ∈ [0x089, 0x08B, 0x08C, 0x08D, 0x08E, 0x08F], ∀ ftzi ftzo, ∀ v < 2 ^ 32,
      specialFn op ftzi ftzo v = flushed fmt32 ftzo (special op (flushed fmt32 ftzi v))

namespace Sys2Proof.Claims

/-- A conversion of one value (R204): between integers by the source's signedness, clamped or cut; to an integer with NaN 0 and
a value out of range clamped (R62); to E8M0; to a format, rounded once. -/
def converted (e : Enc) (d st : ETy) (v stream : Nat) : Nat × Nat :=
  let o : RMode := ⟨e.rnd2, e.ftzo2, e.sat2⟩
  let x : Int := if st.signed then (BitVec.ofNat st.bits v).toInt else (v : Int)
  let clamp := fun (y : Int) => min (max y (minOf d)) (maxOf d)
  if st.isInt ∧ d.isInt then ((BitVec.ofInt d.bits (if e.sat2 then clamp x else x)).toNat, stream)
  else
    let y : Machine.Num :=
      if st.isInt then .fin (decide (x < 0)) x.natAbs 0
      else if st = .e8m0 then (if v = 255 then .nan else .fin false 1 ((v : Int) - 127))
      else (fmtOf st).decode (flushed (fmtOf st) e.ftzi2 v)
    if d.isInt then let r := toInt d e.rnd2 y stream; ((BitVec.ofInt d.bits r.1).toNat, r.2)
    else if d = .e8m0 then (toE8m0 o y, stream)
    else toFloat (fmtOf d) o y stream

/-- CVT in a lane: the packed destinations take element 0 from va and element 1 from vc; a narrow integer result is extended to
32 bits by its own signedness. -/
def convertedLane (e : Enc) (_ : Env) (f : Fibre) : Fibre :=
  let st := e.srcTy.getD .b32
  if isPacked e then
    let el := if e.ty = some .f16x2 then ETy.f16 else ETy.bf16
    let r0 := converted e el .f32 (f.regs.getD e.va 0).toNat f.stream.toNat
    let r1 := converted e el .f32 (f.regs.getD e.vc 0).toNat r0.2
    { to32 f e.vd (r0.1 + 2 ^ 16 * r1.1) with stream := BitVec.ofNat 64 r1.2 }
  else
    let src := if st.bits = 64 then (pair f e.va).toNat else (f.regs.getD e.va 0).toNat % 2 ^ st.bits
    let r := converted e (tyOf e) st src f.stream.toNat
    let f' := { f with stream := BitVec.ofNat 64 r.2 }
    if width e = 64 then setPair f' e.vd (BitVec.ofNat 64 r.1)
    else if (tyOf e).signed then { f' with regs := f.regs.set e.vd ((BitVec.ofNat (width e) r.1).signExtend 32) }
    else to32 f' e.vd r.1

/-- Clocks of a conversion (R177). -/
def convertCost (e : Enc) : Nat := if tyOf e = .f64 ∨ e.srcTy = some .f64 then 2 else 1

end Sys2Proof.Claims

/-- R62 and R204: CVT in each active lane, for every pair of source and destination types, in each rounding mode: the value read
from its register, converted and rounded once, and written as the destination type stands. A flush flag or sat that the types
give no use is legal and does nothing, which is the model's choice (log entry 60; R174 could make it ILLEGAL_OPERAND). -/
def Obligations.Conversion : Prop :=
  (∀ w, Computes convertCost convertedLane (.cvt w))
  ∧ (∀ t rnd stream, (toInt t rnd .nan stream).1 = 0)
  ∧ (∀ t rnd stream x, t ∈ [ETy.s8, .s16, .s32, .s64, .n8, .n16, .n32, .n64] →
      minOf t ≤ (toInt t rnd x stream).1 ∧ (toInt t rnd x stream).1 ≤ maxOf t)
  ∧ ∀ t stream s m, minOf t ≤ (if s then -(m : Int) else m) → (if s then -(m : Int) else m) ≤ maxOf t → m < 2 ^ 64 → ∀ rnd,
      toInt t rnd (.fin s m 0) stream = (if s then -(m : Int) else m, stream)

namespace Sys2Proof.Claims

/-! ### Lanes -/

/-- The active lanes as a lane reads them at issue: a register or predicate with a long-latency write pending shows the old or the new
value, chosen for each reading lane alone (R157, R207). -/
def seenBy (s : State) (E : Env) (e : Enc) (f : Fibre) : List Fibre := (E.act e).map (Fibre.seenBy s.m.nextId f)

/-- A cross-lane instruction completes with the effect `h`, of the lanes as each active lane reads them, wherever it is legal; it takes
one number. -/
def Crosses (cost : Enc → Nat) (h : Enc → List Fibre → Fibre → Fibre) (i : Instr) : Prop :=
  ∀ s E e, i.enc = some e → Issues s E → Legal E e →
    Answers i s { lanesDone s E e (cost e) (fun f => h e (seenBy s E e f) f) with nextId := s.m.nextId + 1 }

/-- The fibre of a home lane among active lanes (R207). -/
def laneAt (act : List Fibre) (l : Nat) : Option Fibre := act.find? fun f => f.slot % 32 == l

/-- A lane as it reads itself. -/
def itself (act : List Fibre) (f : Fibre) : Fibre := (laneAt act (f.slot % 32)).getD f

/-- The partner of a lane where there is one (R208): W is 32. -/
def partnerLane (e : Enc) (f : Fibre) : Option Nat :=
  let l := f.slot % 32
  let d := 32 >>> e.m 55 51
  let seg := max d 1
  match e.m 57 56 with
  | 0 => some ((l - l % seg) + b32At e f % seg)
  | 1 => some (l ^^^ d)
  | 2 => if d ≤ l then some (l - d) else none
  | _ => if l + d < 32 then some (l + d) else none

def okWritten (e : Enc) (f : Fibre) (ok : Bool) : Fibre := if e.mb 50 then f.setPred e.vc ok else f

/-- SHFL (R209): the partner's value, or the lane's own. -/
def pulled (e : Enc) (act : List Fibre) (f : Fibre) : Fibre :=
  match (partnerLane e f).bind (laneAt act) with
  | some g => okWritten e (toD e f (BitVec.ofNat (width e) (opA e g).toNat)) true
  | none => okWritten e (toD e f (BitVec.ofNat (width e) (opA e (itself act f)).toNat)) false

/-- PUSHL (R210): the highest-numbered lane that names this one. -/
def pushed (e : Enc) (act : List Fibre) (f : Fibre) : Fibre :=
  match (act.filter fun g => partnerLane e g == some (f.slot % 32)).getLast? with
  | some g => okWritten e (toD e f (BitVec.ofNat (width e) (opA e g).toNat)) true
  | none => okWritten e f false

/-- The combining function of R211. -/
def joined (e : Enc) (x y : Nat) : Nat :=
  let m := fmtOf (tyOf e)
  if (tyOf e).isFloat then
    match e.m 52 50 with
    | 0 => (m.round ⟨e.m 57 55, e.mb 53, false⟩ (Machine.Num.add (e.m 57 55 == 3) (m.decode x) (m.decode y)) 0).1
    | k => flushed m (e.mb 53) (chosen m (k == 2) x y)
  else
    let u := BitVec.ofNat (width e) x
    let v := BitVec.ofNat (width e) y
    match e.m 52 50 with
    | 0 => (u + v).toNat
    | 1 => if ext e u ≤ ext e v then x else y
    | 2 => if ext e u ≤ ext e v then y else x
    | 3 => x &&& y
    | 4 => x ||| y
    | _ => x ^^^ y

/-- What a lane gives: its value, FTZI applied to a floating-point one. -/
def given (e : Enc) (f : Fibre) : Nat :=
  if (tyOf e).isFloat then flushed (fmtOf (tyOf e)) (e.mb 54) (opA e f).toNat else (opA e f).toNat

/-- Two values that may be absent, combined (R212). -/
def joinedOpt (e : Enc) : Option Nat → Option Nat → Option Nat
  | some x, some y => some (joined e x y)
  | some x, none => some x
  | none, y => y

/-- The value of lane l after j levels of XRED's tree (R212). -/
def tree (e : Enc) (act : List Fibre) : Nat → Nat → Option Nat
  | 0, l => (laneAt act l).map (given e)
  | j + 1, l => joinedOpt e (tree e act j l) (tree e act j (l + 2 ^ j))

/-- The first lane's value in an exclusive scan (R211). -/
def scanStart (e : Enc) : Nat :=
  let m := fmtOf (tyOf e)
  match e.m 52 50 with
  | 1 => if (tyOf e).isFloat then (2 ^ m.eb - 1) * 2 ^ m.mb else (BitVec.ofInt (width e) (greatest e)).toNat
  | 2 => if (tyOf e).isFloat then 2 ^ (m.eb + m.mb) + (2 ^ m.eb - 1) * 2 ^ m.mb else (BitVec.ofInt (width e) (least e)).toNat
  | 3 => 2 ^ width e - 1
  | _ => 0

/-- The result of the i-th active lane of a scan over the lanes' values (R213). -/
def scanned (e : Enc) (vs : List Nat) : Nat → Nat
  | 0 => if e.mb 49 then scanStart e else vs.getD 0 0
  | i + 1 => joined e (scanned e vs i) (vs.getD (if e.mb 49 then i else i + 1) 0)

/-- The number of a lane among the active ones. -/
def rank (act : List Fibre) (f : Fibre) : Nat := act.findIdx fun g => g.slot % 32 == f.slot % 32

/-- The mask of the active lanes that a test names (R214). -/
def maskWhere (act : List Fibre) (t : Fibre → Bool) : BitVec 32 :=
  BitVec.ofNat 32 (fromBits 32 fun l => match laneAt act l with | some g => t g | none => false)

/-- VOTE, MATCH and ELECT (R214). -/
def voted (e : Enc) (act : List Fibre) (f : Fibre) : Fibre :=
  match e.m 57 56 with
  | 0 => f.setPred e.vd (act.any fun g => predOf g e.va)
  | 1 => f.setPred e.vd (act.all fun g => predOf g e.va)
  | 2 => f.setPred e.vd (act.all fun g => predOf g e.va == predOf (itself act f) e.va)
  | _ => { f with regs := f.regs.set e.vd (maskWhere act fun g => predOf g e.va) }

def matched (e : Enc) (act : List Fibre) (f : Fibre) : Fibre :=
  let same := fun g => (opA e g).toNat == (opA e (itself act f)).toNat
  let mask := if e.mb 57 then (if act.all same then maskWhere act fun _ => true else 0) else maskWhere act same
  { f with regs := f.regs.set e.vd mask }

def elected (e : Enc) (act : List Fibre) (f : Fibre) : Fibre :=
  let low := (act.map fun g => g.slot % 32).headD 0
  if e.mb 57 then to32 f e.vd low else f.setPred e.vd (f.slot % 32 == low)

end Sys2Proof.Claims

/-- R157 and R207 to R210: SHFL gives each active lane its partner's value or its own, PUSHL the value of the highest lane that names it,
over home lanes of the gang, each lane's registers as the reading lane finds them at issue: with no write pending as they stand, with one
the old value or one to come. -/
def Sys2Proof.Claims.LaneExchange : Prop :=
  wl .shflW .shflL (Crosses wideCost pulled) ∧ wl .pushlW .pushlL (Crosses wideCost pushed)
  ∧ (∀ n (f g : Fibre), g.pend = [] → Fibre.seenBy n f g = g)
  ∧ (∀ n (f g : Fibre), (Fibre.seenBy n f g).slot = g.slot)
  ∧ ∀ n (f g : Fibre) k, (Fibre.seenBy n f g).regs.getD k 0 = g.regs.getD k 0
      ∨ ∃ p ∈ g.pend, p.dst = .reg k ∧ (Fibre.seenBy n f g).regs.getD k 0 = p.val

/-- R211 to R213: the reduction by the fixed tree over home lanes, and the scan in lane order. FTZI applies to each lane's value
before the tree (log entry 19), and a value that is alone is given as it stands, a NaN of any pattern too (log entry 61): there
the rules say nothing. -/
def Obligations.ReductionAndScan : Prop :=
  (∀ w, Crosses redCost (fun e act f => toD e f (BitVec.ofNat (width e) ((tree e act 5 0).getD 0))) (.xred w))
  ∧ ∀ w, Crosses redCost
      (fun e act f => toD e f (BitVec.ofNat (width e) (scanned e (act.map (given e)) (rank act f)))) (.xscan w)

/-- R214: VOTE, MATCH and ELECT over the active lanes: the masks and predicates of votes, matches and the election. -/
def Sys2Proof.Claims.VoteMatchElect : Prop :=
  (∀ w, Crosses one voted (.vote w)) ∧ (∀ w, Crosses wideCost matched (.matchLanes w))
  ∧ ∀ w, Crosses one elected (.elect w)

/-- R157 and R207 to R210: SHFL gives each active lane its partner's value or its own, PUSHL the value of the highest lane that
names it, over home lanes of the gang, each lane's registers as the reading lane finds them at issue: with no write pending as
they stand, with one the old value or one to come. R214: VOTE, MATCH and ELECT over the active lanes: the masks and predicates of
votes, matches and the election. -/
def Obligations.LaneExchangeAndVotes : Prop := LaneExchange ∧ VoteMatchElect

namespace Sys2Proof.Claims

/-! ### Traps and flow -/

/-- The machine changed in what crews hold, in core clocks and in the numbers given out, and in nothing else: no byte of any
memory, no cache, tile, context, queue or register of the part. -/
def OnlyCrews (m m' : Mach) : Prop := m' = { m with crews := m'.crews, clocks := m'.clocks, nextId := m'.nextId }

/-- No long-latency result of the gang is pending. -/
def Settled (E : Env) : Prop := ∀ f ∈ E.lanes, f.pend = []

/-- A clause-ending instruction need not wait for results: its S bit is clear, or none is pending (R159). -/
def NoWait (E : Env) (e : Enc) : Prop := e.s = true → Settled E

/-- No store of a fibre waits in the crew's queues. -/
def QueuesEmpty (E : Env) : Prop := ∀ f ∈ E.c.fibres, f.stores = []

/-- No slot of the context counts a lane of the crew as waiting (R77, R91). -/
def NoneCounted (E : Env) : Prop := ∀ q ∈ E.x.slots, ∀ w ∈ q.parked, w.1 ≠ E.c.id

/-- The home lanes of fibres as a mask (R26). -/
def lanesMask (l : List Fibre) : BitVec 32 := BitVec.ofNat 32 (fromBits 32 fun k => l.any fun f => f.slot % 32 == k)

/-- %tvec of the context (R348). -/
def tvec (s : State) (E : Env) : Nat := s.m.headerNat E.d E.x 0x40 8

/-- The trap frame of R349 as a 512-bit value: v0:1, %tinfo, where the fibre resumes, the code, and the mask of the lanes that
took the trap. -/
def frameOf (E : Env) (f : Fibre) (mask : BitVec 32) (code : Nat) (info : Nat) : Nat :=
  (f.regs.getD 0 0).toNat + 2 ^ 32 * (f.regs.getD 1 0).toNat + 2 ^ 64 * (info % 2 ^ 64)
    + 2 ^ 128 * (E.g.hdr % 2 ^ 57 / 8 * 8 + 2 ^ 60 * E.g.idx) + 2 ^ 192 * code + 2 ^ 224 * mask.toNat

/-- Where a fibre's frame stands in the crew image (R359). -/
def frameAt (E : Env) (f : Fibre) : Nat := E.c.image + 0xB000 + 128 * f.slot + 0x40

/-- A fibre as a trap leaves it: v0:1 the frame's address, %tinfo set, traps masked, inside a handler. -/
def Trapped (E : Env) (f f' : Fibre) (info : Nat) : Prop :=
  f' = { setPair f 0 (BitVec.ofNat 64 (frameAt E f)) with
    tinfo := BitVec.ofNat 64 info, masked := true, inHandler := true, brk := f'.brk, latched := f'.latched
    carry := ⟨none, none⟩ }

end Sys2Proof.Claims

/-- R155: an instruction whose fields are not legal changes nothing itself; every fibre of the gang takes ILLEGAL_OPERAND (2)
with the first parcel in %tinfo, whichever instruction it is. -/
def Obligations.IllegalOperandsTrap : Prop :=
  ∀ i s E e, i.enc = some e → Issues s E → ¬ Legal E e → Answers i s (takeTrap E s.m E.g.mask 2 fun _ => e.parcel)

/-- R347, R348 and R349: a trap of lanes with traps not masked, in a context with a handler. Each lane that takes it has its
frame in the crew image, its v0:1, %tinfo, mask and handler state as the rules say and nothing else of it changed; the gang of
those lanes stands at %tvec + 16 × code; no other lane of the crew changes. -/
def Sys2Proof.Claims.TrapEntry : Prop :=
  ∀ s E mask code info, Issues s E → tvec s E ≠ 0 → QueuesEmpty E → NoneCounted E → (∀ f ∈ E.c.fibres, f.pend = []) →
    E.g.mask &&& mask ≠ 0 → (∀ f ∈ E.c.fibres, f.masked = false) → (∀ g ∈ E.c.gangs, g.id < s.m.nextId) →
    (E.c.fibres.map (·.slot)).Nodup → s.m.memoriesWf = true →
    let takers := E.c.lanes { E.g with mask := E.g.mask &&& mask }
    let m := takeTrap E s.m mask code info
    (∀ f ∈ takers, ∃ c f', m.crew E.c.id = some c ∧ c.fibre f.slot = some f' ∧ Trapped E f f' (info f)
      ∧ leNat ((List.range 64).map fun k => m.hbmRead E.key (frameAt E f + k))
          = frameOf E f (E.g.mask &&& mask) code (info f) % 2 ^ 512)
    ∧ (∃ c g, m.crew E.c.id = some c ∧ c.gang E.g.id = some g ∧ g.hdr = tvec s E + 16 * code ∧ g.idx = 0 ∧ g.begun = false
        ∧ g.state = .ready ∧ g.mask = if E.g.mask &&& ~~~mask = 0 then E.g.mask else E.g.mask &&& mask)
    ∧ ∀ f ∈ E.c.fibres, f.exited = false → (∀ t ∈ takers, t.slot ≠ f.slot) →
        ∃ c, m.crew E.c.id = some c ∧ f ∈ c.fibres

/-- R351: with no handler, or traps masked in a lane that takes it, the trap is forwarded: the gang parks until system software
answers its ring entry of kind 2 with the code and %tinfo; no frame is written and no fibre enters a handler. -/
def Sys2Proof.Claims.TrapForwarding : Prop :=
  ∀ s E code info, Issues s E → QueuesEmpty E → NoneCounted E → Settled E →
    (tvec s E = 0 ∨ ∃ f ∈ E.lanes, f.masked = true) →
    let m := takeTrap E s.m E.g.mask code info
    OnlyCrews s.m m
    ∧ ∃ c g, m.crew E.c.id = some c ∧ c.gang E.g.id = some g ∧ g.state = .parked .trap ∧ g.hdr = E.g.hdr ∧ g.idx = E.g.idx
        ∧ g.ringWait = some (2, code, (E.lanes.head?.map info).getD 0 % 2 ^ 64)

/-- R347, R348 and R349: a trap of lanes with traps not masked, in a context with a handler. Each lane that takes it has its
frame in the crew image, its v0:1, %tinfo, mask and handler state as the rules say and nothing else of it changed; the gang of
those lanes stands at %tvec + 16 × code; no other lane of the crew changes. R351: with no handler, or traps masked in a lane that
takes it, the trap is forwarded: the gang parks until system software answers its ring entry of kind 2 with the code and %tinfo;
no frame is written and no fibre enters a handler. -/
def Obligations.TrapEntryAndForwarding : Prop := TrapEntry ∧ TrapForwarding

namespace Sys2Proof.Claims

/-- A valid clause address (R75, R217). -/
def validHeader (x : Nat) : Prop := x < 2 ^ 57 ∧ x % 8 = 0

/-- The target of a branch offset in units of 8 bytes, from the header of the gang's clause (R161, R206). -/
def offsetTarget (E : Env) (e : Enc) : Nat :=
  let off : BitVec 64 :=
    if e.isL then (BitVec.ofNat 32 e.lit).signExtend 64
    else (BitVec.ofNat 24 (e.va + 2 ^ 8 * e.vb + 2 ^ 16 * e.vc)).signExtend 64
  (BitVec.ofNat 64 E.g.hdr + off * 8).toNat

/-- The header of the clause after the gang's (R141, R145). -/
def following (E : Env) : Nat :=
  let body := E.g.header / 16 % 64
  E.g.hdr + 8 + 4 * (if body % 2 = 0 then body else body + 1)

/-- The lanes of each of the places that a gang's lanes go to, with the place (R26). -/
def parts (E : Env) (dest : Fibre → Nat) : List (Nat × BitVec 32) := groupLanes dest E.lanes

/-- Where a branch leaves the lanes: the active ones at their target, the others at the following clause, a gang for each
place; `link` is written in the active lanes. -/
def branched (s : State) (E : Env) (e : Enc) (target : Fibre → Nat) (link : Fibre → Fibre) : Mach :=
  let m := s.m.updCrew E.c.id fun c => { c with fibres := c.fibres.map fun f => if active E e f then link f else f }
  (m.regroup E.c.id E.g.id (parts E fun f => if guardOn e f then target f else following E) fun v g => g.goTo v).tick E.c.core 1

/-- A branch instruction completes wherever every active lane's target is valid. -/
def Branches (target : Enc → Env → Fibre → Nat) (link : Enc → Env → Fibre → Fibre) (i : Instr) : Prop :=
  ∀ s E e, i.enc = some e → Issues s E → Legal E e → NoWait E e → (∀ f ∈ E.act e, validHeader (target e E f)) →
    Answers i s (branched s E e (target e E) (link e E))
      ∧ OnlyCrews s.m (branched s E e (target e E) (link e E))

/-- A branch traps where some active lane's target is not valid: ADDRESS_FORM (4) with the mask of those lanes (R217). -/
def BadTargetTraps (target : Enc → Env → Fibre → Nat) (i : Instr) : Prop :=
  ∀ s E e, i.enc = some e → Issues s E → Legal E e → NoWait E e → (∃ f ∈ E.act e, ¬ validHeader (target e E f)) →
    Answers i s (takeTrap E s.m (lanesMask (E.act e)) 4 fun _ =>
      (lanesMask ((E.act e).filter fun f => decide (¬ (target e E f < 2 ^ 57 ∧ target e E f % 8 = 0)))).toNat)

def fromPair (e : Enc) (_ : Env) (f : Fibre) : Nat := (pair f e.va).toNat
def noLink (_ : Enc) (_ : Env) (f : Fibre) : Fibre := f

/-- CALL's link (R216): the header of the following clause in the pair vd. -/
def linked (e : Enc) (E : Env) (f : Fibre) : Fibre := setPair f e.vd (BitVec.ofNat 64 (following E))

end Sys2Proof.Claims

/-- R206, R216 and R217: branches, calls and returns, and their trap. -/
def Sys2Proof.Claims.BranchesAndCalls : Prop :=
  (wl .braW .braL (Branches (fun e E _ => offsetTarget E e) noLink) ∧ wl .callW .callL (Branches (fun e E _ => offsetTarget E e) linked)
    ∧ (∀ w, Branches fromPair noLink (.brx w)) ∧ cw .retC .retW (Branches fromPair noLink))
  ∧ wl .braW .braL (BadTargetTraps fun e E _ => offsetTarget E e) ∧ wl .callW .callL (BadTargetTraps fun e E _ => offsetTarget E e)
  ∧ (∀ w, BadTargetTraps fromPair (.brx w)) ∧ cw .retC .retW (BadTargetTraps fromPair)

/-- R26: the lanes gathered by where they go. No place occurs twice, a lane is in the part of its own place and in no other, and
with its lanes split off a gang keeps exactly the rest; numbers given out do not repeat. -/
def Sys2Proof.Claims.SplittingAGang : Prop :=
  (∀ (dest : Fibre → Nat) (l : List Fibre), (l.map fun f => f.slot % 32).Nodup →
    ((groupLanes dest l).map (·.1)).Nodup
    ∧ ∀ f ∈ l, ∀ q ∈ groupLanes dest l, q.2.getLsbD (f.slot % 32) = decide (q.1 = dest f))
  ∧ (∀ (dest : Fibre → Nat) (l : List Fibre), ∀ f ∈ l, ∃ q ∈ groupLanes dest l, q.1 = dest f)
  ∧ ∀ (m : Mach) c g mask, c ∈ m.crews → m.crew c.id = some c → c.gang g.id = some g → (∀ h ∈ c.gangs, h.id < m.nextId) →
      g.mask &&& ~~~mask ≠ 0 →
      let r := m.splitOff c.id g.id mask
      ∃ c' old new, r.1.crew c.id = some c' ∧ c'.gang g.id = some old ∧ c'.gang r.2 = some new
        ∧ old.mask = g.mask &&& ~~~mask ∧ new.mask = g.mask &&& mask ∧ new.hdr = g.hdr ∧ new.idx = g.idx
        ∧ new.course = g.course ∧ c'.fibres = c.fibres ∧ r.1.nextId = m.nextId + 1

/-- R206, R216 and R217: branches, calls and returns, and their trap. R26: the lanes gathered by where they go. No place occurs
twice, a lane is in the part of its own place and in no other, and with its lanes split off a gang keeps exactly the rest;
numbers given out do not repeat. -/
def Obligations.BranchesCallsAndSplits : Prop := BranchesAndCalls ∧ SplittingAGang

namespace Sys2Proof.Claims

/-- A gang that goes on at a header (R145). -/
def sentTo (hdr : Nat) (g : Gang) : Gang :=
  { g with hdr := hdr, idx := 0, begun := false, header := 0, state := .ready, wake := .none, waited := 0 }

/-- Gangs of the core that are ready in its pending set (R219, R342). -/
def waitingGangs (s : State) (E : Env) : List (Nat × Gang) :=
  (s.m.coreGangs E.c.core).filter fun q => q.2.place == .pending && q.2.state == .ready

end Sys2Proof.Claims

/-- R29, R218, R219 and R220. REGROUP with every lane of the gang active: it waits at the following header, at most the clocks
that its operand gives and never more than 65535. YIELD with no gang to yield to, and NOP: the gang goes on. YIELD with one: the
gang that became ready first takes its place. -/
def Sys2Proof.Claims.RegroupYieldNop : Prop :=
  wl .regroupW .regroupL (fun i => ∀ s E e, i.enc = some e → Issues s E → Legal E e → NoWait E e →
    E.act e = E.lanes → lanesMask E.lanes = E.g.mask → E.lanes ≠ [] →
    Answers i s ((s.m.updGang E.c.id E.g.id fun g =>
      { sentTo (following E) g with
        state := .regroup (s.m.clock E.c.core + min ((E.lanes.head?.map (b32At e)).getD 0) 65535) }).tick E.c.core 1))
  ∧ (∀ w s E e, (Instr.yieldGang w).enc = some e → Issues s E → Legal E e → NoWait E e → waitingGangs s E = [] →
      Answers (.yieldGang w) s ((s.m.updGang E.c.id E.g.id (sentTo (following E))).tick E.c.core 1))
  ∧ (∀ w s E e, (Instr.yieldGang w).enc = some e → Issues s E → Legal E e → NoWait E e → E.act e ≠ [] → waitingGangs s E ≠ [] →
      ∃ q ∈ waitingGangs s E, (∀ q' ∈ waitingGangs s E, q.2.readySince ≤ q'.2.readySince) ∧ ∃ m, Answers (.yieldGang w) s m
        ∧ OnlyCrews s.m m
        ∧ (∀ c, m.crew q.1 = some c → ∀ g, c.gang q.2.id = some g → g.place = .active)
        ∧ ((q.1, q.2.id) ≠ (E.c.id, E.g.id) → ∀ c, m.crew E.c.id = some c → ∀ g, c.gang E.g.id = some g →
            g.place = .pending ∧ g.hdr = following E ∧ g.idx = 0))
  ∧ ∀ w s E e, (Instr.nop w).enc = some e → Issues s E → Legal E e →
      Answers (.nop w) s ((s.m.updCrew E.c.id fun c => c.advance E.g.id e).tick E.c.core 1)

namespace Sys2Proof.Claims

/-- The fibre that a lane of SPAWN or a cursor places: v0 to v(k−1) from the spawning lane's registers (R221). -/
def handedOn (e : Enc) (f : Fibre) : List Word := (List.range (e.m 62 59)).map fun k => f.regs.getD (e.va + k) 0

/-- The entry address that a lane of SPAWN gives (R221). -/
def spawnEntry (e : Enc) (E : Env) (f : Fibre) : Nat :=
  if e.isL then (BitVec.ofNat 64 E.g.hdr + (BitVec.ofNat 32 e.lit).signExtend 64 * 8).toNat else (pair f e.vb).toNat

/-- The bins of a crew, each with its key and the registers of the fibres in it. -/
def binned (c : Crew) : List (Nat × List (List Word)) := c.bins.map fun q => (q.key, q.fibres.map (·.regs))

/-- The crew's spring timer in clocks (R31). -/
def timerClocks (E : Env) : Nat :=
  let v := (E.l.record.extractLsb' 38 16).toNat
  if v = 0 then 256 else max v 16

end Sys2Proof.Claims

namespace Sys2Proof.Claims

/-- Every lane of the gang is active, and the gang has one. -/
def Whole (E : Env) (e : Enc) : Prop := E.act e = E.lanes ∧ lanesMask E.lanes = E.g.mask ∧ E.lanes ≠ []

/-- The lanes of a SPAWN tried in home-lane order: the crew with the fibres that found a bin, and the lanes that found none (R221). -/
def placing (s : State) (E : Env) (e : Enc) : Crew × List Fibre :=
  (E.act e).foldl (fun p f =>
      match p.1.placeFibre (s.m.clock E.c.core) (s.m.clock E.c.core + timerClocks E) (spawnEntry e E f) (handedOn e f) with
      | some c => (c, p.2)
      | none => (p.1, p.2 ++ [f])) (E.c, [])

/-- A crew after a SPAWN that goes on: with .try each active lane's predicate says whether its fibre was placed. -/
def spawned (E : Env) (e : Enc) (p : Crew × List Fibre) : Crew :=
  { p.1 with fibres := p.1.fibres.map fun q =>
      if active E e q ∧ e.mb 58 then q.setPred e.vd (!(lanesMask p.2).getLsbD (q.slot % 32)) else q }

/-- What SPAWN asks of its state: legal, targets that are valid, and no store of the crew in a queue; crews have their own numbers. -/
def Spawning (i : Instr) (s : State) (E : Env) (e : Enc) : Prop :=
  i.enc = some e ∧ Issues s E ∧ Legal E e ∧ (∀ f ∈ E.act e, validHeader (spawnEntry e E f)) ∧ QueuesEmpty E
    ∧ E.g.mask ≠ 0 ∧ (s.m.crews.map (·.id)).Nodup

/-- SPAWN where no bin becomes ready: it goes on once every lane's fibre has a bin, or with .try; without, a gang whose lanes all
find none parks at the SPAWN, and of one where some do, those that do not park there as a gang of their own. -/
def SpawnsInBins (i : Instr) : Prop :=
  ∀ s E e, Spawning i s E e → (∀ b ∈ (placing s E e).1.bins, b.ready = false) →
    let p := placing s E e
    (p.2 = [] ∨ e.mb 58 = true → Answers i s ((s.m.updCrew E.c.id fun _ => (spawned E e p).advance E.g.id e).tick E.c.core 1))
    ∧ (e.mb 58 = false → p.2 = E.act e → Whole E e →
      Answers i s ((s.m.updGang E.c.id E.g.id fun g =>
        { g with state := .parked .springFull, wake := .none, place := .offCore, waited := 0 }).tick E.c.core 1))
    ∧ (e.mb 58 = false → p.2 ≠ [] → E.g.mask &&& ~~~lanesMask p.2 ≠ 0 → (∀ g ∈ E.c.gangs, g.id < s.m.nextId) →
      ∃ m c g₁ g₂, Answers i s m ∧ OnlyCrews s.m m ∧ m.crew E.c.id = some c ∧ c.fibres = E.c.fibres ∧ c.bins = p.1.bins
        ∧ c.gang E.g.id = some g₁ ∧ g₁.mask = E.g.mask &&& ~~~lanesMask p.2
        ∧ c.gang s.m.nextId = some g₂ ∧ g₂.mask = E.g.mask &&& lanesMask p.2 ∧ g₂.state = .parked .springFull ∧ g₂.hdr = E.g.hdr
        ∧ g₂.idx = E.g.idx)

/-- SPAWN of one lane whose fibre makes a bin ready: the bin waits where no course is free, and where one is its fibres start there as a
gang at the entry (R35, R221). -/
def SpawnFillsABin (i : Instr) : Prop :=
  ∀ s E e f b, Spawning i s E e → E.act e = [f] → (placing s E e).2 = [] → E.c.stopping = false → (∀ g ∈ E.c.gangs, g.id < s.m.nextId) →
    b ∈ (placing s E e).1.bins → b.ready = true → (∀ q ∈ (placing s E e).1.bins, q.ready = true → q = b) →
    let p := placing s E e
    (E.c.freeCourse = none → Answers i s ((s.m.updCrew E.c.id fun _ => (spawned E e p).advance E.g.id e).tick E.c.core 1))
    ∧ ∀ k, E.c.freeCourse = some k →
        ∃ m c g, Answers i s m ∧ OnlyCrews s.m m ∧ m.crew E.c.id = some c ∧ c.bins = p.1.bins.filter (fun q => q.n != b.n)
          ∧ g ∈ c.gangs ∧ g.course = k ∧ g.hdr = b.key ∧ g.idx = 0 ∧ g.begun = false
          ∧ c.fibres.length = E.c.fibres.length + b.fibres.length ∧ ∀ q ∈ E.c.fibres, q.slot ≠ f.slot → q ∈ c.fibres

end Sys2Proof.Claims

/-- R35, R36, R59 and R221: a fibre that a crew has room for enters the bin of its entry address, or a free bin (which of several is the
model's choice, log entry 74, and not said here); a bin that reaches W fibres is ready; a bin that is ready, full or whose timer has run
takes none; and each fibre placed counts. SPAWN tries its active lanes in order and goes on when each has placed its fibre, or with .try,
where the lane's predicate says whether it has; without, the lanes that find no bin park, SPRING_FULL. A bin that the spawned fibre
makes ready starts in a free course. -/
def Sys2Proof.Claims.SpawnPlacesAFibre : Prop :=
  (∀ (c : Crew) now deadline entry regs q, c.bins.find? (fun b => b.key == entry) = some q → q.ready = false → now < q.deadline →
    q.fibres.length < 32 → (c.bins.filter fun b => b.key == entry) = [q] →
    ∃ c', c.placeFibre now deadline entry regs = some c'
      ∧ c'.spawned = c.spawned + 1 ∧ c'.fibres = c.fibres ∧ c'.gangs = c.gangs
      ∧ c'.bins = c.bins.map fun b => if b.key = entry
          then { b with fibres := b.fibres ++ [⟨regs, c.spawned % 2 ^ 16⟩], ready := decide (q.fibres.length + 1 = 32) } else b)
  ∧ (∀ (c : Crew) now deadline entry regs, (∀ b ∈ c.bins, b.key ≠ entry) → c.bins.length < 16 →
    ∃ c' k, c.placeFibre now deadline entry regs = some c' ∧ k < 16 ∧ (∀ b ∈ c.bins, b.n ≠ k) ∧ c'.spawned = c.spawned + 1
      ∧ c'.bins = c.bins ++ [⟨k, entry, [⟨regs, c.spawned % 2 ^ 16⟩], false, deadline, 0, c.spawned⟩])
  ∧ (∀ (c : Crew) now deadline entry regs q, c.bins.find? (fun b => b.key == entry) = some q →
    (q.ready = true ∨ q.deadline ≤ now ∨ 32 ≤ q.fibres.length) → c.placeFibre now deadline entry regs = none)
  ∧ (wl .spawnW .spawnL SpawnsInBins) ∧ wl .spawnW .spawnL SpawnFillsABin

namespace Sys2Proof.Claims

/-- Whether a fibre of the crew is one of the lanes that an instruction ends. -/
def leaving (E : Env) (e : Enc) (f : Fibre) : Bool := !f.exited && (E.act e).any fun q => q.slot == f.slot

/-- The fibres of a crew after FEXIT: a lane that ends is gone where its store queue is empty, else it has exited and drains, with
nothing pending, under a number that no slot has. -/
def remaining (s : State) (E : Env) (e : Enc) : List Fibre :=
  E.c.fibres.filterMap fun f =>
    if leaving E e f then
      if f.stores = [] then none
      else some { f with
        exited := true, ghost := s.m.nextId * 2 ^ 20 + f.slot, pend := [], masked := false, inHandler := false, latched := none }
    else if f.exited && f.stores.isEmpty then none
    else some f

/-- Beside what crews hold, core clocks and numbers given out, only the crew's own posts, fabric requests and persistent
write-backs may carry another number: every one is still there, and those of other crews are as they were. -/
def OnlyPosted (crew : Nat) (m m' : Mach) : Prop :=
  m' = { m with
    crews := m'.crews, clocks := m'.clocks, nextId := m'.nextId, posts := m'.posts, fabOut := m'.fabOut, persist := m'.persist }
  ∧ m'.posts.map (·.id) = m.posts.map (·.id) ∧ m'.fabOut.map (·.id) = m.fabOut.map (·.id)
  ∧ m'.persist.map (·.id) = m.persist.map (·.id)
  ∧ (∀ p ∈ m.posts, p.crew ≠ crew → p ∈ m'.posts) ∧ (∀ o ∈ m.fabOut, o.crew ≠ crew → o ∈ m'.fabOut)
  ∧ ∀ p ∈ m.persist, p.crew ≠ crew → p ∈ m'.persist

end Sys2Proof.Claims

/-- R223: FEXIT ends its active lanes; a gang with none left is gone, one with lanes left goes on without them. No other fibre
changes, and with no ready bin nothing else does but that what the lanes posted goes on apart from their slots. -/
def Sys2Proof.Claims.FibreExit : Prop :=
  cw .fexitC .fexitW fun i => ∀ s E e, i.enc = some e → Issues s E → Legal E e → NoWait E e →
    (∀ b ∈ E.c.bins, b.ready = false) →
    ∃ m c', Answers i s m ∧ OnlyPosted E.c.id s.m m ∧ m.crew E.c.id = some c' ∧ c'.fibres = remaining s E e
      ∧ (E.g.mask &&& ~~~lanesMask (E.act e) = 0 → c'.gangs = E.c.gangs.filter fun g => g.id != E.g.id)
      ∧ (E.g.mask &&& ~~~lanesMask (E.act e) ≠ 0 → c'.gangs = E.c.gangs.map fun g =>
          if g.id = E.g.id then { sentTo (following E) g with mask := E.g.mask &&& ~~~lanesMask (E.act e) } else g)

/-- R35, R36, R59 and R221: a fibre that a crew has room for enters the bin of its entry address, or a free bin (which of several
is the model's choice, log entry 74, and not said here); a bin that reaches W fibres is ready; a bin that is ready, full or whose
timer has run takes none; and each fibre placed counts. SPAWN tries its active lanes in order and goes on when each has placed
its fibre, or with .try, where the lane's predicate says whether it has; without, the lanes that find no bin park, SPRING_FULL. A
bin that the spawned fibre makes ready starts in a free course. R223: FEXIT ends its active lanes; a gang with none left is gone,
one with lanes left goes on without them. No other fibre changes, and with no ready bin nothing else does but that what the lanes
posted goes on apart from their slots. R29, R218, R219 and R220. REGROUP with every lane of the gang active: it waits at the
following header, at most the clocks that its operand gives and never more than 65535. YIELD with no gang to yield to, and NOP:
the gang goes on. YIELD with one: the gang that became ready first takes its place. -/
def Obligations.SpawnExitAndRegroup : Prop := SpawnPlacesAFibre ∧ FibreExit ∧ RegroupYieldNop

namespace Sys2Proof.Claims

/-- The debugger attaches to the context: bit 0 of its debug field (R362). -/
def debugField (s : State) (E : Env) : Nat := s.m.headerNat E.d E.x 0x48 8

/-- The gang parked at its instruction until its ring entry of a kind is answered, with what the entry asks (R225, R351, R358). -/
def asking (m : Mach) (E : Env) (e : Enc) (reason : ParkReason) (req : Nat × Nat × Nat) : Mach :=
  { m.updGang E.c.id E.g.id fun g =>
      { g with
        state := .parked reason, wake := .ring, place := .offCore, waited := 0, sPark := e.s, ringWait := some req, ringAt := m.nextId }
    with nextId := m.nextId + 1 }

end Sys2Proof.Claims

/-- R224, R225 and R362, with every lane of the gang active. BKPT without a debugger takes BREAKPOINT (40) with its code in %tinfo;
with one, the gang parks at the BKPT and asks for a ring entry of kind 3 with the code, and where bit 1 of the debug field asks it the
whole crew stops. SVC releases at sys, then parks the gang
at the SVC and asks for entries of kind 1 with its code and its register. With no lane active, both only go on. -/
def Sys2Proof.Claims.BreakpointAndService : Prop :=
  cw .bkptC .bkptW (fun i => ∀ s E e, i.enc = some e → Issues s E → Legal E e → Whole E e →
    ((debugField s E).testBit 0 = false → Answers i s (takeTrap E s.m E.g.mask 40 fun _ => e.va))
    ∧ ((debugField s E).testBit 0 = true →
        Answers i s (if (debugField s E).testBit 1 then
            (asking s.m E e .bkpt (3, e.va, 0)).updCrew E.c.id fun c => { c with stopAll := true }
          else asking s.m E e .bkpt (3, e.va, 0))))
  ∧ cw .svcC .svcW (fun i => ∀ s E e, i.enc = some e → Issues s E → Legal E e → Whole E e →
      (s.m.releaseNow E.d E.c E.lanes 5 63).2 = true →
      Answers i s (asking (s.m.releaseNow E.d E.c E.lanes 5 63).1 E e .svc (1, e.va, e.vd)))
  ∧ (cw .bkptC .bkptW fun i => ∀ s E e, i.enc = some e → Issues s E → Legal E e → E.act e = [] →
      Answers i s ((s.m.updCrew E.c.id fun c => c.advance E.g.id e).tick E.c.core 1))
  ∧ cw .svcC .svcW fun i => ∀ s E e, i.enc = some e → Issues s E → Legal E e → E.act e = [] →
      Answers i s ((s.m.updCrew E.c.id fun c => c.advance E.g.id e).tick E.c.core 1)

namespace Sys2Proof.Claims

/-- The resume field of a fibre's frame as the core reads it (R349, R350). -/
def resumeOf (s : State) (E : Env) (f : Fibre) : Nat :=
  leNat ((List.range 8).map fun i =>
    match hbmLinear (frameAt E f + 16 + i) with
    | some q => s.m.peek E.c.core 1 E.key ⟨.hbm, q⟩
    | none => 0)

/-- A gang at a resume field: at index 0 it reaches the header, above 0 its clause has begun (R143, R349, R350). -/
def backAt (s : State) (E : Env) (r : Nat) (g : Gang) : Gang :=
  if r / 2 ^ 60 % 16 = 0 then sentTo (r % 2 ^ 57) g
  else
    { g with
      hdr := r % 2 ^ 57, idx := r / 2 ^ 60 % 16, begun := true, header := (s.m.headerAt E.d E.x (r % 2 ^ 57)).getD 0
      state := .ready, wake := .none, waited := 0 }

/-- A fibre as TRET leaves it (R226). -/
def returned (f : Fibre) : Fibre := { f with masked := false, inHandler := false, tinfo := 0, brk := none, latched := none }

end Sys2Proof.Claims

/-- R226, R227 and R350. TRET of a gang whose lanes are all in a handler and agree where to resume: the handler state of each lane
ends, its registers and predicates stay, and the gang stands at the resume field's clause and index. Outside a handler TRET is
ILLEGAL_INSTRUCTION (1). TMASK masks and unmasks traps in its active lanes. -/
def Sys2Proof.Claims.ReturnAndTrapMask : Prop :=
  (∀ w s E e r, (Instr.tret w).enc = some e → Issues s E → Legal E e → NoWait E e → Whole E e → QueuesEmpty E →
    E.c.stopping = false → (∀ f ∈ E.lanes, f.inHandler = true ∧ f.brk = none ∧ resumeOf s E f = r) →
    s.m.resumeOk E.d E.x E.cluster r = true →
    Answers (.tret w) s (((s.m.updCrew E.c.id fun c =>
        { c with fibres := c.fibres.map fun f => if active E e f then returned f else f }).updGang E.c.id E.g.id (backAt s E r)).tick
      E.c.core 1))
  ∧ (∀ w s E e, (Instr.tret w).enc = some e → Issues s E → Legal E e → NoWait E e → (∃ f ∈ E.act e, f.inHandler = false) →
      Answers (.tret w) s (takeTrap E s.m (lanesMask (E.act e)) 1 fun _ => e.parcel))
  ∧ cw .tmaskC .tmaskW fun i => ∀ s E e, i.enc = some e → Issues s E → Legal E e → E.c.stopping = false →
      Answers i s (lanesDone s E e 1 fun f => if e.va = 1 then { f with masked := true } else { f with masked := false, latched := none })

/-- R224, R225 and R362, with every lane of the gang active. BKPT without a debugger takes BREAKPOINT (40) with its code in
%tinfo; with one, the gang parks at the BKPT and asks for a ring entry of kind 3 with the code, and where bit 1 of the debug
field asks it the whole crew stops. SVC releases at sys, then parks the gang at the SVC and asks for entries of kind 1 with its
code and its register. With no lane active, both only go on. R226, R227 and R350. TRET of a gang whose lanes are all in a handler
and agree where to resume: the handler state of each lane ends, its registers and predicates stay, and the gang stands at the
resume field's clause and index. Outside a handler TRET is ILLEGAL_INSTRUCTION (1). TMASK masks and unmasks traps in its active
lanes. -/
def Obligations.TrapInstructions : Prop := BreakpointAndService ∧ ReturnAndTrapMask

namespace Sys2Proof.Claims

/-! ### Memory -/

/-- A fibre of the issuing crew after the instruction. -/
def LaneAfter (m : Mach) (E : Env) (f f' : Fibre) : Prop := ∃ c, m.crew E.c.id = some c ∧ c.fibre f.slot = some f'

/-- Every other fibre of the crew is as it was, and so is every other crew. -/
def OthersKept (s : State) (m : Mach) (E : Env) (l : List Fibre) : Prop :=
  (∀ c, c.id ≠ E.c.id → (c ∈ m.crews ↔ c ∈ s.m.crews)) ∧ ∀ f ∈ E.c.fibres, (f.exited = true ∨ ∀ q ∈ l, q.slot ≠ f.slot) → ∃ c, m.crew E.c.id = some c ∧ f ∈ c.fibres

/-- The gang, if it has a lane, stands at its next instruction (R145): the next of the clause, or the following header. It is
ready, or an S bit has parked it (R159). -/
def GoesOn (m : Mach) (E : Env) (e : Enc) : Prop :=
  E.g.mask ≠ 0 → ∃ c g, m.crew E.c.id = some c ∧ c.gang E.g.id = some g
    ∧ (g.hdr, g.idx, g.begun) =
        (if E.g.header % 16 + 1 ≤ E.g.idx + 1 then (following E, 0, false) else (E.g.hdr, E.g.idx + 1, E.g.begun))
    ∧ (g.state = .ready ∨ (e.s = true ∧ g.state = .parked .switch)) ∧ g.mask = E.g.mask ∧ g.course = E.g.course

/-- No byte of any memory or cache, no tile, gauge, post, queue or register of the part differs: crews, the residency table's
record of touches, core clocks and the numbers given out alone may. -/
def MemoryKept (m m' : Mach) : Prop :=
  m' = { m with crews := m'.crews, ctxs := m'.ctxs, clocks := m'.clocks, nextId := m'.nextId }

/-- A buffer record that an address mode names exists (R168). -/
def RecordNamed (E : Env) (amode n : Nat) : Prop := amode < 2 ∨ n < E.records

/-- Long-latency results of n registers from register k (R156), by one instruction. -/
def results (k n v stamp : Nat) (eng : Bool) : List Pend :=
  (List.range n).map fun i => ⟨.reg (k + i), BitVec.ofNat 32 (v / 2 ^ (32 * i)), eng, stamp⟩

/-- The lanes' results after a long-latency instruction: each active lane's own value, all under one stamp, and nothing else of
the lane changed but what a re-execution carried. -/
def Delivers (E : Env) (e : Enc) (k n : Nat) (v : Fibre → Nat) (m : Mach) : Prop :=
  ∃ stamp, ∀ f ∈ E.act e,
    LaneAfter m E f { f with pend := f.pend ++ results k n (v f) stamp false, carry := ⟨none, none⟩ }

/-- What a fibre's load sees of a place: the newest store of its own queue, else what its core reads at the point of the scope
(R121, R122). -/
def seenAt (m : Mach) (E : Env) (scope : Nat) (f : Fibre) (l : Loc) : Byte :=
  (queued f.stores l).getD (m.peek E.c.core (if scope ≤ 1 then 1 else if scope = 2 then 2 else 3) E.key l)

/-- The machine once the copies that the accesses of the lanes may not be served by have gone: those below the point of the scope,
written back (R121), and clean ones brought in for another class (R126). -/
def raised (m : Mach) (E : Env) (e : Enc) (acc : Fibre → Acc) : Mach :=
  (E.act e).foldl (fun m f => m.raiseAll E.c.core e.scope (acc f).cls (runLocs (acc f).runs)) m

/-- The machine with the touch of each lane's slot noted (R88). -/
def touched (s : State) (E : Env) (e : Enc) (acc : Fibre → Acc) : Mach :=
  s.m.touchSlots E.x.addr ((E.act e).map fun f => (f, acc f))

/-- Beside what `MemoryKept` leaves open only clean copies may have left the caches. -/
def OnlyCleanLeft (m m' : Mach) : Prop :=
  m' = { m with crews := m'.crews, ctxs := m'.ctxs, clocks := m'.clocks, nextId := m'.nextId, l1 := m'.l1, l2 := m'.l2 }
  ∧ (∀ q ∈ m'.l1, q ∈ m.l1) ∧ (∀ q ∈ m.l1, q.dirty = true → q ∈ m'.l1)
  ∧ (∀ q ∈ m'.l2, q ∈ m.l2) ∧ (∀ q ∈ m.l2, q.dirty = true → q ∈ m'.l2)

/-- A load's value in its registers: extended to 32 bits by the type's signedness (R234). -/
def extended (t : ETy) (v : Nat) : Nat :=
  if t = .s8 then ((BitVec.ofNat 8 v).signExtend 32).toNat
  else if t = .s16 then ((BitVec.ofNat 16 v).signExtend 32).toNat else v

/-- A scratchpad address (R105, R230). -/
def scratchAddr (e : Enc) (f : Fibre) : Int :=
  ((f.regs.getD e.va 0).toNat : Int) + (if e.isL then (BitVec.ofNat 32 e.lit).toInt else (BitVec.ofNat 8 e.vb).toInt)

def bytesOf (e : Enc) : Nat := width e / 8

/-- The lane's address passes the checks of R105. -/
def InScratch (E : Env) (a : Int) (n : Nat) : Prop := a % (n : Int) = 0 ∧ 0 ≤ a ∧ a + n ≤ (E.c.scrSize : Int)

/-- Places of n scratchpad bytes of the crew. -/
def scratchLocs (E : Env) (a n : Nat) : List Loc := (List.range n).map fun k => ⟨.scr, E.c.core * 2 ^ 18 + E.c.scrBase + a + k⟩

/-- The checks of a load or store through memory (R231), with the places that they answer. -/
def Checked (s : State) (E : Env) (e : Enc) (store : Bool) (acc : Fibre → Acc) : Prop :=
  RecordNamed E e.amode e.vc ∧ ∀ f ∈ E.act e,
    s.m.memLane E e.amode e.va (memDisp e) e.vc (memWant e (tyOf e) store false) f = .ok (acc f)

/-- No active lane's address is a fabric one (kind 01). -/
def AllHere (E : Env) (e : Enc) (acc : Fibre → Acc) : Prop := ∀ f ∈ E.act e, (acc f).fab = none

/-- The gang's one active lane names fabric bytes (kind 01) that pass its checks: node, rkey and offset. -/
def FabricLane (s : State) (E : Env) (e : Enc) (w : Want) (f : Fibre) (acc : Acc) (p : Nat × Nat × Nat) : Prop :=
  Issues s E ∧ Legal E e ∧ RecordNamed E e.amode e.vc ∧ NoneCounted E ∧ E.act e = [f]
    ∧ s.m.memLane E e.amode e.va (memDisp e) e.vc w f = .ok acc ∧ acc.fab = some p

/-- The scopes of a load's acquire (R119). -/
def loadAcquires (e : Enc) : Option (Nat × Nat) := if e.ord = 1 then some (e.scope, e.stor ||| 16) else none

/-- A request of one lane stands last among those out, and the gang waits for its answer; of the lane itself only what a
re-execution carried has changed. -/
def Asks (s : State) (E : Env) (f : Fibre) (p : Nat × Nat × Nat) (n : Nat) (kind : OutKind) (m : Mach) : Prop :=
  ∃ o c g, m.fabOut.getLast? = some o ∧ m.fabOut.map (·.id) = s.m.fabOut.map (·.id) ++ [s.m.nextId] ∧ o.id = s.m.nextId
    ∧ (o.crew, o.gang, o.slot, o.core, o.fn) = (E.c.id, E.g.id, f.slot, E.c.core, E.x.fn)
    ∧ (o.node, o.rkey, o.off, o.len) = (p.1, p.2.1, p.2.2, n) ∧ o.kind = kind ∧ o.answer = none
    ∧ m.crew E.c.id = some c ∧ c.gang E.g.id = some g ∧ g = { E.g with state := .stalled, wake := .fabric [s.m.nextId] 0 }
    ∧ OthersKept s m E [f] ∧ LaneAfter m E f { f with carry := ⟨none, none⟩ }
    ∧ m = { s.m with
        crews := m.crews, ctxs := m.ctxs, clocks := m.clocks, nextId := m.nextId, fabOut := m.fabOut, l1 := m.l1, l2 := m.l2 }

/-- A load across the fabric of one lane whose bytes no cache below their owner holds for it (R121, R136): it waits while a write to
one of the bytes is on its way, and else asks the owner. -/
def AsksTheOwner (want : Enc → Want) (type n : Enc → Nat) (i : Instr) : Prop :=
  ∀ s E e f acc p, i.enc = some e → FabricLane s E e (want e) f acc p → s.m.fabServed E e.scope f acc = false →
    (s.m.fabAwaits E e.scope f acc = true → Answers i s ((s.m.stall E.c.id E.g.id).tick E.c.core 1))
    ∧ (s.m.fabAwaits E e.scope f acc = false → (∀ o ∈ s.m.fabOut, o.id < s.m.nextId) →
        ∃ m, Answers i s m ∧ Asks s E f p (n e) (.load e.vd (type e) e.s (loadAcquires e)) m
          ∧ (e.scope ≤ 2 → m.l1 = s.m.l1 ∧ m.l2 = s.m.l2))

end Sys2Proof.Claims

/-- R121, R122, R136, R156 and R234: LD and LDS. Each active lane whose address passes its checks gets the bytes that it sees,
extended to its registers, as a long-latency result; no other lane changes, no predicate does, and at scope fib or crew no byte
of memory, and no copy but clean ones that leave. LDS reads the crew's scratchpad. One lane's fabric bytes come from its L1 where
that holds them, and else from their owner, whom the gang asks and waits for. That a load takes its bytes as it issues is the
model's choice (log entry 58). -/
def Obligations.LoadsDeliverWhatTheLaneSees : Prop :=
  wl .ldW .ldL (fun i => ∀ s E e acc, i.enc = some e → Issues s E → Legal E e → Checked s E e false acc → AllHere E e acc →
    NoneCounted E →
    ∃ m, Answers i s m ∧ OthersKept s m E (E.act e) ∧ GoesOn m E e ∧ (e.scope ≤ 1 → OnlyCleanLeft s.m m)
      ∧ m.scratch = s.m.scratch ∧ m.accs = s.m.accs ∧ m.durable = s.m.durable
      ∧ Delivers E e e.vd (tyOf e).regs (fun f =>
          extended (tyOf e) (leNat ((runLocs (acc f).runs).map (seenAt (raised (touched s E e acc) E e acc) E e.scope f)))) m)
  ∧ wl .ldW .ldL (AsksTheOwner (fun e => memWant e (tyOf e) false false) (·.tyCode) bytesOf)
  ∧ wl .ldW .ldL (fun i => ∀ s E e f acc p b, i.enc = some e → FabricLane s E e (memWant e (tyOf e) false false) f acc p →
      e.scope ≤ 1 → f.stores = [] → held s.m.l1 E.c.core E.key (runLocs acc.runs) = some b → (∀ q ∈ s.m.l1, q.cls = .f) →
      ∃ m, Answers i s m ∧ OthersKept s m E [f] ∧ GoesOn m E e ∧ OnlyCleanLeft s.m m
        ∧ Delivers E e e.vd (tyOf e).regs (fun _ => extended (tyOf e) (leNat b)) m)
  ∧ wl .ldsW .ldsL fun i => ∀ s E e, i.enc = some e → Issues s E → Legal E e → NoneCounted E →
      (∀ f ∈ E.act e, InScratch E (scratchAddr e f) (bytesOf e)) →
      ∃ m, Answers i s m ∧ OthersKept s m E (E.act e) ∧ GoesOn m E e ∧ (e.scope ≤ 1 → MemoryKept s.m m) ∧ m.scratch = s.m.scratch
        ∧ Delivers E e e.vd (tyOf e).regs (fun f =>
            extended (tyOf e) (leNat ((scratchLocs E (scratchAddr e f).toNat (bytesOf e)).map (seenAt s.m E 1 f)))) m

namespace Sys2Proof.Claims

/-- The data of a store: the low bytes of its register or registers, lowest first (R234). -/
def stored (e : Enc) (f : Fibre) : List Byte :=
  (List.range (bytesOf e)).map fun k => BitVec.ofNat 8 ((f.regs.getD (e.vd + k / 4) 0).toNat / 256 ^ (k % 4))

/-- The slots of the lower lanes that store to a byte that a lane stores to (R107, R235). -/
def under (E : Env) (e : Enc) (locs : Fibre → List Loc) (f : Fibre) : List Nat :=
  ((E.act e).filter fun q => decide (q.slot % 32 < f.slot % 32 ∧ ∃ l ∈ locs q, l ∈ locs f)).map (·.slot)

/-- The host frames that a store writes, each with the host I/O page that ATS translated (R394, R395). -/
def hostPages (acc : Acc) : List (Nat × Nat) :=
  ((acc.runs.filter fun r => r.loc.space == .host).map fun r => (r.loc.addr / 4096, r.hostPage)).dedup

/-- The entry that a store puts into its fibre's queue (R122): the bytes with their places, or where they go across the fabric; the
scope of an RLX or REL store, a release's storage scope, and the lower lanes whose stores to its bytes leave before it. -/
def queuedStore (E : Env) (e : Enc) (acc : Fibre → Acc) (name : Bool) (data : Fibre → List Byte) (stamp : Nat) (f : Fibre) : StoreEntry :=
  { kind := match (acc f).fab with
      | some (node, rkey, off) => .fabric node rkey off (data f)
      | none => .bytes ((runLocs (acc f).runs).zip (data f))
    cls := (acc f).cls, key := E.key, scope := e.scope
    release := if e.ord = 2 then some e.stor else none, object := (acc f).object
    instr := stamp, behind := under E e (fun q => runLocs (acc q).runs) f, name := name, hostAt := hostPages (acc f) }

/-- The entry of an STS. -/
def queuedScratch (E : Env) (e : Enc) (stamp : Nat) (f : Fibre) : StoreEntry :=
  let locs := fun q => scratchLocs E (scratchAddr e q).toNat (bytesOf e)
  { kind := .bytes ((locs f).zip (stored e f)), cls := .s, key := E.key, scope := e.scope
    release := if e.ord = 2 then some e.stor else none, object := none
    instr := stamp, behind := under E e locs f, name := false, hostAt := [] }

/-- Each active lane's store stands last in its queue, all under one stamp, and nothing else of the lane changed. -/
def Queues (E : Env) (e : Enc) (entry : Nat → Fibre → StoreEntry) (m : Mach) : Prop :=
  ∃ stamp, ∀ f ∈ E.act e, LaneAfter m E f { f with stores := f.stores ++ [entry stamp f], carry := ⟨none, none⟩ }

end Sys2Proof.Claims

/-- R122 and R234: ST and STS. Each active lane's bytes enter its own store queue at the places that its checked address names,
in memory or across the fabric; until they drain no byte of memory changes, and no register or predicate does. A lane's store
that shares a byte with lower lanes' leaves after theirs. -/
def Obligations.StoresEnterTheQueue : Prop :=
  wl .stW .stL (fun i => ∀ s E e acc, i.enc = some e → Issues s E → Legal E e → Checked s E e true acc → NoneCounted E →
    ∃ m, Answers i s m ∧ OthersKept s m E (E.act e) ∧ GoesOn m E e ∧ MemoryKept s.m m
      ∧ Queues E e (queuedStore E e acc false (stored e)) m)
  ∧ wl .stsW .stsL fun i => ∀ s E e, i.enc = some e → Issues s E → Legal E e → NoneCounted E →
      (∀ f ∈ E.act e, InScratch E (scratchAddr e f) (bytesOf e)) →
      ∃ m, Answers i s m ∧ OthersKept s m E (E.act e) ∧ GoesOn m E e ∧ MemoryKept s.m m
        ∧ Queues E e (queuedScratch E e) m

namespace Sys2Proof.Claims

/-- The traps of a scratchpad access (R105, R231): alignment before bounds, with the failed lanes and the first one's address. -/
def ScratchTraps (i : Instr) : Prop :=
  ∀ s E e, i.enc = some e → Issues s E → Legal E e →
    let bad := (E.act e).filter fun f => decide (scratchAddr e f % (bytesOf e : Int) ≠ 0)
    let out := (E.act e).filter fun f => decide (scratchAddr e f < 0 ∨ (E.c.scrSize : Int) < scratchAddr e f + bytesOf e)
    let info := fun (l : List Fibre) => (lanesMask l).toNat + 2 ^ 32 * (BitVec.ofInt 32 ((l.head?.map (scratchAddr e)).getD 0)).toNat
    (bad ≠ [] → Answers i s ((takeTrap E s.m (lanesMask (E.act e)) 9 fun _ => info bad).tick E.c.core 1))
    ∧ (bad = [] → out ≠ [] → Answers i s ((takeTrap E s.m (lanesMask (E.act e)) 10 fun _ => info out).tick E.c.core 1))

/-- The lanes that fail one check, by its place in the order of R231 and its trap code, each with the word that it reports. -/
def tripped (l : List (Fibre × LaneRes)) (rank code : Nat) : List (Fibre × Nat) :=
  l.filterMap fun p => match p.2 with
    | .trap r c n => if r = rank ∧ c = code then some (p.1, n) else none
    | _ => none

/-- An instruction whose lanes are checked by `lane`: the earliest check that an active lane fails is the trap of all active
lanes, with nothing of the access done and the mask of the lanes that failed it in %tinfo. -/
def EarliestCheckTraps (named : Env → Enc → Prop) (lane : State → Env → Enc → Fibre → LaneRes) (i : Instr) : Prop :=
  ∀ s E e f rank code n, i.enc = some e → Issues s E → Legal E e → named E e → f ∈ E.act e → lane s E e f = .trap rank code n →
    (∀ q ∈ E.act e, ∀ r c k, lane s E e q = .trap r c k → rank < r ∨ (r = rank ∧ c = code)) → code ≠ 9 → code ≠ 10 →
    Answers i s ((takeTrap E s.m (lanesMask (E.act e)) code fun _ =>
      (lanesMask ((tripped ((E.act e).map fun q => (q, lane s E e q)) rank code).map (·.1))).toNat).tick E.c.core 1)

/-- The checks of LD and ST, of LDN, and of ATOM and ATOMR. -/
def accessLane (store : Bool) (s : State) (E : Env) (e : Enc) (f : Fibre) : LaneRes :=
  s.m.memLane E e.amode e.va (memDisp e) e.vc (memWant e (tyOf e) store false) f

def atomicLane (fetch : Bool) (s : State) (E : Env) (e : Enc) (f : Fibre) : LaneRes :=
  if e.vc / 64 = 2 then scratchLane E.c (f.regs.getD e.va 0).toNat (bytesOf e) (bytesOf e)
  else s.m.deref E.d (E.xOf f) E.cluster f.carry ⟨bytesOf e, 3, bytesOf e, true, false, fetch⟩
    (if e.vc / 64 = 0 then (f.regs.getD e.va 0).toNat else (pair f e.va).toNat) none none

/-- A lane fails a check with a trap. -/
def FailsWith (rank code : Nat) (r : LaneRes) : Prop := ∃ n, r = .trap rank code n

/-- The address checks of R231 in their order, on an address of each kind (R75, R84, R239): form, alignment, bounds, permission. -/
def AddressChecks (m : Mach) (d : Dev) (x : Ctx) (cluster : Nat) (carry : Carry) (w : Want) (a : Nat) : Prop :=
  let got := fun start attr => m.deref d x cluster carry w a attr start
  ∀ start attr,
    (a / 2 ^ 62 % 4 = 0 → a / 2 ^ 57 % 32 ≠ 0 → FailsWith 20 4 (got start attr))
    ∧ (a / 2 ^ 62 % 4 = 0 → a / 2 ^ 57 % 32 = 0 → a % w.align ≠ 0 → FailsWith 30 5 (got start attr))
    ∧ (a / 2 ^ 62 % 4 = 1 → 192 ≤ a / 2 ^ 54 % 256 → FailsWith 20 4 (got start attr))
    ∧ (a / 2 ^ 62 % 4 = 1 → a / 2 ^ 54 % 256 < 192 → m.rkeyOf d x cluster (a / 2 ^ 40 % 2 ^ 14) = .bad → FailsWith 20 4 (got start attr))
    ∧ (a / 2 ^ 62 % 4 = 3 → FailsWith 21 20 (got start attr))
    ∧ (a / 2 ^ 62 % 4 = 2 → (2 ^ x.slotLog ≤ a / 2 ^ 40 % 2 ^ 22 ∨ x.slot (a / 2 ^ 40 % 2 ^ 22) = none) → FailsWith 22 16 (got start attr))
    ∧ ∀ q, a / 2 ^ 62 % 4 = 2 → a / 2 ^ 40 % 2 ^ 22 < 2 ^ x.slotLog → x.slot (a / 2 ^ 40 % 2 ^ 22) = some q →
        (a % w.align ≠ 0 → FailsWith 30 5 (got start attr))
        ∧ (a % w.align = 0 → q.state ≠ 1 → q.size < a % 2 ^ 40 + w.width → FailsWith 40 18 (got start attr))
        ∧ (a % w.align = 0 → q.state ≠ 1 → a % 2 ^ 40 + w.width ≤ q.size → w.access = 2 ∨ w.access = 3 → q.ro = true →
            FailsWith 41 19 (got start attr))

/-- The checks of a buffer record (R167, R168). -/
def RecordChecks (s : State) (E : Env) (amode va n : Nat) (disp : Int) (w : Want) (f : Fibre) (r : Nat) : Prop :=
  let got := s.m.memLane E amode va disp n w f
  let off : Int := (if amode = 2 then ((f.regs.getD va 0).toNat : Int) else 0) + disp
  let out := r / 2 ^ 64 % 2 ^ 41 = 0 ∨ 2 ^ 40 < r / 2 ^ 64 % 2 ^ 41 ∨ off < 0 ∨ ((r / 2 ^ 64 % 2 ^ 41 : Nat) : Int) < off + w.width
  (recordOk r = false → FailsWith 10 6 got)
  ∧ (recordOk r = true → out → FailsWith 11 7 got)
  ∧ (recordOk r = true → ¬ out → w.access = 2 ∨ w.access = 3 → r.testBit 3 = true → FailsWith 12 8 got)

end Sys2Proof.Claims

/-- R75, R84, R105, R167, R168, R231, R363, R376 and R401: a failed check is a trap of all active lanes, with nothing of the
access done. LDS and STS of a lane whose address is not a multiple of the width take SCRATCH_ALIGN (9), and one outside the
crew's scratchpad SCRATCH_BOUNDS (10) where none is misaligned: %tinfo holds the mask of the lanes that failed and the first
one's address. LD, ST, ATOM and ATOMR take the trap of the earliest check that a lane fails: BUFFER_FORM (6), BUFFER_BOUNDS (7)
and BUFFER_READONLY (8) of a record, ADDRESS_FORM (4), POISON (20) and SLOT_UNBOUND (16) of an address, ALIGNMENT (5), the
object's bounds (18) and write permission (19), the chip window (11), TRANSLATION (12) after an ERROR answer, and a memory error
(13). Where BUFFER_READONLY stands in the order is the model's choice (log entry 85). -/
def Obligations.AccessChecksTrap : Prop :=
  wl .ldsW .ldsL ScratchTraps ∧ wl .stsW .stsL ScratchTraps
  ∧ wl .ldW .ldL (EarliestCheckTraps (fun E e => RecordNamed E e.amode e.vc) (accessLane false))
  ∧ wl .stW .stL (EarliestCheckTraps (fun E e => RecordNamed E e.amode e.vc) (accessLane true))
  ∧ wl .atomW .atomL (EarliestCheckTraps (fun _ _ => True) (atomicLane true))
  ∧ wl .atomrW .atomrL (EarliestCheckTraps (fun _ _ => True) (atomicLane false))
  ∧ (∀ (s : State) (E : Env) amode va n disp w f, amode < 2 → s.m.memLane E amode va disp n w f =
      s.m.deref E.d (E.xOf f) E.cluster f.carry w
        ((((if amode = 0 then (f.regs.getD va 0).toNat else (pair f va).toNat : Nat) : Int) + disp) % 2 ^ 64).toNat none none)
  ∧ (∀ (m : Mach) d x cluster carry w a, AddressChecks m d x cluster carry w a)
  ∧ (∀ (s : State) (E : Env) amode va n disp w f r, 2 ≤ amode → s.m.record { E with x := E.xOf f } f.carry.errorPage n = .inl r →
      RecordChecks s E amode va n disp w f r)
  ∧ ∀ (m : Mach) d x cluster w page a cls object attr start size,
      (m.rangeRuns d x cluster a w.width w.access w.engine = .window → FailsWith 51 11 (m.finish d x cluster w page a cls object attr start size))
      ∧ (∀ b c l, m.rangeRuns d x cluster a w.width w.access w.engine = .fault b c l → page = some (b / 4096) →
          FailsWith 50 12 (m.finish d x cluster w page a cls object attr start size))
      ∧ ∀ runs l, m.rangeRuns d x cluster a w.width w.access w.engine = .ok runs → w.noWindow = false → w.access = 1 → w.report = true →
          l ∈ runLocs runs → d.unreadable l = true → FailsWith 52 13 (m.finish d x cluster w page a cls object attr start size)

namespace Sys2Proof.Claims

/-- No copy of a line is held under another key than one. -/
def OneKey (m : Mach) (k : Key) (l : Loc) : Prop := ∀ q ∈ m.l1 ++ m.l2, q.loc.sameLine l = true → q.key = k

/-- The store at the head of a live fibre's queue, which the step names; no lower lane's store is to leave before it. -/
def QueueHead (s : State) (c : Crew) (f : Fibre) (e : StoreEntry) : Prop :=
  s.arg = .storeDrain c.id f.slot ∧ s.m.crew c.id = some c ∧ c.drainer f.slot = some f ∧ f.exited = false
    ∧ f.stores.head? = some e ∧ e.behind = []

/-- A plain store's bytes, each named once; its context owns those on the chip (R115), and its host pages are where they were (R395). -/
def PlainBytes (s : State) (c : Crew) (e : StoreEntry) (cells : List (Loc × Byte)) : Prop :=
  e.kind = .bytes cells ∧ e.release = none ∧ (cells.map (·.1)).Nodup ∧ (∀ q ∈ cells, s.m.owns c.ctx q.1 = true)
    ∧ ∀ p ∈ e.hostAt, s.m.hostFrame (s.m.ctx c.ctx).fn p.2 true = some p.1

/-- The head of the queue has left it. -/
def HeadGone (m : Mach) (c : Crew) (f : Fibre) : Prop := ∃ c', m.crew c.id = some c' ∧ { f with stores := f.stores.tail } ∈ c'.fibres

/-- The live fibre that a register line's byte belongs to has the register. -/
def RegisterThere (m : Mach) (a : Nat) : Prop :=
  ∃ x, (m.crews.find? fun y => y.core == a / 2 ^ 21 && y.slotBase ≤ a % 2 ^ 21 / 1024 && a % 2 ^ 21 / 1024 < y.slotBase + y.limit) = some x
    ∧ (∃ g ∈ x.fibres, g.slot + x.slotBase = a % 2 ^ 21 / 1024 ∧ g.exited = false) ∧ ∀ g ∈ x.fibres, a % 1024 / 4 < g.regs.length

end Sys2Proof.Claims

/-- R115, R121, R122, R125, R157, R395, R407 and R437. STORE_DRAIN performs the store at the head of a fibre's queue: a plain one
is in its core's L1, every byte it names reads as stored there, and every other byte reads as before to every core at every
point; one to the scratchpad, a tile or a register changes those bytes of it and no other. One through a short pointer marks the
slot's bytes written. One to bytes of the chip window that its context owns no more writes nothing, as the model chooses (log
entry 69), and one to a busy tile or to a host page that has moved waits (log entry 81). A release store waits until its release
is done, and is then at home. One across the fabric is in the L1 and on its way to the owner, or waits for an earlier one to its
bytes. REGISTER_RESULT_WRITE writes one pending result of a fibre to its register and takes it from the pending ones. -/
def Obligations.DrainingAndResultWrites : Prop :=
  (∀ s c f e cells, QueueHead s c f e → PlainBytes s c e cells → e.object = none → e.scope ≤ 1 →
    (∀ q ∈ cells, q.1.cached = true ∧ OneKey s.m e.key q.1) →
    ∃ m, Answers .storeDrain s m ∧ HeadGone m c f
      ∧ (∀ q ∈ cells, m.peek c.core 1 e.key q.1 = q.2)
      ∧ (∀ l, l.cached = true → OneKey s.m e.key l → (∀ q ∈ cells, q.1 ≠ l) →
          ∀ core pt, m.peek core pt e.key l = s.m.peek core pt e.key l)
      ∧ (∀ x, x.id ≠ c.id → (x ∈ m.crews ↔ x ∈ s.m.crews))
      ∧ m = { s.m with crews := m.crews, l1 := m.l1, pnames := m.pnames } ∧ (e.name = false → m.pnames = s.m.pnames))
  ∧ (∀ s c f e cells, QueueHead s c f e → PlainBytes s c e cells → e.object = none →
    (∀ q ∈ cells, q.1.space = .scr ∧ ¬ s.m.gauges.contains (q.1.addr / 16 * 16)) → s.m.memoriesWf = true →
    ∃ m, Answers .storeDrain s m ∧ HeadGone m c f ∧ (∀ q ∈ cells, m.scratch.read q.1.addr = q.2)
      ∧ (∀ a, (∀ q ∈ cells, q.1.addr ≠ a) → m.scratch.read a = s.m.scratch.read a)
      ∧ m = { s.m with crews := m.crews, scratch := m.scratch })
  ∧ (∀ s c f e cells, QueueHead s c f e → PlainBytes s c e cells → e.object = none → s.m.memoriesWf = true →
    (∀ q ∈ cells, q.1.space = .acc ∧ s.m.tileBusy (q.1.addr / 2 ^ 16) (q.1.addr % 2 ^ 16 / 0x4000) = false) →
    ∃ m, Answers .storeDrain s m ∧ HeadGone m c f ∧ (∀ q ∈ cells, m.homeRead e.key q.1 = q.2)
      ∧ (∀ l, l.space = .acc → (∀ q ∈ cells, q.1 ≠ l) → m.homeRead e.key l = s.m.homeRead e.key l)
      ∧ m = { s.m with crews := m.crews, accs := m.accs })
  ∧ (∀ s c f e cells, QueueHead s c f e → PlainBytes s c e cells → e.object = none → (∀ x ∈ s.m.crews, x.preempted = false) →
    (∀ q ∈ cells, q.1.space = .reg ∧ RegisterThere s.m q.1.addr) →
    ∃ m, Answers .storeDrain s m ∧ (∀ q ∈ cells, m.regRead q.1.addr = q.2) ∧ m = { s.m with crews := m.crews })
  ∧ (∀ s c f e cells slot off q, QueueHead s c f e → PlainBytes s c e cells → e.scope ≤ 1 → e.object = some (slot, off) →
    (∀ p ∈ cells, p.1.cached = true) → (s.m.ctx c.ctx).slot slot = some q → q.cls ≠ 0 → q.n = slot →
    ∃ m q', Answers .storeDrain s m ∧ HeadGone m c f ∧ (m.ctx c.ctx).slot slot = some q' ∧ q'.dirty = true
      ∧ (∀ k, k ∈ q'.written ↔ k ∈ q.written ∨ (off ≤ k ∧ k < off + cells.length)))
  ∧ (∀ s c f e cells, QueueHead s c f e → e.kind = .bytes cells → e.release = none → (∃ q ∈ cells, s.m.owns c.ctx q.1 = false) →
    Answers .storeDrain s (s.m.updCrew c.id fun c => c.popStore f.slot false))
  ∧ (∀ s c f e cells, QueueHead s c f e → e.kind = .bytes cells → e.release = none → (∀ q ∈ cells, s.m.owns c.ctx q.1 = true) →
    ((∃ p ∈ e.hostAt, s.m.hostFrame (s.m.ctx c.ctx).fn p.2 true ≠ some p.1)
      ∨ ∃ q ∈ cells, q.1.space = .acc ∧ s.m.tileBusy (q.1.addr / 2 ^ 16) (q.1.addr % 2 ^ 16 / 0x4000) = true) →
    Answers .storeDrain s s.m)
  ∧ (∀ s c f e cells stor, QueueHead s c f e → e.kind = .bytes cells → e.release = some stor →
    let r := s.m.release s.dev c.ctx c.core e.scope (stor ||| 2 ^ e.cls.bit) (c.id, f.slot)
    (r.2 = false → Answers .storeDrain s r.1)
    ∧ (r.2 = true → 3 ≤ e.scope → e.object = none → e.hostAt = [] → cells ≠ [] → (cells.map (·.1)).Nodup → (∀ q ∈ cells, q.1.space = .hbm) →
        s.m.memoriesWf = true →
        ∃ m, Answers .storeDrain s m ∧ (∀ q ∈ cells, m.homeRead e.key q.1 = q.2)
          ∧ (∀ q ∈ m.l1, q.unit = c.core → q.dirty = false)
          ∧ ∃ c', m.crew c.id = some c' ∧ { f with stores := (if e.scope = 5 ∧ e.cls = .n
              then [{ e with kind := .bytes [], object := none, behind := [] }] else []) ++ f.stores.tail } ∈ c'.fibres))
  ∧ (∀ s c f e node rkey off data, QueueHead s c f e → e.kind = .fabric node rkey off data → e.release = none →
    (s.m.fabOverlap (c.core / 4) node rkey off data.length = true → Answers .storeDrain s s.m)
    ∧ (s.m.fabOverlap (c.core / 4) node rkey off data.length = false → (∀ k < data.length, OneKey s.m e.key (fabLoc node rkey (off + k))) →
        ∃ m o, Answers .storeDrain s m ∧ HeadGone m c f ∧ m.fabOut.getLast? = some o
          ∧ m.fabOut.map (·.id) = s.m.fabOut.map (·.id) ++ [s.m.nextId]
          ∧ (o.crew, o.slot, o.node, o.rkey, o.off, o.len) = (c.id, f.slot, node, rkey, off, data.length) ∧ o.kind = .store ∧ o.data = data
          ∧ (∀ k b, data[k]? = some b → m.peek c.core 1 e.key (fabLoc node rkey (off + k)) = b)))
  ∧ ∀ s c f k p, s.arg = .registerResultWrite c.id f.slot k → s.m.crew c.id = some c → c.fibre f.slot = some f →
      f.pend[k]? = some p →
      ∃ m c' f', Answers .registerResultWrite s m ∧ OnlyCrews s.m m ∧ m.crew c.id = some c' ∧ c'.fibre f.slot = some f'
        ∧ f'.pend = f.pend.eraseIdx k ∧ f'.stores = f.stores
        ∧ (∀ j, p.dst = .reg j → f' = { f with regs := f.regs.set j p.val, pend := f'.pend })
        ∧ (∀ j, p.dst = .pred j → f' = { f.setPred j (p.val != 0) with pend := f'.pend })

namespace Sys2Proof.Claims

/-- The 16 bytes are a name whose identity word the slot is bound to in the context (R73, R80). -/
def boundTo (x : Ctx) (n : Nat) (q : Slot) : Prop :=
  n.testBit 127 = true ∧ n % 2 ^ 64 / 2 ^ 40 = 0
    ∧ (x.slots.find? fun r => r.state != 0 && r.ident == BitVec.ofNat 64 (n / 2 ^ 64)) = some q

/-- The 16 bytes that STN and PNAME give for an address (R94): of a kind-10 pointer the offset and the bound identity word, of any
other the address itself and 0. -/
def longForm (x : Ctx) (v : Nat) : Nat :=
  if v / 2 ^ 62 % 4 = 2 then
    match x.slots.find? fun q => q.n == v / 2 ^ 40 % 2 ^ 22 && q.state != 0 with
    | some q => v % 2 ^ 40 + 2 ^ 64 * q.ident.toNat
    | none => 0
  else v

/-- The checks of LDN and STN (R237): aligned to 16, not in the chip window, of class memory. -/
def NameChecked (s : State) (E : Env) (e : Enc) (store : Bool) (acc : Fibre → Acc) : Prop :=
  RecordNamed E e.amode e.vc ∧ ∀ f ∈ E.act e,
    s.m.memLane E e.amode e.va (memDisp e) e.vc (memWant e .b128 store true) f = .ok (acc f)

/-- The 16 bytes that a lane of LDN reads (R237). -/
def nameSeen (s : State) (E : Env) (e : Enc) (acc : Fibre → Acc) (f : Fibre) : Nat :=
  leNat ((runLocs (acc f).runs).map (seenAt (raised s.m E e acc) E e.scope f))

/-- A pointer's kind-10 slot is below the slot count and bound (R239). -/
def Bound (x : Ctx) (v : Nat) : Prop := v / 2 ^ 62 % 4 = 2 → v / 2 ^ 40 % 2 ^ 22 < 2 ^ x.slotLog ∧ ∃ q, x.slot (v / 2 ^ 40 % 2 ^ 22) = some q

end Sys2Proof.Claims

/-- R73, R80, R94, R136, R236 and R237. LDN whose lanes read raw addresses gives them as they are, and of names that slots of the
context are bound to it gives short pointers to those slots; one lane's name across the fabric is asked of its owner. STN stores
the long form of its pair. PREF whose lanes take neither of its traps changes nothing and goes on. That an LDN takes its 16
bytes as it issues is the model's choice (log entry 58). -/
def Sys2Proof.Claims.NamesAndPrefetch : Prop :=
  wl .ldnW .ldnL (fun i => ∀ s E e acc, i.enc = some e → Issues s E → Legal E e → NameChecked s E e false acc →
      AllHere E e acc → NoneCounted E →
    (∀ f ∈ E.act e, (nameSeen s E e acc f).testBit 127 = false) →
    ∃ m, Answers i s m ∧ OthersKept s m E (E.act e) ∧ GoesOn m E e ∧ (e.scope ≤ 1 → OnlyCleanLeft s.m m)
      ∧ Delivers E e e.vd 2 (fun f => nameSeen s E e acc f % 2 ^ 64) m)
  ∧ wl .ldnW .ldnL (fun i => ∀ s E e acc (q : Fibre → Slot), i.enc = some e → Issues s E → Legal E e → NameChecked s E e false acc →
      AllHere E e acc → NoneCounted E →
      (E.x.slots.map (·.n)).Nodup → (∀ f ∈ E.act e, boundTo E.x (nameSeen s E e acc f) (q f)) →
      ∃ m, Answers i s m ∧ OthersKept s m E (E.act e) ∧ GoesOn m E e ∧ (e.scope ≤ 1 → OnlyCleanLeft s.m m)
        ∧ Delivers E e e.vd 2 (fun f => 2 ^ 63 + 2 ^ 40 * (q f).n + nameSeen s E e acc f % 2 ^ 64) m)
  ∧ wl .ldnW .ldnL (AsksTheOwner (fun e => memWant e .b128 false true) (fun _ => 31) fun _ => 16)
  ∧ wl .stnW .stnL (fun i => ∀ s E e acc, i.enc = some e → Issues s E → Legal E e → NameChecked s E e true acc → NoneCounted E →
      (∀ f ∈ E.act e, (pair f e.vd).toNat / 2 ^ 62 ≠ 3 ∧ Bound E.x (pair f e.vd).toNat) →
      ∃ m, Answers i s m ∧ OthersKept s m E (E.act e) ∧ GoesOn m E e ∧ MemoryKept s.m m
        ∧ Queues E e (queuedStore E e acc true fun q => leBytes 16 (longForm E.x (pair q e.vd).toNat)) m)
  ∧ wl .prefW .prefL fun i => ∀ s E e, i.enc = some e → Issues s E → Legal E e → RecordNamed E e.amode e.vc → NoneCounted E →
      (∀ f ∈ E.act e, ∃ a, prefLane s.m E e f = .ok a) →
      ∃ m, Answers i s m ∧ OthersKept s m E (E.act e) ∧ GoesOn m E e ∧ MemoryKept s.m m
        ∧ ∀ f ∈ E.act e, LaneAfter m E f { f with carry := ⟨none, none⟩ }

namespace Sys2Proof.Claims

/-- The size of the object of a kind-10 pointer is known (R92). -/
def SizeKnown (x : Ctx) (v : Nat) : Prop := v / 2 ^ 62 % 4 = 2 →
  v / 2 ^ 40 % 2 ^ 22 < 2 ^ x.slotLog ∧ ∃ q, x.slot (v / 2 ^ 40 % 2 ^ 22) = some q ∧ q.state ≠ 1

def sizeOfPtr (x : Ctx) (v : Nat) : Nat := ((x.slot (v / 2 ^ 40 % 2 ^ 22)).map (·.size)).getD 0

/-- The displacement of PADD (R238): the pair, or the immediate sign-extended. -/
def displacement (e : Enc) (f : Fibre) : Int :=
  if e.isL then (BitVec.ofNat 32 e.lit).toInt else if e.ib then (BitVec.ofNat 8 e.vb).toInt else (pair f e.vb).toInt

/-- PADD (R92): kind 00 adds in its 57 bits, kind 01 in its 40-bit offset; kind 10 gives a kind-10 pointer where the sum lies in
the object or just past its end, and else a poisoned one; kind 11 stays poisoned. -/
def advanced (x : Ctx) (v : Nat) (d : Int) : Nat :=
  let kind := v / 2 ^ 62 % 4
  let off : Int := ((v % 2 ^ 40 : Nat) : Int) + d
  if kind = 0 then v / 2 ^ 57 * 2 ^ 57 + ((((v % 2 ^ 57 : Nat) : Int) + d) % 2 ^ 57).toNat
  else if kind = 1 then v / 2 ^ 40 * 2 ^ 40 + (off % 2 ^ 40).toNat
  else
    let k := if kind = 2 ∧ 0 ≤ off ∧ off ≤ (sizeOfPtr x v : Int) then 2 else 3
    k * 2 ^ 62 + v % 2 ^ 62 / 2 ^ 40 * 2 ^ 40 + (off % 2 ^ 40).toNat

/-- One object for both pointers of a difference (R92). -/
def sameObject (u v : Nat) : Bool :=
  u / 2 ^ 62 % 4 == 2 && v / 2 ^ 62 % 4 == 2 && u / 2 ^ 40 % 2 ^ 22 == v / 2 ^ 40 % 2 ^ 22

/-- Whether the copy of a pointer's object is there, of a large object the extent that the offset lies in, also while another of its
extents is being fetched (R92). -/
def resident (x : Ctx) (v : Nat) : Bool :=
  if v / 2 ^ 62 % 4 = 2 then
    match x.slot (v / 2 ^ 40 % 2 ^ 22) with
    | some q =>
      if q.large then (q.state == 3 || q.state == 4) && q.extents.any fun w => w.1 == v % 2 ^ 40 / 2 ^ 21 else q.state == 4
    | none => false
  else v / 2 ^ 62 % 4 != 3

/-- A predicate as a long-latency result in each active lane. -/
def DeliversPred (E : Env) (e : Enc) (k : Nat) (v : Fibre → Bool) (m : Mach) : Prop :=
  ∃ stamp, ∀ f ∈ E.act e, ∃ f', LaneAfter m E f f'
    ∧ f' = { f with pend := f.pend ++ [⟨.pred k, if v f then 1 else 0, false, stamp⟩], carry := f'.carry }

def ptr (e : Enc) (f : Fibre) : Nat := (pair f e.va).toNat

end Sys2Proof.Claims

/-- R92, R238 and R239: the pointer instructions. Their results are long-latency, no memory changes, and no other lane. That PADD to
an offset of exactly 2^40 leaves 0 in the offset field is the model's choice (log entry 19). -/
def Sys2Proof.Claims.PointerInstructions : Prop :=
  (∀ w s E e, (Instr.peq w).enc = some e → Issues s E → Legal E e →
    ∃ m, Answers (.peq w) s m ∧ OnlyCrews s.m m ∧ OthersKept s m E (E.act e) ∧ GoesOn m E e
      ∧ DeliversPred E e e.vd (fun f => ptr e f == (pair f e.vb).toNat && ptr e f / 2 ^ 62 % 4 != 3) m)
  ∧ wl .paddW .paddL (fun i => ∀ s E e, i.enc = some e → Issues s E → Legal E e → NoneCounted E →
      (∀ f ∈ E.act e, SizeKnown E.x (ptr e f)) →
      ∃ m, Answers i s m ∧ OthersKept s m E (E.act e) ∧ GoesOn m E e ∧ MemoryKept s.m m
        ∧ Delivers E e e.vd 2 (fun f => advanced E.x (ptr e f) (displacement e f)) m)
  ∧ (∀ w s E e, (Instr.pdiff w).enc = some e → Issues s E → Legal E e →
    ∃ m, Answers (.pdiff w) s m ∧ OnlyCrews s.m m ∧ OthersKept s m E (E.act e) ∧ GoesOn m E e
      ∧ ∃ k, ∀ f ∈ E.act e, LaneAfter m E f
          { f with pend := f.pend ++ results e.vd 2 (if sameObject (ptr e f) (pair f e.vb).toNat
              then (BitVec.ofInt 64 (((ptr e f % 2 ^ 40 : Nat) : Int) - ((pair f e.vb).toNat % 2 ^ 40 : Nat))).toNat else 0) k false
            ++ [⟨.pred e.vc, if sameObject (ptr e f) (pair f e.vb).toNat then 1 else 0, false, k⟩] })
  ∧ (∀ w s E e, (Instr.pname w).enc = some e → Issues s E → Legal E e → NoneCounted E →
      (∀ f ∈ E.act e, ptr e f / 2 ^ 62 % 4 ≠ 3 ∧ Bound E.x (ptr e f)) →
      ∃ m, Answers (.pname w) s m ∧ OthersKept s m E (E.act e) ∧ GoesOn m E e ∧ MemoryKept s.m m
        ∧ Delivers E e e.vd 4 (fun f => longForm E.x (ptr e f)) m)
  ∧ (∀ w s E e, (Instr.psize w).enc = some e → Issues s E → Legal E e → NoneCounted E →
      (∀ f ∈ E.act e, ptr e f / 2 ^ 62 % 4 ≠ 3 ∧ SizeKnown E.x (ptr e f)) →
      ∃ m, Answers (.psize w) s m ∧ OthersKept s m E (E.act e) ∧ GoesOn m E e ∧ MemoryKept s.m m
        ∧ Delivers E e e.vd 2 (fun f => if ptr e f / 2 ^ 62 % 4 = 2 then sizeOfPtr E.x (ptr e f) else 2 ^ 64 - 1) m)
  ∧ ∀ w s E e, (Instr.pres w).enc = some e → Issues s E → Legal E e → NoneCounted E →
      (∀ f ∈ E.act e, Bound E.x (ptr e f)) →
      ∃ m, Answers (.pres w) s m ∧ OthersKept s m E (E.act e) ∧ GoesOn m E e ∧ (e.mods = 0 → MemoryKept s.m m)
        ∧ DeliversPred E e e.vd (fun f => resident E.x (ptr e f)) m

/-- R73, R80, R94, R136, R236 and R237. LDN whose lanes read raw addresses gives them as they are, and of names that slots of the
context are bound to it gives short pointers to those slots; one lane's name across the fabric is asked of its owner. STN stores
the long form of its pair. PREF whose lanes take neither of its traps changes nothing and goes on. That an LDN takes its 16 bytes
as it issues is the model's choice (log entry 58). R92, R238 and R239: the pointer instructions. Their results are long-latency,
no memory changes, and no other lane. That PADD to an offset of exactly 2^40 leaves 0 in the offset field is the model's choice
(log entry 19). -/
def Obligations.NamesAndPointers : Prop := NamesAndPrefetch ∧ PointerInstructions

namespace Sys2Proof.Claims

/-! ### Atomics, fences, gauges and copies -/

/-- A bit pattern of a type as an integer (R177). -/
def extOf (t : ETy) (v : Nat) : Int := if t.signed then (BitVec.ofNat t.bits v).toInt else (v : Int)

/-- The new value of each atomic operation but fadd (R241). -/
def newValue (op : Nat) (t : ETy) (old y expected : Nat) : Nat :=
  match op with
  | 0 => (BitVec.ofNat t.bits old + BitVec.ofNat t.bits y).toNat
  | 1 => (BitVec.ofNat t.bits old - BitVec.ofNat t.bits y).toNat
  | 2 => if extOf t old ≤ extOf t y then old else y
  | 3 => if extOf t y ≤ extOf t old then old else y
  | 4 => old &&& y
  | 5 => old ||| y
  | 6 => old ^^^ y
  | 7 => y
  | 8 => if old = expected then y else old
  | 9 => if y ≤ old then 0 else old + 1
  | _ => chosen (fmtOf t) true old y

/-- An operand of n registers as one value. -/
def regsOf (f : Fibre) (k n : Nat) : Nat := if n = 2 then (pair f k).toNat else (f.regs.getD k 0).toNat

/-- A lane's operand and, for cas, its expected value (R240). -/
def atomOperand (e : Enc) (f : Fibre) : Nat × Nat :=
  if e.m 57 54 = 8 then (regsOf f (e.vb + (tyOf e).regs) (tyOf e).regs, regsOf f e.vb (tyOf e).regs) else ((opB e f).toNat, 0)

/-- What an atomic of one lane reads at the point of its scope (R130), host memory at its own place. -/
def oldValue (s : State) (E : Env) (e : Enc) (f : Fibre) (acc : Acc) : Nat :=
  let sc := if acc.cls = .h then 5 else e.m 51 49
  leNat ((runLocs acc.runs).map
    (((s.m.touchSlots E.x.addr [(f, acc)]).raiseAll E.c.core sc acc.cls (runLocs acc.runs)).peek E.c.core
      (if sc ≤ 1 then 1 else if sc = 2 then 2 else 3) E.key))

/-- The value that one lane's atomic leaves. -/
def leaves (e : Enc) (f : Fibre) (old : Nat) : Nat :=
  if e.m 57 54 = 10 then
    ((fmtOf (tyOf e)).round ⟨0, false, false⟩
      (Machine.Num.add false ((fmtOf (tyOf e)).decode old) ((fmtOf (tyOf e)).decode (atomOperand e f).1)) 0).1
  else newValue (e.m 57 54) (tyOf e) old (atomOperand e f).1 (atomOperand e f).2

/-- An atomic of a gang with one active lane, whose word is in memory or the scratchpad and which has no release to make. It
completes; ATOM delivers the old value; no other lane changes; a word of the scratchpad, and a cached word at scope crew, holds
the new value and every other byte reads as it did once the clean copies of the word's lines that another class brought in have
gone (R126). -/
def AtomicOfOneLane (fetch : Bool) (i : Instr) : Prop :=
  ∀ s E e f acc, i.enc = some e → Issues s E → Legal E e → QueuesEmpty E → NoneCounted E → E.act e = [f] →
    atomicLane fetch s E e f = .ok acc → acc.fab = none → (e.m 53 52 < 2 ∨ e.m 51 49 = 1) → (runLocs acc.runs).Nodup →
    ∃ m, Answers i s m ∧ OthersKept s m E [f] ∧ GoesOn m E e
      ∧ (fetch = true → Delivers E e e.vd (tyOf e).regs (fun _ => oldValue s E e f acc) m)
      ∧ (fetch = false → LaneAfter m E f { f with carry := ⟨none, none⟩ })
      ∧ ((∀ l ∈ runLocs acc.runs, l.space = .scr ∧ ¬ s.m.gauges.contains (l.addr / 16 * 16)) → acc.object = none →
          s.m.memoriesWf = true → e.m 51 49 = 1 →
          (runLocs acc.runs).map (fun l => m.scratch.read l.addr) = leBytes (bytesOf e) (leaves e f (oldValue s E e f acc))
          ∧ (∀ a, (∀ l ∈ runLocs acc.runs, l.addr ≠ a) → m.scratch.read a = s.m.scratch.read a)
          ∧ m = { s.m with
              crews := m.crews, ctxs := m.ctxs, clocks := m.clocks, nextId := m.nextId, scratch := m.scratch })
      ∧ ((∀ l ∈ runLocs acc.runs, l.cached = true ∧ OneKey s.m E.key l) → acc.object = none → acc.cls ≠ .h → e.m 51 49 = 1 →
          (runLocs acc.runs).map (m.peek E.c.core 1 E.key) = leBytes (bytesOf e) (leaves e f (oldValue s E e f acc))
          ∧ (∀ l, l.cached = true → OneKey s.m E.key l → l ∉ runLocs acc.runs →
              ∀ core pt, m.peek core pt E.key l = (s.m.raiseAll E.c.core 1 acc.cls (runLocs acc.runs)).peek core pt E.key l)
          ∧ m.l2 = (s.m.raiseAll E.c.core 1 acc.cls (runLocs acc.runs)).l2
          ∧ m = { s.m with crews := m.crews, ctxs := m.ctxs, clocks := m.clocks, nextId := m.nextId, l1 := m.l1, l2 := m.l2 })

/-- The request of one lane's atomic (R415), with the scopes of its acquire. -/
def atomicRequest (fetch : Bool) (e : Enc) (f : Fibre) : OutKind :=
  .atomic fetch (e.m 57 54) e.tyCode [(f.slot, atomOperand e f)] e.vd e.s
    (if e.m 53 52 = 1 then some (e.m 51 49, e.vc % 64 ||| 16) else none)

/-- An atomic of a gang with one active lane, whose word lies across the fabric, and which has no release to make (R242, R407, R415): it
waits while an earlier write of its cluster to the word is not acknowledged; else the request goes to the owner, and the
core's copies of the word's lines are gone. An ATOM waits for the old value; after an ATOMR the gang goes on. -/
def AtomicAcross (fetch : Bool) (i : Instr) : Prop :=
  ∀ s E e f acc p, i.enc = some e → Issues s E → Legal E e → QueuesEmpty E → NoneCounted E → E.act e = [f] →
    atomicLane fetch s E e f = .ok acc → acc.fab = some p → e.m 53 52 < 2 →
    (s.m.fabOverlap E.cluster p.1 p.2.1 p.2.2 (bytesOf e) = true → Answers i s (s.m.stall E.c.id E.g.id))
    ∧ (s.m.fabOverlap E.cluster p.1 p.2.1 p.2.2 (bytesOf e) = false →
        ∃ m o, Answers i s m ∧ m.fabOut.getLast? = some o ∧ o.kind = atomicRequest fetch e f
          ∧ (fetch = true → Asks s E f p (bytesOf e) (atomicRequest fetch e f) m)
          ∧ (fetch = false → OthersKept s m E [f] ∧ GoesOn m E e ∧ LaneAfter m E f { f with carry := ⟨none, none⟩ }
              ∧ m.fabOut.map (·.id) = s.m.fabOut.map (·.id) ++ [s.m.nextId]
              ∧ (o.crew, o.slot, o.node, o.rkey, o.off, o.len) = (E.c.id, f.slot, p.1, p.2.1, p.2.2, bytesOf e))
          ∧ ∀ q ∈ m.l1, q.unit = E.c.core → ∀ k < bytesOf e, q.loc.sameLine (fabLoc p.1 p.2.1 (p.2.2 + k)) = false)

end Sys2Proof.Claims

/-- R130, R240 to R242, R407 and R415: ATOM and ATOMR of a gang with one active lane complete; ATOM delivers the old value; the word holds
the operation's result and no other byte changes. One across the fabric goes to the word's owner. -/
def Sys2Proof.Claims.AtomicsReadModifyWrite : Prop :=
  wl .atomW .atomL (AtomicOfOneLane true) ∧ wl .atomrW .atomrL (AtomicOfOneLane false)
  ∧ wl .atomW .atomL (AtomicAcross true) ∧ wl .atomrW .atomrL (AtomicAcross false)

/-- R131: several lanes' atomics on one word act one after another in the lanes' order, each fetching what the lanes below it
left; fadd keeps the exact sum and rounds each value once. That the first lane of a fetched fadd gets the word's old bits
unchanged is the model's choice (log entry 19). -/
def Sys2Proof.Claims.LanesOnOneWordActInOrder : Prop :=
  (∀ op t old (l : List (Nat × Nat)), op ≠ 10 → op < 12 → (op = 11 → t = .f32 ∨ t = .f64) → old < 2 ^ t.bits → (∀ q ∈ l, q.1 < 2 ^ t.bits) →
    (atomSeq op t old l).1.length = l.length
    ∧ (∀ k < l.length, (atomSeq op t old l).1[k]? = some ((l.take k).foldl (fun v q => newValue op t v q.1 q.2) old))
    ∧ (atomSeq op t old l).2 = l.foldl (fun v q => newValue op t v q.1 q.2) old)
  ∧ ∀ t old (l : List (Nat × Nat)), t = .f32 ∨ t = .f64 →
      let sum := fun k => (l.take k).foldl (fun v q => Machine.Num.add false v ((fmtOf t).decode q.1)) ((fmtOf t).decode old)
      let rounded := fun k => if k = 0 then old else ((fmtOf t).round ⟨0, false, false⟩ (sum k) 0).1
      (atomSeq 10 t old l).1.length = l.length ∧ (∀ k < l.length, (atomSeq 10 t old l).1[k]? = some (rounded k))
      ∧ (atomSeq 10 t old l).2 = rounded l.length

/-- R130, R240 to R242, R407 and R415: ATOM and ATOMR of a gang with one active lane complete; ATOM delivers the old value; the
word holds the operation's result and no other byte changes. One across the fabric goes to the word's owner. R131: several lanes'
atomics on one word act one after another in the lanes' order, each fetching what the lanes below it left; fadd keeps the exact
sum and rounds each value once. That the first lane of a fetched fadd gets the word's old bits unchanged is the model's choice
(log entry 19). -/
def Obligations.Atomics : Prop := AtomicsReadModifyWrite ∧ LanesOnOneWordActInOrder

namespace Sys2Proof.Claims

/-- No error of an earlier fabric write is recorded against an active lane (R138). -/
def NoFabricErrors (E : Env) (e : Enc) : Prop := ∀ f ∈ E.act e, f.fabErrs = 0

/-- Nothing across the fabric is owed where a fence asks for it: no request is out for a release at bas or above (R120, R125); at sys
neither a request nor a recorded error, nor bytes of a resident copy of the function that its home lacks (R96, R136, R138). -/
def NothingOwed (s : State) (E : Env) (e : Enc) (release : Bool) : Prop :=
  (release = true → 3 ≤ e.m 53 51 → s.m.fabOut = [])
  ∧ (e.m 53 51 = 5 → s.m.fabOut = [] ∧ NoFabricErrors E e
      ∧ ∀ x ∈ s.m.ctxs, x.fn = E.x.fn → ∀ q ∈ x.slots, q.written = [] ∨ q.cls = 0)

/-- The acquire of a fence (R126): the clean copies below the point, of the classes named, are gone, but in the L2 slice those of
fabric bytes that a write of the cluster is taking to their owner; with F what loads of the cluster still bring in is kept in no
cache. -/
def acquired (m : Mach) (E : Env) (scope stor : Nat) : Mach :=
  { m with
    fabOut := if storHas stor .f && decide (2 ≤ scope) then m.fabOut.map fun o => if o.core / 4 = E.c.core / 4 then { o with fill := 0 } else o
      else m.fabOut
    l1 := if scope ≤ 1 then m.l1 else m.l1.filter fun q => !(q.unit == E.c.core && !q.dirty && storHas stor q.cls)
    l2 := if scope ≤ 2 then m.l2
      else m.l2.filter fun q => !(q.unit == E.c.core / 4 && !q.dirty && !m.onItsWay q.unit q.loc && storHas stor q.cls) }

def nextInstr (m : Mach) (E : Env) (e : Enc) : Mach := (m.updCrew E.c.id fun c => c.advance E.g.id e).tick E.c.core 1

/-- The bytes of class P not yet in the persistence domain (R139). -/
def AllDurable (m : Mach) : Prop := ∀ a, m.pmem.read a = m.durable.read a

end Sys2Proof.Claims

/-- R125, R126, R134, R138 and R139, with the model's choice of what a release writes back, every dirty copy below its point (log
entry 13), and of what it waits for, the writes of its whole function (log entry 65); R125 asks for less. A fence completes once
the release that it makes is done and none of its lanes' fabric writes is owed: a release leaves no dirty copy below its point,
an acquire no clean one of the classes named. XFENCE waits besides for the engine operations that its lanes posted on its first
path. PFENCE with everything durable goes on. -/
def Obligations.FencesOrder : Prop :=
  (∀ w s E e, (Instr.fence w).enc = some e → Issues s E → Legal E e → E.act e ≠ [] → QueuesEmpty E →
    NothingOwed s E e (decide (2 ≤ e.m 55 54)) →
    ∃ m, Answers (.fence w) s
        (nextInstr (if e.m 55 54 % 2 = 1 then acquired m E (e.m 53 51) (e.vc % 64) else m) E e)
      ∧ m = (if 2 ≤ e.m 55 54 then s.m.writeBack E.c.core (e.m 53 51) else s.m))
  ∧ (∀ w s E e, (Instr.xfence w).enc = some e → Issues s E → Legal E e → E.act e ≠ [] → QueuesEmpty E →
    NothingOwed s E e (decide (e.m 62 60 = 0)) →
    (e.m 62 60 ≠ 0 → s.m.pathBusy E.c (e.m 62 60) ((E.act e).map (·.slot)) = false →
      Answers (.xfence w) s (nextInstr (if e.m 59 57 = 0 then acquired s.m E 5 (e.vc % 64) else s.m) E e))
    ∧ (e.m 62 60 = 0 →
      Answers (.xfence w) s (nextInstr ((s.m.writeBack E.c.core (e.m 53 51)).writeBack E.c.core 4) E e)))
  ∧ (cw .pfenceC .pfenceW fun i => ∀ s E e, i.enc = some e → Issues s E → Legal E e → E.act e ≠ [] → QueuesEmpty E →
    s.m.persist = [] → s.m.l1 = [] → s.m.l2 = [] → AllDurable s.m →
    Answers i s (nextInstr s.m E e))
  ∧ (∀ (m : Mach) core scope, 2 ≤ scope → ∀ q ∈ (m.writeBack core scope).l1, q.unit = core → q.dirty = false)
  ∧ ∀ (m : Mach) core scope stor, 2 ≤ scope → ∀ q ∈ (m.discard core scope stor).l1, q.unit = core → storHas stor q.cls = true →
      q.dirty = true

namespace Sys2Proof.Claims

/-- The first scratchpad address of the gauge that a lane names (R257), by core. -/
def gaugePlace (E : Env) (f : Fibre) (k : Nat) : Nat := E.c.core * 2 ^ 18 + E.c.scrBase + (f.regs.getD k 0).toNat

/-- One lane is active and names a gauge of its crew's scratchpad. -/
def OneGauge (s : State) (E : Env) (e : Enc) (f : Fibre) : Prop :=
  Issues s E ∧ Legal E e ∧ E.act e = [f] ∧ QueuesEmpty E ∧ NoneCounted E ∧ InScratch E ((f.regs.getD e.va 0).toNat : Int) 16
    ∧ s.m.memoriesWf = true

/-- From a machine on, the gauge at a place has changed to `g`, and no other byte of the scratchpad, nor anything but the list of
gauges. -/
def GaugeBecomes (s : State) (base : Mach) (E : Env) (e : Enc) (f : Fibre) (g : Gauge) (m : Mach) : Prop :=
  m.gauge (gaugePlace E f e.va) = g
    ∧ (∀ a, (a < gaugePlace E f e.va ∨ gaugePlace E f e.va + 16 ≤ a) → m.scratch.read a = base.scratch.read a)
    ∧ m = { base with crews := m.crews, clocks := m.clocks, scratch := m.scratch, gauges := m.gauges }
    ∧ OthersKept s m E [f] ∧ GoesOn m E e ∧ LaneAfter m E f { f with carry := ⟨none, none⟩ }

/-- Completion of a phase (R110). -/
def completes (g : Gauge) : Gauge :=
  if g.target ≠ 0 ∧ g.target ≤ g.count then
    { g with ovr := g.ovr || decide (g.target < g.count), gen := (g.gen + 1) % 2 ^ 32, count := 0, target := g.reload }
  else g

def arrives (g : Gauge) (k : Nat) : Gauge := completes { g with count := (g.count + k) % 2 ^ 32 }

def expects (g : Gauge) (k : Nat) : Gauge :=
  completes (if 0xFFFFFFFF < g.target + k then { g with target := 0xFFFFFFFF, ovr := true } else { g with target := g.target + k })

/-- The machine after the release that GARRIVE makes first, at dev with SGN (R133, R258): its core's and cluster's dirty copies at
home. -/
def releasedAtDev (s : State) (E : Env) : Mach := s.m.writeBack E.c.core 4

/-- A gauge instruction of several lanes: each gauge has taken the events of the lanes that name it, in their order. -/
def EventsInOrder (valid : Bool) (event : Enc → Fibre → Gauge → Gauge) (base : State → Env → Mach) (i : Instr) : Prop :=
  ∀ s E e, i.enc = some e → Issues s E → Legal E e → QueuesEmpty E → NoneCounted E → s.m.memoriesWf = true →
    (∀ f ∈ E.act e, InScratch E ((f.regs.getD e.va 0).toNat : Int) 16) → E.act e ≠ [] →
    (valid = true → ∀ f ∈ E.act e, (s.m.gauge (gaugePlace E f e.va)).valid = true) →
    ∃ m, Answers i s m ∧ OthersKept s m E (E.act e) ∧ GoesOn m E e
      ∧ ∀ f ∈ E.act e, m.gauge (gaugePlace E f e.va) =
          ((E.act e).filter fun q => decide (gaugePlace E q e.va = gaugePlace E f e.va)).foldl (fun g q => event e q g)
            (s.m.gauge (gaugePlace E f e.va))

/-- The checks of a gauge instruction (R105, R113, R258): its 16 bytes aligned, then inside the crew's scratchpad, then, where it asks
for that, valid. -/
def GaugeTraps (valid : Bool) (base : State → Env → Mach) (i : Instr) : Prop :=
  ∀ s E e, i.enc = some e → Issues s E → Legal E e → QueuesEmpty E →
    (∀ ws ended bad, E.g.wake = .gauge ws ended bad → ended = false ∧ bad = []) →
    let at_ := fun (f : Fibre) => (f.regs.getD e.va 0).toNat
    let misaligned := (E.act e).filter fun f => decide (at_ f % 16 ≠ 0)
    let out := (E.act e).filter fun f => decide (E.c.scrSize < at_ f + 16)
    let dead := (E.act e).filter fun f => !((base s E).gauge (gaugePlace E f e.va)).valid
    let info := fun (l : List Fibre) => (lanesMask l).toNat + 2 ^ 32 * ((l.head?.map at_).getD 0)
    (misaligned ≠ [] → Answers i s (takeTrap E (base s E) (lanesMask (E.act e)) 9 fun _ => info misaligned))
    ∧ (misaligned = [] → out ≠ [] → Answers i s (takeTrap E (base s E) (lanesMask (E.act e)) 10 fun _ => info out))
    ∧ (valid = true → misaligned = [] → out = [] → dead ≠ [] →
        Answers i s (takeTrap E (base s E) (lanesMask (E.act e)) 26 fun _ => (lanesMask dead).toNat))

def asItIs (s : State) (_ : Env) : Mach := s.m

end Sys2Proof.Claims

/-- R105, R109, R110, R112, R113, R133, R257 and R258: the gauge instructions, on gauges of the crew's scratchpad. GINIT gives a
gauge its target and unit; GARRIVE, after a release at dev, and GEXPECT apply their event, of several lanes one after another;
GWAIT goes on where the gauge has reached the generation, and waits where it has not; what the gauge shows after any later step
ends the wait, whatever becomes of the gauge then, and one that a lane's gauge was lost to is its trap; GREAD delivers the words;
GFREE leaves 0, and nothing changes on a gauge that is not valid. A misplaced gauge is SCRATCH_ALIGN or SCRATCH_BOUNDS, and one
that is not valid GAUGE_INVALID (26). That the events act on any slot whose valid bit is 1 is the model's reading (log entry 24).
-/
def Obligations.GaugesCountEvents : Prop :=
  wl .ginitW .ginitL (fun i => ∀ s E e f, i.enc = some e → OneGauge s E e f →
    ∃ m, Answers i s m ∧ GaugeBecomes s s.m E e f
      ⟨true, e.mb 49, false, false, b32At e f % 2 ^ 24, 0, 0, b32At e f % 2 ^ 24⟩ m)
  ∧ wl .garriveW .garriveL (fun i => ∀ s E e f, i.enc = some e → OneGauge s E e f → (s.m.gauge (gaugePlace E f e.va)).valid = true →
      ∃ m, Answers i s m ∧ GaugeBecomes s (releasedAtDev s E) E e f (arrives (s.m.gauge (gaugePlace E f e.va)) (b32At e f)) m)
  ∧ wl .gexpectW .gexpectL (fun i => ∀ s E e f, i.enc = some e → OneGauge s E e f → (s.m.gauge (gaugePlace E f e.va)).valid = true →
      ∃ m, Answers i s m ∧ GaugeBecomes s s.m E e f (expects (s.m.gauge (gaugePlace E f e.va)) (b32At e f)) m)
  ∧ (∀ w s E e f, (Instr.gwait w).enc = some e → OneGauge s E e f → (s.m.gauge (gaugePlace E f e.va)).valid = true →
      ((∀ ws ended bad, E.g.wake = .gauge ws ended bad → ended = false ∧ bad = []) →
        (0 ≤ (BitVec.ofNat 32 (s.m.gauge (gaugePlace E f e.va)).gen - BitVec.ofNat 32 (b32At e f)).toInt →
          ∃ m, Answers (.gwait w) s m ∧ m.scratch = s.m.scratch ∧ GoesOn m E e ∧ OthersKept s m E [f])
        ∧ ((BitVec.ofNat 32 (s.m.gauge (gaugePlace E f e.va)).gen - BitVec.ofNat 32 (b32At e f)).toInt < 0 → E.g.mask ≠ 0 →
          ∃ m c g, Answers (.gwait w) s m ∧ m.scratch = s.m.scratch ∧ m.crew E.c.id = some c ∧ c.gang E.g.id = some g
            ∧ g = { E.g with state := .held true, wake := .gauge [(f.slot, gaugePlace E f e.va, b32At e f)] false [] })))
  ∧ (∀ w s E e ws, (Instr.gwait w).enc = some e → Issues s E → Legal E e → E.g.wake = .gauge ws true [] →
      ∃ m, Answers (.gwait w) s m ∧ m.scratch = s.m.scratch ∧ GoesOn m E e ∧ OthersKept s m E [])
  ∧ (∀ (m : Mach) ws, (∀ p ∈ ws, (m.gauge p.2.1).valid = true ∧ (m.gauge p.2.1).reached p.2.2 = true) →
      m.lookGauges (.gauge ws false []) = .gauge ws true [])
  ∧ (∀ (m : Mach) ws bad, m.lookGauges (.gauge ws true bad) = .gauge ws true bad)
  ∧ (∀ w s E e f, (Instr.gread w).enc = some e → OneGauge s E e f →
      ∃ m, Answers (.gread w) s m ∧ OnlyCrews s.m m ∧ OthersKept s m E [f] ∧ GoesOn m E e
        ∧ Delivers E e e.vd (if e.m 50 49 = 3 then 4 else 1)
            (fun f => match e.m 50 49 with
              | 0 => (s.m.gauge (gaugePlace E f e.va)).gen
              | 1 => (s.m.gauge (gaugePlace E f e.va)).count
              | 2 => (s.m.gauge (gaugePlace E f e.va)).target
              | _ => leNat ((List.range 16).map fun k => s.m.scratch.read (gaugePlace E f e.va + k))) m)
  ∧ (∀ w s E e f, (Instr.gfree w).enc = some e → OneGauge s E e f → (s.m.gauge (gaugePlace E f e.va)).valid = true →
      ∃ m, Answers (.gfree w) s m ∧ GaugeBecomes s s.m E e f ⟨false, false, false, false, 0, 0, 0, 0⟩ m
        ∧ ¬ m.gauges.contains (gaugePlace E f e.va))
  ∧ (∀ w s E e f, (Instr.gfree w).enc = some e → OneGauge s E e f → (s.m.gauge (gaugePlace E f e.va)).valid = false →
      ∃ m, Answers (.gfree w) s m ∧ MemoryKept s.m m ∧ OthersKept s m E [f] ∧ GoesOn m E e)
  ∧ wl .ginitW .ginitL (EventsInOrder false
      (fun e f _ => ⟨true, e.mb 49, false, false, b32At e f % 2 ^ 24, 0, 0, b32At e f % 2 ^ 24⟩) asItIs)
  ∧ wl .garriveW .garriveL (EventsInOrder true (fun e f g => arrives g (b32At e f)) releasedAtDev)
  ∧ wl .gexpectW .gexpectL (EventsInOrder true (fun e f g => expects g (b32At e f)) asItIs)
  ∧ wl .ginitW .ginitL (GaugeTraps false asItIs) ∧ wl .garriveW .garriveL (GaugeTraps true releasedAtDev)
  ∧ wl .gexpectW .gexpectL (GaugeTraps true asItIs) ∧ (∀ w, GaugeTraps true asItIs (.gwait w)) ∧ (∀ w, GaugeTraps false asItIs (.gread w))
  ∧ (∀ w, GaugeTraps false asItIs (.gfree w))
  ∧ ∀ w s E e ws bad, (Instr.gwait w).enc = some e → Issues s E → Legal E e → E.g.wake = .gauge ws false bad → bad ≠ [] →
      Answers (.gwait w) s (takeTrap E s.m (lanesMask (E.act e)) 26 fun _ =>
        (lanesMask ((E.act e).filter fun f => bad.contains f.slot)).toNat)

namespace Sys2Proof.Claims

/-- A lane's CPA: where the bytes go in the crew's scratchpad, how many, and its gauge (R245, R246). -/
def copySize (e : Enc) : Nat := 4 * 2 ^ e.m 62 60

/-- The copies that a CPA issues, one for each active lane, into the lanes' open sets (R247). -/
def Issued (E : Env) (e : Enc) (acc : Fibre → Acc) (c c' : Crew) : Prop :=
  ∃ l : List CpaCopy, c'.copies = c.copies ++ l ∧ l.length = (E.act e).length
    ∧ ∀ (k : Nat) f, (E.act e)[k]? = some f → ∃ q : CpaCopy, l[k]? = some q ∧ q.slot = f.slot ∧ q.batch = none ∧ q.size = copySize e
      ∧ q.dst = E.c.core * 2 ^ 18 + E.c.scrBase + (f.regs.getD e.vd 0).toNat ∧ q.src = (acc f).runs
      ∧ q.gauge = (if e.mb 57 then some (E.c.core * 2 ^ 18 + E.c.scrBase + b32At e f) else none) ∧ q.done = false

/-- The copies of a lane's open set. -/
def openSet (c : Crew) (f : Fibre) : List CpaCopy := c.copies.filter fun q => q.slot == f.slot && q.batch.isNone

/-- A channel's word as XSTAT gives it (R255): its state, its record's place and, in state 3, its error. -/
def channelWord (c : Crew) (n : Nat) : Nat :=
  match c.channel n with
  | none => 0
  | some h => 2 ^ 61 * h.state + h.record % 2 ^ 57 / 64 * 64 + (if h.state = 3 then h.err % 64 else 0)

/-- A lane's sealed batches that are unfinished, each number counted once (R247), with what its image has made of them (R359). -/
def unfinishedBatches (c : Crew) (f : Fibre) : Nat :=
  ((((c.copies.filter fun q => q.slot == f.slot && !q.done).filterMap (·.batch)).dedup.length : Int) + f.moreBatches).toNat

end Sys2Proof.Claims

/-- R245 to R250 and R255. CPA whose lanes pass their checks issues a copy for each. CPSEAL of one lane numbers its open set and
its next batch. CPWAIT goes on once few enough batches are unfinished, and no copy error is recorded. XFER starts a channel that
is idle and says so in its predicate, and says 0 of a busy one. XSTAT delivers the channel's word. None moves a byte itself. -/
def Obligations.CopiesAndChannels : Prop :=
  wl .cpaW .cpaL (fun i => ∀ s E e acc, i.enc = some e → Issues s E → Legal E e → RecordNamed E (e.m 59 58) e.vc → NoneCounted E →
    (∀ f ∈ E.act e, cpaLane s.m E e f = .ok (acc f)) →
    ∃ m c', Answers i s m ∧ MemoryKept s.m m ∧ GoesOn m E e ∧ OthersKept s m E (E.act e) ∧ m.crew E.c.id = some c'
      ∧ Issued E e acc E.c c')
  ∧ (cw .cpsealC .cpsealW fun i => ∀ s E e f, i.enc = some e → Issues s E → Legal E e → E.act e = [f] →
      unfinishedBatches E.c f < 15 →
      ∃ m c' f', Answers i s m ∧ OnlyCrews s.m m ∧ OthersKept s m E [f] ∧ GoesOn m E e ∧ m.crew E.c.id = some c'
        ∧ c'.fibre f.slot = some f' ∧ f'.nextBatch = f.nextBatch + 1 ∧ f'.regs = f.regs ∧ openSet c' f = []
        ∧ (∀ q ∈ openSet E.c f, q.done = false → { q with batch := some f.nextBatch } ∈ c'.copies)
        ∧ (e.mb 49 = true → ∃ stamp, f'.pend = f.pend ++ results e.vd 1 f.nextBatch.toNat stamp false))
  ∧ (cw .cpwaitC .cpwaitW fun i => ∀ s E e, i.enc = some e → Issues s E → Legal E e → (∀ f ∈ E.act e, f.copyErrs = 0) →
      (e.mb 49 = false → (∀ f ∈ E.act e, unfinishedBatches E.c f ≤ e.va) → Answers i s (nextInstr s.m E e))
      ∧ (e.mb 49 = false → (∃ f ∈ E.act e, e.va < unfinishedBatches E.c f) →
          Answers i s (s.m.updGang E.c.id E.g.id fun g => { g with state := .held true }))
      ∧ (e.mb 49 = true →
          (∀ f ∈ E.act e, ∀ q ∈ E.c.copies, q.slot = f.slot →
            q.done = true ∨ q.batch = none ∨ ∃ b, q.batch = some b ∧ (f.regs.getD e.vb 0 - b).toInt < 0) →
          Answers i s (nextInstr s.m E e)))
  ∧ (∀ w s E e f t, (Instr.xfer w).enc = some e → Issues s E → Legal E e → E.act e = f :: t → (pair f e.va).toNat < 2 ^ 57 →
      (pair f e.va).toNat % 64 = 0 →
      (∀ h, E.c.channel e.vc = some h → h.state = 1 ∨ h.state = 2 →
        ∃ m, Answers (.xfer w) s m ∧ OnlyCrews s.m m ∧ OthersKept s m E (E.act e) ∧ GoesOn m E e ∧ DeliversPred E e e.vd (fun _ => false) m)
      ∧ ((∀ h, E.c.channel e.vc = some h → h.state = 0 ∨ h.state = 3) → (E.c.channel e.vc = none → s.m.channelsOf E.c.core < 8) →
        ∃ m c' h', Answers (.xfer w) s m ∧ OnlyCrews s.m m ∧ OthersKept s m E (E.act e) ∧ GoesOn m E e ∧ DeliversPred E e e.vd (fun _ => true) m
          ∧ m.crew E.c.id = some c' ∧ c'.channel e.vc = some h' ∧ h'.state = 1 ∧ h'.record = (pair f e.va).toNat ∧ h'.moved = 0))
  ∧ ∀ w s E e, (Instr.xstat w).enc = some e → Issues s E → Legal E e →
      ∃ m, Answers (.xstat w) s m ∧ OnlyCrews s.m m ∧ GoesOn m E e ∧ OthersKept s m E (E.act e)
        ∧ (∃ stamp, ∀ f ∈ E.act e, LaneAfter m E f { f with pend := f.pend ++ results e.vd 2 (channelWord E.c e.vc) stamp false })

namespace Sys2Proof.Claims

/-! ### Encodings and steps -/

/-- The first parcel of bytes. -/
def firstParcel (b : List Byte) : Nat := bytesNat (b.take 4)

/-- The opcodes that the form of a first parcel permits (R163). -/
def permitted (n : Nat) : List Nat := if n % 4 = 0 then cOpcodes else if n % 4 = 1 then wOpcodes else lOpcodes

def allOpcodes : List Nat := cOpcodes ++ wOpcodes ++ lOpcodes

/-- The bytes of parcels written as the spec writes an encoding, bit 0 in the first byte. -/
def bytesOfWord (n v : Nat) : List Byte := (List.range n).map fun k => BitVec.ofNat 8 (v / 256 ^ k)

end Sys2Proof.Claims

/-- The encodings that the worked programs print decode to the instructions that they print them for: MOVS v0, %crew; ICMP.lt.n32
p1, v9, v5; SHL.b32 v10, v9, #2; and FFMA.f32 v8, v11, v11, v8 under the guard p1. -/
def Obligations.PrintedEncodings : Prop :=
  decode (bytesOfWord 4 0x0400F090) = .ok (.movsC ⟨4, 0, 15, false⟩, 4)
  ∧ decode (bytesOfWord 8 0x2C80000A1202F069) = .ok (.icmpW ⟨false, 0x1640, 0, 5, 9, 1, false, 15, false⟩, 8)
  ∧ decode (bytesOfWord 8 0x880000041214F231) = .ok (.shlW ⟨true, 0x400, 0, 2, 9, 10, false, 15, false⟩, 8)
  ∧ decode (bytesOfWord 8 0x3C00101616101419) = .ok (.ffmaW ⟨false, 0x1E00, 8, 11, 11, 8, false, 1, false⟩, 8)

/-- R141, R150 and R151: the bytes of every instruction, whatever its fields, decode to it, with its length, and what follows
them does not matter. -/
def Obligations.DecodeOfEncode : Prop :=
  ∀ i b rest, encode i = some b → decode (b ++ rest) = .ok (i, b.length)

/-- R150 and R151: what bytes decode to encodes to those bytes: no two encodings have one meaning, and no bit is dropped. -/
def Sys2Proof.Claims.EncodeOfDecode : Prop :=
  ∀ b i n, decode b = .ok (i, n) → n ≤ b.length ∧ encode i = some (b.take n)

/-- R150, R155, R163 and R164: bytes decode exactly where their form permits their opcode, and are refused by name where the form
bits are reserved, the opcode is unassigned, or the opcode map does not permit the form. -/
def Sys2Proof.Claims.DecodeRefusesByName : Prop :=
  (∀ b : List Byte, b.length < 4 → decode b = .error .truncated)
  ∧ (∀ b : List Byte, 4 ≤ b.length → firstParcel b % 4 = 3 → decode b = .error .reservedForm)
  ∧ (∀ b : List Byte, firstParcel b % 4 ≠ 3 → b.length < 4 + 4 * (firstParcel b % 4) → decode b = .error .truncated)
  ∧ ∀ b : List Byte, 12 ≤ b.length → firstParcel b % 4 ≠ 3 →
      (opcodeOf (firstParcel b) ∉ allOpcodes → decode b = .error (.unassigned (opcodeOf (firstParcel b))))
      ∧ (opcodeOf (firstParcel b) ∈ allOpcodes → opcodeOf (firstParcel b) ∉ permitted (firstParcel b) →
          decode b = .error (.formNotPermitted (opcodeOf (firstParcel b))))
      ∧ (opcodeOf (firstParcel b) ∈ permitted (firstParcel b) → ∃ i, decode b = .ok (i, 4 + 4 * (firstParcel b % 4)))

/-- R150 and R151: what bytes decode to encodes to those bytes: no two encodings have one meaning, and no bit is dropped. R150,
R155, R163 and R164: bytes decode exactly where their form permits their opcode, and are refused by name where the form bits are
reserved, the opcode is unassigned, or the opcode map does not permit the form. -/
def Obligations.EncodingsHaveOneMeaning : Prop := EncodeOfDecode ∧ DecodeRefusesByName

namespace Sys2Proof.Claims

/-- A move at the head of the agenda and the moves after it. -/
def Next (s : State) (mv : Move) (rest : List Move) : Prop := s.agenda = mv :: rest ∧ s.dev.powered = true

/-- The gang can issue, no pre-emption that it has latched has run out, and it has read its clause's header. -/
def MayIssue (s : State) (E : Env) : Prop := E.canIssue = true ∧ s.m.latchOut E = false ∧ E.g.unread = false

end Sys2Proof.Claims

/-- R28, R148, R155 and R352: a gang that can issue runs the instruction that its bytes decode to: the step is `exec` of it with
that gang issuing, and then the clocks that it took count for the gang, requests without a port are refused, pre-emptions
complete, bins whose timers have run are ready and waiting gangs see what their gauges have become (`afterIssue`). Bytes that
decode to none are ILLEGAL_INSTRUCTION (1) in every fibre of the gang. A gang put inside a clause whose header it has not read
reads it first. A gang that cannot issue, or whose latched pre-emption has run out, issues nothing. A step of the part or of a
party round it is `exec` of its row with its operands. The agenda, which says what moves next, is the model's (log entry 2), the
refused requests of `afterIssue` its choice (log entry 44), and that a MOV in the L form decodes to nothing its reading of R155's
order (log entry 67). -/
def Obligations.StepRunsDecodedInstruction : Prop :=
  (∀ s r rest E bytes i n, Next s (.issue r) rest → s.m.env s.dev r = some E → MayIssue s E →
    s.m.fetchInstr s.dev E.x E.cluster E.g.hdr E.g.idx = .ok bytes → decode bytes = .ok (i, n) →
    step s = onNext (exec i { s with agenda := rest, cur := some r, arg := .none }) (afterIssue r { s with agenda := rest }))
  ∧ (∀ s r rest E bytes e, Next s (.issue r) rest → s.m.env s.dev r = some E → MayIssue s E →
    s.m.fetchInstr s.dev E.x E.cluster E.g.hdr E.g.idx = .ok bytes → decode bytes = .error e →
    step s = .next { s with agenda := rest, m := takeTrap E s.m E.g.mask 1 fun _ => leNat (bytes.take 4) })
  ∧ (∀ s r rest E, Next s (.issue r) rest → s.m.env s.dev r = some E → E.canIssue = true → s.m.latchOut E = false → E.g.unread = true →
    step s = .next (afterIssue r { s with agenda := rest } { s with agenda := rest, m := s.m.readResume E }))
  ∧ (∀ s r rest E, Next s (.issue r) rest → s.m.env s.dev r = some E → E.canIssue = false ∨ s.m.latchOut E = true →
    step s = .next { s with agenda := rest })
  ∧ ∀ s i a rest, Next s (.event i a) rest →
    step s = onNext (exec i { s with agenda := rest, cur := none, arg := a }) State.settled

/-- Every byte memory stays in its canonical form, whatever the step and from whatever state. -/
def Obligations.StepKeepsMemoriesCanonical : Prop :=
  ∀ s t, s.m.memoriesWf = true → step s = .next t → t.m.memoriesWf = true

/-- R345, R417, R431, R434 and R437, what they give for power-on: no queue, record, launch or crew; every scratchpad byte 0;
every VF world NONE; the start at its first step. The memories list nothing, so they are in the canonical form: their contents,
which R434 leaves undefined, are the model's choice (log entry 4), and so is that the agenda names no move (log entry 2). -/
def Obligations.ResetLeaves : Prop :=
  State.reset.m.memoriesWf = true ∧ State.reset.m.queues = [] ∧ State.reset.m.launches = [] ∧ State.reset.m.crews = []
  ∧ (∀ a, State.reset.m.scratch.read a = 0)
  ∧ (∀ fn, (State.reset.dev.fnRec fn).world = (if fn = 0 then .open else .none) ∧ (State.reset.dev.fnRec fn).tdisp = .unlocked)
  ∧ State.reset.dev.bootStep = 1 ∧ State.reset.dev.halted = false ∧ State.reset.agenda = []

/-- No instruction form, whatever the gang and the operands, changes anything that only the part's management and its hosts
change: its functions, worlds, sessions, boot record, ports, caps or tables; nor what comes next. -/
def Obligations.InstructionsKeepManagement : Prop :=
  ∀ i e s t, i.enc = some e → exec i s = .next t →
    t.dev = s.dev ∧ t.agenda = s.agenda ∧ t.cur = s.cur ∧ t.arg = s.arg ∧ t.turn = s.turn

namespace Sys2Proof.Claims

/-! ### Matrix posts -/

/-- The cluster's reservation table has room (R262). -/
def TableRoom (s : State) (E : Env) : Prop := (s.m.posts.filter fun p => p.core / 4 == E.c.core / 4).length < 64

/-- The lane whose operands a collective instruction uses: its lowest active one (R260). -/
def Lowest (E : Env) (e : Enc) (f : Fibre) : Prop := (E.act e).head? = some f

/-- Every active lane agrees with the lowest on n registers (R260). -/
def Agreed (E : Env) (e : Enc) (f : Fibre) (k n : Nat) : Prop := ∀ q ∈ E.act e, ∀ i < n, q.regs.getD (k + i) 0 = f.regs.getD (k + i) 0

/-- The cores that an instruction works on: its own, in pair mode also the partner. -/
def coresUsed (E : Env) (both : Bool) : List Nat := if both then [E.c.core, E.c.core ^^^ 1] else [E.c.core]

/-- The gauge operand passes its check, and where the gauge lies (R265). -/
def GaugeGood (E : Env) (e : Enc) (g : Bool) (f : Fibre) : Prop := g = true → InScratch E ((f.regs.getD e.vc 0).toNat : Int) 16
def gaugeNamed (E : Env) (e : Enc) (g : Bool) (f : Fibre) : Option Nat := if g then some (gaugePlace E f e.vc) else none

/-- One post has entered the reservation table behind the others, with what the instruction gives it (R262, R264). -/
def Entered (s : State) (E : Env) (f : Fibre) (acc sslot : Option Nat) (both : Bool) (gauge : Option Nat) (op : PostOp) (m : Mach) : Prop :=
  ∃ p, m.posts = s.m.posts ++ [p] ∧ p.op = op ∧ p.crew = E.c.id ∧ p.lanes = E.lanes.map (·.slot) ∧ p.slot = f.slot
    ∧ p.stream = f.stream ∧ p.core = E.c.core ∧ p.acc = acc ∧ p.sslot = sslot ∧ p.pair = both ∧ p.prio = E.l.prio
    ∧ p.gauge = gauge ∧ p.started = false ∧ p.stopped = false ∧ p.step = 0

/-- The instruction itself changes no byte of any memory or cache: posts, tiles, accumulators and slots alone beside the crews. -/
def PostsOnly (m m' : Mach) : Prop :=
  m' = { m with
    crews := m'.crews, ctxs := m'.ctxs, clocks := m'.clocks, nextId := m'.nextId, posts := m'.posts, tiles := m'.tiles, accs := m'.accs
    sslots := m'.sslots }

/-- The tile is bound by the crew (R266, R268). -/
def TileOf (s : State) (E : Env) (n : Nat) : Prop := (s.m.tile E.c.core n).bound = true ∧ (s.m.tile E.c.core n).crew = E.c.id

/-- What is common to the instructions that enter a post. -/
def Posting (s : State) (i : Instr) (E : Env) (e : Enc) (f : Fibre) : Prop :=
  i.enc = some e ∧ Issues s E ∧ Legal E e ∧ Lowest E e f ∧ NoneCounted E ∧ TableRoom s E

/-- A tile's status word (R267). -/
def statusOf (s : State) (core n : Nat) : Nat :=
  let t := s.m.tile core n
  let bit := fun (k : Nat) (v : Bool) => if v then 2 ^ k else 0
  t.step + 2 ^ 8 * t.steps + bit 27 t.bound + bit 28 t.int + bit 29 t.pair + bit 30 t.stopped + bit 31 (s.m.tileBusy core n)
    + 2 ^ 32 * t.sat

/-- Four accumulator words of a lane's row from a column on, the first lowest (R269). -/
def rowOf (s : State) (core n lane col : Nat) : Nat :=
  ((List.range 4).map fun i => 2 ^ (32 * i) * (wordAt s.m.accs (core * 2 ^ 14 + n * 2 ^ 12 + lane * 128 + (col + i))).toNat).sum

end Sys2Proof.Claims

/-- R266 to R269. AZERO binds its tile to the crew, on both cores in pair mode, with its kind, and enters the table; with its
free bit it gives up the crew's binding. ARD delivers four words of each active lane's row and the status word. That AZERO binds,
and AZERO.free gives up, when it issues is the model's choice (log entry 23). -/
def Obligations.AccumulatorTiles : Prop :=
  (∀ w s E e f, Posting s (.azero w) E e f → e.mb 58 = false →
    (∀ k ∈ coresUsed E (e.mb 60),
      ((s.m.tile k (e.m 62 61)).bound = true ∧ (s.m.tile k (e.m 62 61)).crew = E.c.id)
        ∨ ((s.m.tile k (e.m 62 61)).bound = false ∧ s.m.tileBusy k (e.m 62 61) = false)) →
    ∃ m, Answers (.azero w) s m ∧ OthersKept s m E (E.act e) ∧ GoesOn m E e ∧ PostsOnly s.m m
      ∧ Entered s E f (some (e.m 62 61)) none (e.mb 60) none (.azero (e.mb 59) false) m
      ∧ ∀ k ∈ coresUsed E (e.mb 60), let t := m.tile k (e.m 62 61)
          t.bound = true ∧ t.crew = E.c.id ∧ t.int = e.mb 59 ∧ t.pair = e.mb 60 ∧ t.stopped = false)
  ∧ (∀ w s E e f, Posting s (.azero w) E e f → e.mb 58 = true →
    (TileOf s E (e.m 62 61) →
      ∃ m, Answers (.azero w) s m ∧ OthersKept s m E (E.act e) ∧ GoesOn m E e ∧ PostsOnly s.m m ∧ m.accs = s.m.accs
        ∧ Entered s E f (some (e.m 62 61)) none false none (.azero (e.mb 59) true) m ∧ (m.tile E.c.core (e.m 62 61)).bound = false)
    ∧ (¬ TileOf s E (e.m 62 61) → Answers (.azero w) s (nextInstr s.m E e)))
  ∧ ∀ w s E e f, (Instr.ard w).enc = some e → Issues s E → Legal E e → Lowest E e f → TileOf s E (e.m 62 61) →
      b32At e f % 4 = 0 → b32At e f ≤ 124 → (e.mb 60 = true → (s.m.tile E.c.core (e.m 62 61)).pair = true) →
      let core := if e.mb 60 then E.c.core ^^^ 1 else E.c.core
      ∃ m k₁ k₂, Answers (.ard w) s m ∧ OnlyCrews s.m m ∧ OthersKept s m E (E.act e) ∧ GoesOn m E e
        ∧ ∀ q ∈ E.act e, LaneAfter m E q
            { q with pend := q.pend ++ results e.vd 4 (rowOf s core (e.m 62 61) (q.slot % 32) (b32At e f)) k₁ true
                ++ results e.vc 2 (statusOf s core (e.m 62 61)) k₂ true }

namespace Sys2Proof.Claims

def regsFrom (f : Fibre) (k n : Nat) : List Word := (List.range n).map fun i => f.regs.getD (k + i) 0

/-- The format word of an MMA, and where its B bitmap stands (R271, R274). -/
def formatWord (e : Enc) (f : Fibre) : Nat := (f.regs.getD e.vb 0).toNat
def mapReg (e : Enc) (w : Nat) : Nat := e.vd + if wAsp w then wMapRegs w else 0

/-- The A operands that the array takes from the lanes (R271, R275). -/
def operandsA (E : Env) (e : Enc) (w : Nat) : KeptA :=
  ⟨wAfmt w, wBlock w, wScale w, wAsp w, lanesMask (E.act e),
    (E.act e).map fun q => (q.slot % 32, regsFrom q e.va (wRowRegs w), regsFrom q (e.va + wRowRegs w) (wScaleRegs w),
      if wAsp w then regsFrom q e.vd (wMapRegs w) else []), false⟩

/-- The checks of R272 to R276 pass: the tile is the crew's and of the word's kind, the slot is the crew's, loaded with no other load of it coming,
and of the word's format, in pair mode both are pairs, and no gang on the cores keeps operands in a latch. -/
def ArrayReady (s : State) (E : Env) (e : Enc) (w : Nat) : Prop :=
  let t := s.m.tile E.c.core (e.m 62 61)
  TileOf s E (e.m 62 61) ∧ t.int = wInt w ∧ (t.pair = true → e.mb 58 = true)
  ∧ (∃ b, s.m.sslot E.c.core (e.m 60 60) = some b ∧ b.crew = E.c.id ∧ b.state = 1 ∧ b.fmt = wBfmt w ∧ b.block = wBlock w
      ∧ b.scale = wScale w ∧ b.k = wK w ∧ (e.mb 58 = true → t.pair = true ∧ b.pair = true))
  ∧ s.m.loadComing E.c.core (e.m 60 60) = false ∧ ∀ c ∈ s.m.crews, ∀ g ∈ c.gangs, g.kept = none

/-- An MMA or MMAS whose checks pass enters the table with its word, its modifiers and the operands of its lanes. -/
def EntersArray (sparse : Bool) (i : Instr) : Prop :=
  ∀ s E e f, Posting s i E e f → Agreed E e f e.vb 1 → wordOk sparse (formatWord e f) = true →
    e.va + wRowRegs (formatWord e f) + wScaleRegs (formatWord e f) ≤ E.c.nregs →
    (wAsp (formatWord e f) = true ∨ wBsp (formatWord e f) = true →
      mapReg e (formatWord e f) + (if wBsp (formatWord e f) then wMapRegs (formatWord e f) else 0) ≤ E.c.nregs) →
    (wBsp (formatWord e f) = true → Agreed E e f (mapReg e (formatWord e f)) (wMapRegs (formatWord e f))) →
    GaugeGood E e (e.mb 57) f → ArrayReady s E e (formatWord e f) →
    let w := formatWord e f
    ∃ m c g, Answers i s m ∧ OthersKept s m E (E.act e) ∧ GoesOn m E e ∧ PostsOnly s.m m ∧ m.accs = s.m.accs ∧ m.tiles = s.m.tiles
      ∧ Entered s E f (some (e.m 62 61)) (some (e.m 60 60)) (e.mb 58) (gaugeNamed E e (e.mb 57) f)
          (.mma w (e.mb 56) (e.mb 55) (e.mb 54) (operandsA E e w)
            (if wBsp w then regsFrom f (mapReg e w) (wMapRegs w) else [])) m
      ∧ m.crew E.c.id = some c ∧ c.gang E.g.id = some g ∧ g.kept = if e.mb 59 then some (operandsA E e w) else none

/-- What BLD's post is given of its image: plain bytes, or ciphertext with its key, first unit and tags, or the start that the rules
call CIPHER_USE (R281, R422). -/
def ImageGiven (s : State) (E : Env) (e : Enc) (f : Fibre) (w : Nat) (op : PostOp) : Prop :=
  ∃ a, s.m.tileRange E e f (e.m 60 59) (e.m 56 49) (dispOf e) (imageBytes w) (decide (3 ≤ dFmt w)) false = .ok a
    ∧ ((a.cipher = false ∧ op = .bld (BitVec.ofNat 32 w) a.area false 0 0 [])
      ∨ (a.cipher = true ∧ ∃ u d t, s.m.unseal E f (e.m 60 59) e.va (e.m 56 49) (dispOf e) (imageBytes w) a = .ok u (.ok d) (.ok t)
          ∧ op = .bld (BitVec.ofNat 32 w) d.area true a.keyId u t.runs)
      ∨ (a.cipher = true ∧ s.m.unseal E f (e.m 60 59) e.va (e.m 56 49) (dispOf e) (imageBytes w) a = .bad
          ∧ op = .bld (BitVec.ofNat 32 w) a.area true 0 0 []))

end Sys2Proof.Claims

/-- R262, R271 to R276 and R280. MMA and MMAS whose word, operands, tile and slot pass the checks, and BLD of an image that can
be reached, enter the table; BLD's slot is the crew's and loading from then on; BLD.free gives up the crew's slot. That both do
so when they issue is the model's choice (log entry 23). -/
def Obligations.ArrayPosts : Prop :=
  (∀ w, EntersArray false (.mmaW w)) ∧ (∀ w, EntersArray true (.mmasW w))
  ∧ wl .bldW .bldL (fun i => ∀ s E e f op, Posting s i E e f → e.mb 57 = false → RecordNamed E (e.m 60 59) (e.m 56 49) →
      Agreed E e f e.vd 1 → bldOk (f.regs.getD e.vd 0).toNat (e.mb 61) = true →
      (∀ k ∈ coresUsed E (e.mb 61), ∀ b, s.m.sslot k (e.m 62 62) = some b → b.crew = E.c.id) →
      ImageGiven s E e f (f.regs.getD e.vd 0).toNat op → GaugeGood E e (e.mb 58) f →
      ∃ m, Answers i s m ∧ OthersKept s m E (E.act e) ∧ GoesOn m E e ∧ PostsOnly s.m m ∧ m.accs = s.m.accs ∧ m.tiles = s.m.tiles
        ∧ Entered s E f none (some (e.m 62 62)) (e.mb 61) (gaugeNamed E e (e.mb 58) f) op m
        ∧ ∀ k ∈ coresUsed E (e.mb 61), ∃ b ∈ m.sslots, b.core = k ∧ b.n = e.m 62 62 ∧ b.crew = E.c.id ∧ b.state = 0
            ∧ b.pair = e.mb 61 ∧ b.fmt = dFmt (f.regs.getD e.vd 0).toNat)
  ∧ wl .bldW .bldL fun i => ∀ s E e f, Posting s i E e f → e.mb 57 = true →
      ∃ m, Answers i s m ∧ OthersKept s m E (E.act e) ∧ GoesOn m E e ∧ PostsOnly s.m m ∧ m.accs = s.m.accs ∧ m.tiles = s.m.tiles
        ∧ Entered s E f none (some (e.m 62 62)) false none .bldFree m
        ∧ (E.c.id ≠ 0 → ∀ b ∈ m.sslots, b.core = E.c.core → b.n = e.m 62 62 → b.crew ≠ E.c.id)

namespace Sys2Proof.Claims

/-- The address of row r of a tile's store (R283). -/
def rowAddr (a : Nat) (stride : Int) (r : Nat) : Nat := (BitVec.ofNat 64 a + BitVec.ofInt 64 ((r : Int) * stride)).toNat

def elemBytes (e : Enc) : Nat := (storeType (e.m 62 60)).bits / 8
def strideOf (e : Enc) (f : Fibre) : Int := (BitVec.ofNat 32 (b32At e f)).toInt

/-- The amax cell that an instruction names, with the range that its checks answer (R283). -/
def CellGiven (s : State) (E : Env) (f : Fibre) (named : Bool) (a : Nat) (cell : Option Area) : Prop :=
  if named then ∃ c, s.m.cell E f a = .ok c ∧ cell = some c.area else cell = none

/-- The tile's state as R282 asks of a store. -/
def TileStores (s : State) (E : Env) (n : Nat) (both : Bool) : Prop :=
  TileOf s E n ∧ (both = true → (s.m.tile E.c.core n).pair = true)

/-- CVTQ's combinations, and the descriptor word of the tile that it makes (R285). -/
def quantises (e : Enc) : Prop :=
  (e.m 62 61 = 3 ∧ e.m 60 59 ≠ 0 ∧ e.m 58 56 ≤ 4)
    ∨ (e.m 62 61 ≠ 3 ∧ ((e.m 58 56 = 0 ∧ e.m 60 59 = 0) ∨ (e.m 58 56 = 1 ∧ e.m 60 59 ≠ 0)))
def tileWord (e : Enc) : Nat :=
  (if e.m 62 61 = 0 then 3 else if e.m 62 61 = 1 then 4 else if e.m 62 61 = 2 then 6 else 5) * 2 ^ 28 + e.m 60 59 * 2 ^ 26
    + if e.mb 52 then 8192 else 4096

def shifted (e : Enc) (f : Fibre) : Nat := (BitVec.ofNat 64 (pair f e.va).toNat + BitVec.ofInt 64 (dispOf e)).toNat

/-- The bytes of a tile that DQ and TCHK read, of which no part lies across the fabric. -/
def tileBytes (s : State) (E : Env) (l : List Run) : List Byte := (runLocs l).map (s.m.homeRead E.key)
def Local (l : List Run) : Prop := ∀ r ∈ l, r.fab = none

/-- TCHK's verdict of a lane: ciphertext opens under its tags, and the trailer is right (R55, R287, R422). -/
def tilePasses (s : State) (E : Env) (w : Nat) (runs : List Run) (sealed : Option (Nat × Nat × List Run)) : Bool :=
  match sealed with
  | none => trailerOk w (tileBytes s E runs)
  | some (u, kid, tags) =>
    match E.d.openUnits E.x.fn E.x.comp kid u (tileBytes s E runs) (tileBytes s E tags) with
    | none => false
    | some b => trailerOk w b

end Sys2Proof.Claims

/-- R282 to R287. ASTORE, ASTZ and CVTQ of a tile of the crew whose destination and amax cell can be reached, and DQ of a tile
whose trailer is right, enter the table with what they were given. TCHK delivers each lane's verdict, with its quiet bit or where
every lane's is 1. -/
def Obligations.TileStoresAndChecks : Prop :=
  wl .astoreW .astoreL (fun i => ∀ s E e f (rows : Nat → Acc) cell, Posting s i E e f → TileStores s E (e.m 52 51) (e.mb 53) →
    let a := (pair f e.va).toNat
    let row := elemBytes e * if e.mb 53 then 256 else 128
    a % elemBytes e = 0 → strideOf e f % (elemBytes e : Int) = 0 → (row : Int) ≤ strideOf e f →
    (∀ r < 32, s.m.engineRange E f (writeWant row) (rowAddr a (strideOf e f) r) = .ok (rows r)
      ∧ (a / 2 ^ 62 % 4 = 2 → ((a % 2 ^ 40 : Nat) : Int) + (r : Int) * strideOf e f + row ≤ 2 ^ 40)) →
    CellGiven s E f (e.mb 54) (pair f e.vd).toNat cell → GaugeGood E e (e.mb 50) f →
    ∃ m, Answers i s m ∧ OthersKept s m E (E.act e) ∧ GoesOn m E e ∧ PostsOnly s.m m ∧ m.accs = s.m.accs ∧ m.tiles = s.m.tiles
      ∧ Entered s E f (some (e.m 52 51)) none (e.mb 53) (gaugeNamed E e (e.mb 50) f)
          (.astore (s.m.tile E.c.core (e.m 52 51)).int (e.m 62 60) (e.m 59 57) (e.mb 56) (e.mb 55) cell
            ((List.range 32).map fun r => (rows r).area)) m)
  ∧ wl .astzW .astzL (fun i => ∀ s E e f d cell, Posting s i E e f → TileStores s E (e.m 52 51) (e.mb 53) →
      (pair f e.va).toNat % 16 = 0 →
      s.m.engineRange E f (writeWant (max (b32At e f) 528 * if e.mb 53 then 2 else 1)) (pair f e.va).toNat = .ok d →
      CellGiven s E f (e.mb 54) (pair f e.vd).toNat cell → GaugeGood E e (e.mb 50) f →
      ∃ m, Answers i s m ∧ OthersKept s m E (E.act e) ∧ GoesOn m E e ∧ PostsOnly s.m m ∧ m.accs = s.m.accs ∧ m.tiles = s.m.tiles
        ∧ Entered s E f (some (e.m 52 51)) none (e.mb 53) (gaugeNamed E e (e.mb 50) f)
            (.astz (s.m.tile E.c.core (e.m 52 51)).int (e.m 62 60) (e.m 59 57) (e.mb 56) (e.mb 55) cell (b32At e f) d.area) m)
  ∧ wl .cvtqW .cvtqL (fun i => ∀ s E e f d cell, Posting s i E e f → TileStores s E (e.m 51 50) (e.mb 52) → quantises e →
      shifted e f % 16 = 0 → s.m.engineRange E f (writeWant (imageBytes (tileWord e))) (shifted e f) = .ok d →
      CellGiven s E f (decide ((pair f e.vd).toNat ≠ 0)) (pair f e.vd).toNat cell → GaugeGood E e (e.mb 49) f →
      ∃ m, Answers i s m ∧ OthersKept s m E (E.act e) ∧ GoesOn m E e ∧ PostsOnly s.m m ∧ m.accs = s.m.accs ∧ m.tiles = s.m.tiles
        ∧ Entered s E f (some (e.m 51 50)) none (e.mb 52) (gaugeNamed E e (e.mb 49) f)
            (.cvtq (s.m.tile E.c.core (e.m 51 50)).int (e.m 62 61) (e.m 60 59) (e.m 58 56) (e.m 55 53) cell d.area) m)
  ∧ wl .dqW .dqL (fun i => ∀ s E e f a d, Posting s i E e f → RecordNamed E (e.m 60 59) (e.m 56 49) → Agreed E e f e.vd 1 →
      let w := (f.regs.getD e.vd 0).toNat
      let t := dqType (e.m 62 61)
      let len := dCount w * (t.bits / 8)
      ok53 w = true → 3 ≤ dFmt w → s.m.tileRange E e f (e.m 60 59) (e.m 56 49) 0 (imageBytes w) true true = .ok a → a.cipher = false →
      Local a.runs →
      (if e.mb 57 then scratchLane E.c (((if e.isL then e.lit else (f.regs.getD e.vb 0).toNat) : Nat) : Int) len (t.bits / 8)
        else s.m.engineRange E f (writeWant len) (pair f e.vb).toNat) = .ok d →
      GaugeGood E e (e.mb 58) f → trailerOk w (tileBytes s E a.runs) = true →
      ∃ m, Answers i s m ∧ OthersKept s m E (E.act e) ∧ GoesOn m E e ∧ m.accs = s.m.accs ∧ m.tiles = s.m.tiles ∧ m.scratch = s.m.scratch
        ∧ m.hbm = s.m.hbm
        ∧ Entered s E f none none false (gaugeNamed E e (e.mb 58) f) (.dq (dequantise w t (tileBytes s E a.runs)) d.area) m)
  ∧ wl .tchkW .tchkL fun i => ∀ s E e (acc : Fibre → Acc) (runs : Fibre → List Run)
      (sealed : Fibre → Option (Nat × Nat × List Run)), i.enc = some e → Issues s E → Legal E e →
      RecordNamed E (e.m 60 59) (e.m 56 49) → NoneCounted E →
      (∀ f ∈ E.act e, tchkLane s.m E e f = (.ok (acc f), runs f, sealed f) ∧ Local (runs f) ∧ ∀ z, sealed f = some z → Local z.2.2) →
      (e.mb 58 = true ∨ ∀ f ∈ E.act e, tilePasses s E (f.regs.getD e.vc 0).toNat (runs f) (sealed f) = true) →
      ∃ m stamp, Answers i s m ∧ OthersKept s m E (E.act e) ∧ GoesOn m E e ∧ m.hbm = s.m.hbm ∧ m.scratch = s.m.scratch
        ∧ ∀ f ∈ E.act e, ∃ f', LaneAfter m E f f' ∧ f' = { f with
            pend := f.pend ++ [⟨.pred e.vd, if tilePasses s E (f.regs.getD e.vc 0).toNat (runs f) (sealed f) then 1 else 0, true, stamp⟩]
            carry := f'.carry }

namespace Sys2Proof.Claims

/-! ### Cursors, bins and gates -/

/-- What is common to the collective instructions without a post. -/
def Collective (s : State) (i : Instr) (E : Env) (e : Enc) (f : Fibre) : Prop :=
  i.enc = some e ∧ Issues s E ∧ Legal E e ∧ Lowest E e f ∧ NoneCounted E

/-- No failed run of the named cursor is still to be reported (R292). -/
def NothingToReport (E : Env) (n : Nat) : Prop := ∀ h, E.c.cursor n = some h → (h.state = 5 ∨ h.state = 6) → h.rep = true

/-- The name holds a cursor, or the core has a state left for one (R289). -/
def CursorRoom (s : State) (E : Env) (n : Nat) : Prop := (∃ h, E.c.cursor n = some h) ∨ s.m.cursorsOf E.c.core < 4

/-- The crew's cursor under a name after the instruction; every other name holds what it held. -/
def CursorBecomes (m : Mach) (E : Env) (n : Nat) (h : Option Cursor) : Prop :=
  ∃ c, m.crew E.c.id = some c ∧ c.cursor n = h ∧ ∀ k, k ≠ n → c.cursor k = E.c.cursor k

/-- Bytes written into HBM for the crew's context, and no other byte of it changed. -/
def WritesHbm (s : State) (E : Env) (locs : List Loc) (b : List Byte) (m : Mach) : Prop :=
  locs.map (m.homeRead E.key) = b ∧ (∀ q, (⟨.hbm, q⟩ : Loc) ∉ locs → m.hbmRead E.key q = s.m.hbmRead E.key q)
  ∧ m = { s.m with
      crews := m.crews, ctxs := m.ctxs, clocks := m.clocks, nextId := m.nextId, hbm := m.hbm }

/-- A destination whose n bytes stand in HBM, each once, and belong to no object; the memories in their canonical form. -/
def InHbm (s : State) (a : Acc) (n : Nat) : Prop :=
  s.m.memoriesWf = true ∧ a.object = none ∧ (runLocs a.runs).length = n ∧ (runLocs a.runs).Nodup ∧ ∀ l ∈ runLocs a.runs, l.space = .hbm

/-- The bytes of a place as one number. -/
def numberAt (s : State) (E : Env) (a : Acc) : Nat := leNat ((runLocs a.runs).map (s.m.homeRead E.key))

/-- CESAVE's word (R293): the cursor's state at a pair boundary. -/
def savedWord (h : Cursor) : Nat :=
  let bit := fun (k : Nat) (v : Bool) => if v then 2 ^ k else 0
  bit 0 h.gerr + 2 ^ 8 * h.state + bit 11 h.rep + bit 12 h.fstream + 2 ^ 13 * (h.desc / 64 % 2 ^ 51) + 2 ^ 64 * (h.a.unit % 2 ^ 32)
    + 2 ^ 96 * h.a.ord + 2 ^ 128 * (h.a.floor % 2 ^ 32) + 2 ^ 160 * (h.b.unit % 2 ^ 32) + 2 ^ 192 * h.b.ord
    + 2 ^ 224 * (h.b.floor % 2 ^ 32)

/-- A cursor that runs stops at a pair boundary and is OPEN (R293). -/
def stopped (h : Cursor) : Cursor := if h.state = 2 ∨ h.state = 3 then { h with state := 1, wait := [], want := none, lost := false } else h

/-- CESTAT's four words (R293). -/
def cursorStatus (h : Cursor) : Nat :=
  let bit := fun (k : Nat) (v : Bool) => if v then 2 ^ k else 0
  h.state + bit 3 h.fstream + bit 4 h.gerr + bit 5 h.rep + 2 ^ 32 * h.a.ord + 2 ^ 64 * h.b.ord + 2 ^ 96 * (h.emitted % 2 ^ 32)

/-- The name's cursor number. -/
def cur (e : Enc) : Nat := e.m 62 61

/-- A predicate that every active lane gets from an engine. -/
def DeliversOne (E : Env) (e : Enc) (k : Nat) (v : Bool) (m : Mach) : Prop :=
  ∃ stamp, ∀ f ∈ E.act e, ∃ f', LaneAfter m E f f'
    ∧ f' = { f with pend := f.pend ++ [⟨.pred k, if v then 1 else 0, true, stamp⟩], carry := f'.carry }

end Sys2Proof.Claims

/-- R289 to R294. CEOPEN opens a cursor on the descriptor that it reads; CERUN starts an OPEN cursor and says so, and says 0 of
any other; CESPLIT writes its descriptors of an OPEN cursor, which stays as it is, by a search where both streams are IX32;
CESAVE stops a running cursor and writes its word, 0 where there is none; CELOAD opens the cursor that a saved word describes;
CESTAT delivers the cursor's words; CECLOSE frees the name. An unreported failed run is reported by a trap instead:
UNSORTED_INDEX (34), or CURSOR_ERROR (35). Which entries a split of two IX32 streams reads, by one search, R294 leaves to the
part: it is the model's choice (log entry 7). -/
def Obligations.Cursors : Prop :=
  (∀ w s E e f a h, Collective s (.ceopen w) E e f → NothingToReport E (cur e) → CursorRoom s E (cur e) →
    s.m.alignedRange E f (readWant 64) (pair f e.va).toNat 64 = .ok a → openCursor (cur e) a.va (numberAt s E a) = some h →
    ∃ m, Answers (.ceopen w) s m ∧ OthersKept s m E (E.act e) ∧ GoesOn m E e ∧ MemoryKept s.m m ∧ CursorBecomes m E (cur e) (some h)
      ∧ h.state = 1 ∧ h.entry = numberAt s E a / 2 ^ 448 % 2 ^ 64 ∧ h.tag.toNat = numberAt s E a / 2 ^ 416 % 2 ^ 32
      ∧ h.merge = (numberAt s E a).testBit 404)
  ∧ (∀ w s E e f, Collective s (.cerun w) E e f → NothingToReport E (cur e) →
    (∀ h, E.c.cursor (cur e) = some h → h.state = 1 → GaugeGood E e (e.mb 60) f →
      ∃ m, Answers (.cerun w) s m ∧ OthersKept s m E (E.act e) ∧ GoesOn m E e ∧ MemoryKept s.m m ∧ DeliversOne E e e.vd true m
        ∧ CursorBecomes m E (cur e) (some { h with
            state := 2, emitted := 0, gauge := gaugeNamed E e (e.mb 60) f, by_ := (E.act e).map (·.slot) }))
    ∧ ((∀ h, E.c.cursor (cur e) = some h → h.state ≠ 1) →
      ∃ m, Answers (.cerun w) s m ∧ OthersKept s m E (E.act e) ∧ GoesOn m E e ∧ OnlyCrews s.m m ∧ DeliversOne E e e.vd false m
        ∧ CursorBecomes m E (cur e) (E.c.cursor (cur e))))
  ∧ (∀ w s E e f h a la lb ea eb, Collective s (.cesplit w) E e f → NothingToReport E (cur e) → E.c.cursor (cur e) = some h →
    h.state = 1 → 1 ≤ b32At e f → b32At e f ≤ 64 → (pair f e.va).toNat % 64 = 0 → (pair f e.va).toNat / 2 ^ 62 ≠ 1 →
    h.a.enc ≠ 0 ∨ h.b.enc ≠ 0 →
    s.m.scan ⟨E.d, E.x, E.cluster, f.carry, false⟩ true h.a.bound h.a = .inl (la, ea) →
    s.m.scan ⟨E.d, E.x, E.cluster, f.carry, false⟩ true h.b.bound h.b = .inl (lb, eb) →
    s.m.engineRange E f (writeWant (64 * b32At e f)) (pair f e.va).toNat = .ok a → InHbm s a (64 * b32At e f) →
    ∃ m, Answers (.cesplit w) s m ∧ OthersKept s m E (E.act e) ∧ GoesOn m E e ∧ CursorBecomes m E (cur e) (some h)
      ∧ WritesHbm s E (runLocs a.runs) (splitTable h la lb ea eb (b32At e f)) m)
  ∧ (∀ w s E e f h a table, Collective s (.cesplit w) E e f → NothingToReport E (cur e) → E.c.cursor (cur e) = some h →
    h.state = 1 → 1 ≤ b32At e f → b32At e f ≤ 64 → (pair f e.va).toNat % 64 = 0 → (pair f e.va).toNat / 2 ^ 62 ≠ 1 →
    h.a.enc = 0 → h.b.enc = 0 → s.m.ixTable ⟨E.d, E.x, E.cluster, f.carry, false⟩ h (b32At e f) = .inl table →
    s.m.engineRange E f (writeWant (64 * b32At e f)) (pair f e.va).toNat = .ok a → InHbm s a (64 * b32At e f) →
    ∃ m, Answers (.cesplit w) s m ∧ OthersKept s m E (E.act e) ∧ GoesOn m E e ∧ CursorBecomes m E (cur e) (some h)
      ∧ WritesHbm s E (runLocs a.runs) table m)
  ∧ wl .cesaveW .cesaveL (fun i => ∀ s E e f a, Collective s i E e f →
      s.m.alignedRange E f (writeWant 32) (shifted e f) 32 = .ok a → InHbm s a 32 →
      ∃ m, Answers i s m ∧ OthersKept s m E (E.act e) ∧ GoesOn m E e ∧ CursorBecomes m E (cur e) ((E.c.cursor (cur e)).map stopped)
        ∧ WritesHbm s E (runLocs a.runs)
            (bytesOfWord 32 (((E.c.cursor (cur e)).map fun h => savedWord (stopped h)).getD 0)) m)
  ∧ wl .celoadW .celoadL (fun i => ∀ s E e f a d h, Collective s i E e f → NothingToReport E (cur e) → CursorRoom s E (cur e) →
      s.m.alignedRange E f (readWant 32) (shifted e f) 32 = .ok a →
      s.m.engineRange E f (readWant 64) (numberAt s E a / 2 ^ 13 % 2 ^ 51 * 64) = .ok d →
      numberAt s E a / 2 % 2 ^ 7 = 0 → numberAt s E a / 2 ^ 8 % 8 ≠ 0 → numberAt s E a / 2 ^ 8 % 8 ≠ 7 →
      ((openCursor (cur e) (numberAt s E a / 2 ^ 13 % 2 ^ 51 * 64) (numberAt s E d)).bind fun q => q.restore (numberAt s E a)) = some h →
      ∃ m, Answers i s m ∧ OthersKept s m E (E.act e) ∧ GoesOn m E e ∧ MemoryKept s.m m
        ∧ CursorBecomes m E (cur e) (some { h with state := if numberAt s E a / 2 ^ 8 % 8 = 4 then 4 else 1 })
        ∧ h.a.unit = numberAt s E a / 2 ^ 64 % 2 ^ 32 ∧ h.a.ord = numberAt s E a / 2 ^ 96 % 2 ^ 32
        ∧ h.b.unit = numberAt s E a / 2 ^ 160 % 2 ^ 32 ∧ h.b.ord = numberAt s E a / 2 ^ 192 % 2 ^ 32)
  ∧ (∀ w s E e f, Collective s (.cestat w) E e f →
    ∃ m stamp, Answers (.cestat w) s m ∧ OthersKept s m E (E.act e) ∧ GoesOn m E e ∧ OnlyCrews s.m m
      ∧ ∀ q ∈ E.act e, LaneAfter m E q { q with
          pend := q.pend ++ results e.vd 4 (((E.c.cursor (cur e)).map cursorStatus).getD 0) stamp true })
  ∧ (∀ w s E e f, Collective s (.ceclose w) E e f → NothingToReport E (cur e) →
    ∃ m, Answers (.ceclose w) s m ∧ OthersKept s m E (E.act e) ∧ GoesOn m E e ∧ OnlyCrews s.m m ∧ CursorBecomes m E (cur e) none)
  ∧ ∀ w s E e f h, Collective s (.ceclose w) E e f → E.c.cursor (cur e) = some h → h.state = 5 ∨ h.state = 6 → h.rep = false →
      Answers (.ceclose w) s
        ((takeTrap E (s.m.setCursor E.c.id { h with rep := true }) (lanesMask (E.act e)) (if h.state = 5 then 34 else 35) fun _ =>
          if h.state = 5 then h.offending.toNat + 2 ^ 32 * h.previous.toNat else (lanesMask (E.act e)).toNat).tick E.c.core 1)

namespace Sys2Proof.Claims

/-- The crew's binning context after an instruction. -/
def BinsBecome (m : Mach) (E : Env) (b : Option Binning) : Prop := ∃ c, m.crew E.c.id = some c ∧ c.binning = b

/-- The pairs that BAPP's lanes append, in the lanes' order (R297). -/
def appended (E : Env) (e : Enc) : List (Nat × Word) :=
  (E.act e).map fun f => ((f.regs.getD e.va 0).toNat, BitVec.ofNat 32 (b32At e f))

/-- BSTAT's word (R299): state, error code and the pairs held. -/
def binWord (b : Binning) : Nat := b.state * 2 ^ 61 + b.code % 32 * 2 ^ 56 + b.pairs.length % 2 ^ 32

/-- What GPASS checks of its gate and its two sides (R425, R426). -/
def GateOpen (s : State) (E : Env) (e : Enc) (f : Fibre) (gate : GateEntry) (src dst : GSide) : Prop :=
  s.m.gateEntry E.d E.x E.l (e.m 62 60) = some gate
  ∧ src = s.m.gside E f (pair f e.va).toNat (b32At e f) 1 gate.skey ∧ dst = s.m.gside E f (pair f e.vd).toNat (b32At e f) 2 gate.dkey
  ∧ allOk [src.range, dst.range, src.tags, src.rest, dst.tags, dst.rest] = true ∧ sideAgrees gate.skey src.attrs = true
  ∧ sideAgrees gate.dkey dst.attrs = true ∧ src.aligned = true ∧ dst.aligned = true

end Sys2Proof.Claims

/-- R296 to R299. BINIT of an idle context sets it on the descriptor that it reads; BAPP appends each lane's pair in the lanes' order
where its region has room, and traps BIN_BOUNDS (36) where a lane's index is too large; BREPLAY starts a replay of every pair held;
BSTAT delivers the context's word. -/
def Sys2Proof.Claims.BinningContext : Prop :=
  wl .binitW .binitL (fun i => ∀ s E e f a, Collective s i E e f → shifted e f / 2 ^ 62 ≠ 1 →
    s.m.engineRange E f (readWant 32) (shifted e f) = .ok a → binOk E.c (numberAt s E a) = true →
    (∀ b, E.c.binning = some b → b.state ≠ 2 ∧ (b.state = 1 → b.pairs = [])) →
    ∃ m, Answers i s m ∧ OthersKept s m E (E.act e) ∧ GoesOn m E e ∧ MemoryKept s.m m
      ∧ ∃ b, BinsBecome m E (some b) ∧ b.desc.toNat = numberAt s E a % 2 ^ 256 ∧ b.state = 1 ∧ b.pairs = [] ∧ b.code = 0)
  ∧ (∀ w s E e b, (Instr.bapp w).enc = some e → Issues s E → Legal E e → E.act e ≠ [] → NoneCounted E → E.c.binning = some b →
    b.state ≠ 3 → (∀ f ∈ E.act e, (f.regs.getD e.va 0).toNat < bCount b.desc.toNat) →
    (∀ f ∈ E.act e, ((b.pairs ++ appended E e).filter
        (inRegion b.desc.toNat ((f.regs.getD e.va 0).toNat / 2 ^ bRlog b.desc.toNat))).length ≤ bPairs b.desc.toNat) →
    ∃ m, Answers (.bapp w) s m ∧ OthersKept s m E (E.act e) ∧ GoesOn m E e ∧ MemoryKept s.m m
      ∧ BinsBecome m E (some { b with pairs := b.pairs ++ appended E e }))
  ∧ (∀ w s E e b, (Instr.bapp w).enc = some e → Issues s E → Legal E e → E.c.binning = some b → b.state ≠ 3 →
    (∃ f ∈ E.act e, bCount b.desc.toNat ≤ (f.regs.getD e.va 0).toNat) →
    Answers (.bapp w) s ((takeTrap E s.m (lanesMask (E.act e)) 36 fun _ =>
      (lanesMask ((E.act e).filter fun f => decide (bCount b.desc.toNat ≤ (f.regs.getD e.va 0).toNat))).toNat).tick E.c.core 1))
  ∧ (∀ w s E e f b, Collective s (.breplay w) E e f → E.c.binning = some b → b.state ≠ 2 → b.state ≠ 3 → GaugeGood E e (e.mb 62) f →
    ∃ m, Answers (.breplay w) s m ∧ OthersKept s m E (E.act e) ∧ GoesOn m E e ∧ MemoryKept s.m m
      ∧ BinsBecome m E (some { b with
          state := 2, region := 0, limit := b.pairs.length, gauge := gaugeNamed E e (e.mb 62) f, by_ := (E.act e).map (·.slot) }))
  ∧ ∀ w s E e f, Collective s (.bstat w) E e f →
      ∃ m stamp, Answers (.bstat w) s m ∧ OthersKept s m E (E.act e) ∧ GoesOn m E e ∧ OnlyCrews s.m m
        ∧ ∀ q ∈ E.act e, LaneAfter m E q { q with pend := q.pend ++ results e.vd 2 ((E.c.binning.map binWord).getD 0) stamp true }

/-- R425 and R426. GPASS through a gate that its launch declared, between sides that agree with it, starts a pass of its length and
goes on; through one that it did not declare it traps GATE (39), and with a length that is no multiple of 16 ILLEGAL_OPERAND. -/
def Sys2Proof.Claims.GatePasses : Prop :=
  wl .gpassW .gpassL (fun i => ∀ s E e f gate src dst, Collective s i E e f → b32At e f % 16 = 0 → GateOpen s E e f gate src dst →
    GaugeGood E e (e.mb 59) f →
    ∃ m c o, Answers i s m ∧ OthersKept s m E (E.act e) ∧ GoesOn m E e ∧ MemoryKept s.m m ∧ m.crew E.c.id = some c
      ∧ c.gpasses = E.c.gpasses ++ [o] ∧ o.len = b32At e f ∧ o.at_ = 0 ∧ o.slot = f.slot ∧ o.failed = false
      ∧ o.gauge = gaugeNamed E e (e.mb 59) f ∧ (o.skey, o.dkey, o.scomp, o.dcomp) = (gate.skey, gate.dkey, gate.scomp, gate.dcomp))
  ∧ wl .gpassW .gpassL (fun i => ∀ s E e f, Collective s i E e f → b32At e f % 16 = 0 →
      s.m.gateEntry E.d E.x E.l (e.m 62 60) = none →
      Answers i s ((takeTrap E s.m (lanesMask (E.act e)) 39 fun _ => (lanesMask (E.act e)).toNat).tick E.c.core 1))
  ∧ wl .gpassW .gpassL fun i => ∀ s E e f, Collective s i E e f → b32At e f % 16 ≠ 0 →
      Answers i s ((takeTrap E s.m (lanesMask (E.act e)) 2 fun _ => e.parcel).tick E.c.core 1)

/-- R296 to R299. BINIT of an idle context sets it on the descriptor that it reads; BAPP appends each lane's pair in the lanes'
order where its region has room, and traps BIN_BOUNDS (36) where a lane's index is too large; BREPLAY starts a replay of every
pair held; BSTAT delivers the context's word. R425 and R426. GPASS through a gate that its launch declared, between sides that
agree with it, starts a pass of its length and goes on; through one that it did not declare it traps GATE (39), and with a length
that is no multiple of 16 ILLEGAL_OPERAND. -/
def Obligations.BinsAndGates : Prop := BinningContext ∧ GatePasses

namespace Sys2Proof.Claims

/-! ### Queues and the dispatcher -/

/-- The queue's head record, begun on or not, with the numbers of the record's fields (R328, R329). -/
def HeadIs (s : State) (q : BitVec 14) (head : Head) (r : Nat) : Prop := (s.m.queue q.toNat).head = head ∧ (s.m.queue q.toNat).record = some r

/-- The record at the head is done with, and its completion record is due with a status. -/
def retired (s : State) (q : BitVec 14) (status : Nat) : Mach :=
  s.m.setQueue { s.m.queue q.toNat with head := .retired, status := status, attempt := 0, clocks := 0 }

/-- The range entries of a context keep their table (R364). -/
def RangesGood (s : State) (q : BitVec 14) : Prop :=
  (s.m.view s.dev (s.m.queue q.toNat).fn (s.m.queue q.toNat).ctx).rangesMalformed = false

/-- The header read, as a LAUNCH or ORU record begins (R353). -/
def headerRead (s : State) (q : BitVec 14) (r : Nat) : Mach :=
  if r / 2 ^ 32 % 16 = 1 ∨ r / 2 ^ 32 % 16 = 2 then s.m.beginCtx s.dev (s.m.queue q.toNat).fn (s.m.queue q.toNat).ctx else s.m

/-- The record at the head has begun, and its work can. -/
def admissible (s : State) (q : BitVec 14) (r : Nat) : Mach :=
  (headerRead s q r).setQueue
    { s.m.queue q.toNat with begun := true, head := .ready, readyAt := s.m.dclock, aged := 0, blocking := false }

/-- A write to the queue's page arrives: a host's while the part answers the function, an application core's while those cores run; the
descriptor in memory names the function (R325, R326, R336). -/
def Open (s : State) (fn : BitVec 7) (q : BitVec 14) (app : Bool) : Prop :=
  (if app then s.dev.appUp else s.dev.answers fn.toNat) = true ∧ descFn (s.m.queueDesc s.dev q.toNat) = fn.toNat

end Sys2Proof.Claims

/-- R325 to R327. A whole record written at a submission slot is accepted where the queue is enabled, its sequence number is the
next and the ring has room; else it is refused with the first reason that applies, and the queue goes on. A partial write only
sets its bit. A LAUNCH record takes the context's next serial (R80). A host's writes come while the part answers its function,
and an application core's without a host link, as the model reads the links (log entry 35); the queue is enabled where both its
descriptor and the enable latched at QUEUE_ENABLE say so, which is the model's choice (log entry 29). -/
def Obligations.CaptureOfRecords : Prop :=
  (∀ s fn q slot app (rec : BitVec 512), s.arg = .capture fn q slot true app rec → Open s fn q app →
    let Q := s.m.queue q.toNat
    let seq := rec.toNat % 2 ^ 32
    let enabled := descEnabled (s.m.queueDesc s.dev q.toNat) && Q.enabled
    (enabled = true → seq = (Q.accepted + 1) % 2 ^ 32 → Q.ring.length < 256 →
      ∃ m Q', Answers .capture s m ∧ m.queue q.toNat = Q' ∧ Q'.ring = Q.ring ++ [rec] ∧ Q'.accepted = seq ∧ Q'.completed = Q.completed
        ∧ Q'.refusals = Q.refusals ∧ Q'.head = Q.head ∧ m.crews = s.m.crews ∧ m.launches = s.m.launches
        ∧ Q'.serials = Q.serials ++ [if rec.toNat / 2 ^ 32 % 16 = 1 then (s.m.ctx Q'.ctx).serial + 1 else 0])
    ∧ (∀ why, (enabled = false ∧ why = 3) ∨ (enabled = true ∧ seq ≠ (Q.accepted + 1) % 2 ^ 32 ∧ why = 1)
          ∨ (enabled = true ∧ seq = (Q.accepted + 1) % 2 ^ 32 ∧ 256 ≤ Q.ring.length ∧ why = 2) →
        Answers .capture s (s.m.setQueue
          { Q with refused := seq, refusals := min (Q.refusals + 1) 0xFFFFFFFF, reason := why })))
  ∧ (∀ s fn q slot whole app rec, s.arg = .capture fn q slot whole app rec → ¬ Open s fn q app → Answers .capture s s.m)
  ∧ ∀ s fn q slot app rec, s.arg = .capture fn q slot false app rec → Open s fn q app →
      Answers .capture s (s.m.setQueue { s.m.queue q.toNat with partialSet := true })

/-- R330 to R334 and R336. Enabling a queue starts its counts anew and keeps its ring. The record at the head begins once its
dependence holds, when its context's header is read: it stays at the head meanwhile, nothing changed; an ORU or MARK record that
is malformed in itself, and a LAUNCH record whose context's range entries break their table, completes MALFORMED, and a word that
cannot be read completes it DEPENDENCE. A LAUNCH record becomes admissible or completes MALFORMED; a MARK record completes at
once; and with its completion record written the next record is at the head. The six comparisons. Where an ORU or MARK record
completes MALFORMED, and a LAUNCH of broken range entries before its dependence, is the model's choice (log entry 28), and so is
when the header is read (log entry 55), and that a LAUNCH record that comes to its work while its world closes is KILLED (log
entry 77). -/
def Obligations.RecordsRunInOrder : Prop :=
  (∀ s q, s.arg = .queueEnable q → s.dev.unlockedFn (descFn (s.m.queueDesc s.dev q.toNat)) = true →
    (s.m.queue q.toNat).enabled = false →
    ∃ m Q', Answers .queueEnable s m ∧ m.queue q.toNat = Q' ∧ Q'.enabled = true ∧ Q'.accepted = 0 ∧ Q'.completed = 0 ∧ Q'.refused = 0
      ∧ Q'.refusals = 0 ∧ Q'.reason = 0 ∧ Q'.partialSet = false ∧ Q'.lost = false ∧ Q'.lostseq = 0
      ∧ Q'.ring = (s.m.queue q.toNat).ring ∧ m.crews = s.m.crews)
  ∧ (∀ s q r, s.arg = .dependencePoll q → HeadIs s q .waiting r → (s.m.queue q.toNat).killing = 0 → (s.m.queue q.toNat).ending = 0 →
    depBad r = false → recDepcmp r = 0 →
    (r / 2 ^ 32 % 16 = 1 ∧ RangesGood s q ∨ r / 2 ^ 32 % 16 ≠ 1 ∧ recBad r = false → Answers .dependencePoll s (admissible s q r))
    ∧ (r / 2 ^ 32 % 16 = 1 → ¬ RangesGood s q → Answers .dependencePoll s (retired s q 1))
    ∧ (r / 2 ^ 32 % 16 ≠ 1 → recBad r = true →
        Answers .dependencePoll s ((headerRead s q r).setQueue
          { s.m.queue q.toNat with begun := true, head := .retired, status := 1, attempt := 0, clocks := 0 })))
  ∧ (∀ s q r, s.arg = .dependencePoll q → HeadIs s q .waiting r → (s.m.queue q.toNat).killing = 0 → (s.m.queue q.toNat).ending = 0 →
    depBad r = false → recDepcmp r ≠ 0 → (r / 2 ^ 32 % 16 = 1 → RangesGood s q) →
    let x := s.m.view s.dev (s.m.queue q.toNat).fn (s.m.queue q.toNat).ctx
    let word := fun (locs : List Loc) => leNat (locs.map (s.m.homeRead (x.key s.dev)))
    (s.m.dispPlace s.dev x (recDepaddr r) 4 1 = .none → Answers .dependencePoll s (retired s q 5))
    ∧ (∀ locs, s.m.dispPlace s.dev x (recDepaddr r) 4 1 = .ok locs → depHolds (recDepcmp r) (word locs) (recDepval r) = false →
        Answers .dependencePoll s s.m)
    ∧ (∀ locs, s.m.dispPlace s.dev x (recDepaddr r) 4 1 = .ok locs → depHolds (recDepcmp r) (word locs) (recDepval r) = true →
        r / 2 ^ 32 % 16 = 1 ∨ recBad r = false → Answers .dependencePoll s (admissible s q r)))
  ∧ (∀ w v, w < 2 ^ 32 → v < 2 ^ 32 →
    depHolds 0 w v = true ∧ depHolds 1 w v = decide (w = v) ∧ depHolds 2 w v = decide (w ≠ v) ∧ depHolds 3 w v = decide (v ≤ w)
      ∧ depHolds 4 w v = decide (w < v) ∧ depHolds 5 w v = decide (0 ≤ (BitVec.ofNat 32 w - BitVec.ofNat 32 v).toInt))
  ∧ (∀ s q r, s.arg = .launch q → HeadIs s q .ready r → r / 2 ^ 32 % 16 = 1 →
    let Q := s.m.queue q.toNat
    ((s.dev.fnRec Q.fn).world = .closing → Answers .launch s (retired s q 4))
    ∧ ((s.dev.fnRec Q.fn).world ≠ .closing → recBad r = true ∨ s.m.unfit s.dev (s.m.ctx Q.ctx) = true → Answers .launch s (retired s q 1))
    ∧ ((s.dev.fnRec Q.fn).world ≠ .closing → recBad r = false → s.m.unfit s.dev (s.m.ctx Q.ctx) = false →
        ∃ m l, Answers .launch s m ∧ m.launches = s.m.launches ++ [l] ∧ l.record = BitVec.ofNat 512 r ∧ l.q = q.toNat ∧ l.ctx = Q.ctx
          ∧ l.serial = Q.serials.headD 0 ∧ l.attempt = 0 ∧ l.nextCrew = 0 ∧ l.prio = Q.prio
          ∧ m.queue q.toNat = { Q with head := .running } ∧ m.crews = s.m.crews))
  ∧ (∀ s q r, s.arg = .mark q → HeadIs s q .ready r → r / 2 ^ 32 % 16 = 3 →
    Answers .mark s (retired s q (if (s.m.view s.dev (s.m.queue q.toNat).fn (s.m.queue q.toNat).ctx).ortMalformed then 1 else 0)))
  ∧ ∀ s q r, s.arg = .completionRecord q → HeadIs s q .retired r →
      let Q := s.m.queue q.toNat
      let rel := s.m.writeBackAll.release s.dev Q.ctx 0 5 63 (0, 0)
      let x := rel.1.view s.dev Q.fn Q.ctx
      s.m.memoriesWf = true → rel.2 = true → x.rangesMalformed = false →
      (∀ locs, rel.1.dispPlace s.dev x (recCompl r) 16 2 = .ok locs → locs.length = 16 → locs.Nodup → (∀ l ∈ locs, l.space = .hbm) →
        (r / 2 ^ 32 % 16 = 1 → ∀ i < 8, ∀ p, hbmLinear (Q.ctx + 48 + i) = some p → ∀ l ∈ locs, p / 128 ≠ l.addr / 128) →
        ∃ m d Q', exec .completionRecord s = .next { s with m := m, dev := d } ∧ m.queue q.toNat = Q' ∧ Q'.ring = Q.ring.tail
          ∧ Q'.completed = r % 2 ^ 32 ∧ Q'.head = .waiting ∧ Q'.begun = false ∧ Q'.lost = Q.lost
          ∧ leNat (locs.map (m.homeRead (x.key s.dev)))
              = (r % 2 ^ 32 + 2 ^ 32 * Q.status + 2 ^ 48 * Q.attempt + 2 ^ 64 * Q.clocks) % 2 ^ 128)
      ∧ (rel.1.dispPlace s.dev x (recCompl r) 16 2 = .none →
        ∃ m d Q', exec .completionRecord s = .next { s with m := m, dev := d } ∧ m.queue q.toNat = Q' ∧ Q'.ring = Q.ring.tail
          ∧ Q'.completed = r % 2 ^ 32 ∧ Q'.head = .waiting ∧ Q'.lost = true ∧ Q'.lostseq = r % 2 ^ 32)

namespace Sys2Proof.Claims

/-! ### Residency and admission -/

/-- The ORU record at the head that a step of the ORU acts on (R98, R99). -/
def OruHead (s : State) (q : BitVec 14) (code r : Nat) : Prop :=
  HeadIs s q .ready r ∧ r / 2 ^ 32 % 16 = 2 ∧ oruCode r = code ∧ (s.m.ctx (s.m.queue q.toNat).ctx).ortMalformed = false
    ∧ (code ≠ 2 → oruSlot r < 2 ^ (s.m.ctx (s.m.queue q.toNat).ctx).slotLog)

/-- The slot that the record names, where it is bound. -/
def oruTarget (s : State) (q : BitVec 14) (r : Nat) : Option Slot := (s.m.ctx (s.m.queue q.toNat).ctx).slot (oruSlot r)

/-- No slot of the context is being reclaimed already (R82). -/
def NoneLeaving (s : State) (q : BitVec 14) : Prop := (s.m.ctx (s.m.queue q.toNat).ctx).reclaiming = []

/-- The machine once a fetch of a small object has its space in the pool (R89). -/
def spaceTaken (s : State) (ctx : Nat) (q : Slot) (p : Nat) : Mach :=
  if q.room = none then s.m.reserve s.dev ctx q q.stored (p, q.mapAddr) else s.m

/-- A slot of a context after a step. -/
def SlotAfter (m : Mach) (ctx n : Nat) (P : Slot → Prop) : Prop := ∃ q, (m.ctx ctx).slot n = some q ∧ P q

/-- A lookup that is due and waits on nothing (R85). -/
def LookupDue (s : State) (ctx n : Nat) (q : Slot) : Prop :=
  (s.m.ctx ctx).slot n = some q ∧ q.state = 1 ∧ q.lookup = true ∧ q.wait = []

/-- Where the probes of a lookup begin (R86). -/
def bucketOf (x : Ctx) (q : Slot) : Nat := crc32c ((List.range 8).map fun k => BitVec.ofNat 8 (q.ident.toNat / 256 ^ k)) % 2 ^ x.buckets

end Sys2Proof.Claims

/-- R82, R86 to R91, R98 and R99. EVICT, RECLAIM and WRITEBACK of a slot with no copy, or with nothing to write, complete; EVICT
of a pinned copy waits, and of an object used in place leaves its slot ABSENT. A lookup that finds its entry gives the slot the
entry's fields; one that finds none carries NAME_FAULT (15) to the waiting lanes. A fetch whose bytes and room are there makes
the slot RESIDENT and counts. An eviction under way ends ABSENT, one begun to reclaim the slot UNBOUND. -/
def Obligations.ObjectResidency : Prop :=
  (∀ s q r, s.arg = .evict q → OruHead s q 1 r →
    (∀ t, oruTarget s q r = some t → t.state ≠ 4 ∧ t.state ≠ 5) → Answers .evict s (retired s q 0))
  ∧ (∀ s q r t, s.arg = .evict q → OruHead s q 1 r → oruTarget s q r = some t → t.state = 4 → t.parked ≠ [] → Answers .evict s s.m)
  ∧ (∀ s q r t, s.arg = .evict q → OruHead s q 1 r → oruTarget s q r = some t → t.state = 4 → t.parked = [] → t.cls = 0 →
    t.fetching = none → s.m.accessesInFlight (s.m.queue q.toNat).ctx (oruSlot r) = false →
    s.m.writingBack (s.m.queue q.toNat).ctx (oruSlot r) = false →
    ∃ m, Answers .evict s m ∧ (m.queue q.toNat).head = .retired ∧ (m.queue q.toNat).status = 0
      ∧ SlotAfter m (s.m.queue q.toNat).ctx (oruSlot r) fun u => u = { t with
          state := 2, base := 0, extents := [], mapAddr := 0, dirty := false, written := [], errorPage := none, reclaim := false })
  ∧ (∀ s q r, s.arg = .reclaim q → OruHead s q 2 r → s.m.reclaimable (s.m.queue q.toNat).ctx = [] → NoneLeaving s q →
    Answers .reclaim s (retired s q 0))
  ∧ (∀ s q r n t, s.arg = .reclaim q → OruHead s q 2 r → s.m.reclaimable (s.m.queue q.toNat).ctx = [n] → NoneLeaving s q →
    (s.m.ctx (s.m.queue q.toNat).ctx).slot n = some t → t.state = 2 →
    ∃ m, Answers .reclaim s m ∧ (m.queue q.toNat).head = .retired ∧ (m.queue q.toNat).status = 0
      ∧ Slot.unbound n ∈ (m.ctx (s.m.queue q.toNat).ctx).slots)
  ∧ (∀ s q r, s.arg = .writeback q → OruHead s q 3 r → (∀ t, oruTarget s q r = some t → t.state ≠ 4) →
    Answers .writeback s (retired s q 0))
  ∧ (∀ s ctx (n : BitVec 22) rem q e, s.arg = .nameLookup ctx n rem → LookupDue s ctx n.toNat q →
    s.m.probe s.dev (s.m.ctx ctx) q (bucketOf (s.m.ctx ctx) q) rem (List.range 8) = .found e → q.fetching = none →
    ∃ m, Answers .nameLookup s m ∧ SlotAfter m ctx n.toNat fun u => u = { q with
      state := 2, lookup := false, errorPage := none, home := e / 2 ^ 128 % 2 ^ 64, keyId := e / 2 ^ 56 % 2 ^ 8, ro := e.testBit 55
      cipher := e.testBit 54, cls := e / 2 ^ 52 % 4, size := e % 2 ^ 41 })
  ∧ (∀ s ctx (n : BitVec 22) rem q, s.arg = .nameLookup ctx n rem → LookupDue s ctx n.toNat q →
    s.m.probe s.dev (s.m.ctx ctx) q (bucketOf (s.m.ctx ctx) q) rem (List.range 8) = .absent →
    ∃ m, Answers .nameLookup s m ∧ SlotAfter m ctx n.toNat (fun u => u = { q with lookup := false, fetching := none, errorPage := none })
      ∧ ∀ w ∈ q.parked, ∀ c f, s.m.crew w.1 = some c → c.fibre w.2 = some f →
          ∃ c' f', m.crew w.1 = some c' ∧ c'.fibre w.2 = some f' ∧ f'.carry.name = some (n.toNat, 15))
  ∧ (∀ s ctx (n : BitVec 22) (k : BitVec 19) rem q b p runs, s.arg = .fetchDone ctx n k rem → (s.m.ctx ctx).slot n.toNat = some q →
    q.state = 3 → q.wait = [] → q.large = false →
    s.m.fetchSource s.dev (s.m.ctx ctx) q 0 q.stored rem = .bytes b →
    (q.room = none ∧ (s.m.ctx ctx).poolFit q.stored = some p ∨ ∃ k, q.room = some (p, k)) →
    (spaceTaken s ctx q p).rangeRuns s.dev ((spaceTaken s ctx q p).ctx ctx) 0 p b.length 2 false = .ok runs →
    ∃ m, Answers .fetchDone s m ∧ SlotAfter m ctx n.toNat fun u => u.state = 4 ∧ u.base = p ∧ u.ident = q.ident ∧ u.size = q.size
      ∧ u.fetches = (q.fetches + 1) % 2 ^ 32 ∧ u.fetching = none ∧ u.room = none ∧ u.parked = q.parked)
  ∧ ∀ s ctx (n : BitVec 22) (k : BitVec 19) q, s.arg = .eviction ctx n k → (s.m.ctx ctx).slot n.toNat = some q → q.state = 5 → q.cls = 0 →
      q.fetching = none → s.m.accessesInFlight ctx n.toNat = false → s.m.writingBack ctx n.toNat = false →
      ∃ m, Answers .eviction s m
        ∧ (q.reclaim = false → SlotAfter m ctx n.toNat fun u => u = { q with
            state := 2, base := 0, extents := [], mapAddr := 0, dirty := false, written := [], errorPage := none })
        ∧ (q.reclaim = true → Slot.unbound n.toNat ∈ (m.ctx ctx).slots)

namespace Sys2Proof.Claims

/-- The launch of the queue that the dispatcher serves next, where no aging and no bound comes first (R337 to R340). -/
def Served (s : State) (q : BitVec 14) (l : Launch) : Prop :=
  s.m.dueQueue s.dev = some q.toNat ∧ s.m.headLaunch q.toNat = some l
    ∧ ∀ b ∈ s.m.queues, s.m.dueAge b = false ∧ s.m.dueBlock b = false

/-- A crew as admission starts it (R22, R24, R26, R335, R339). -/
def Starts (s : State) (l : Launch) (core : Nat) (room : Room) (c : Crew) : Prop :=
  c.launch = l.id ∧ c.ctx = l.ctx ∧ c.idx = l.nextCrew ∧ c.core = core ∧ c.slotBase = room.slot ∧ c.limit = l.limit
    ∧ c.nregs = 8 * (l.record.toNat / 2 ^ 66 % 2 ^ 6) ∧ c.scrBase = room.scr ∧ c.scrSize = 128 * (l.record.toNat / 2 ^ 54 % 2 ^ 12)
    ∧ c.image = room.image ∧ c.id = s.m.nextId ∧ c.spawned = 0 ∧ c.bins = []
    ∧ c.fibres.length = l.record.toNat / 2 ^ 84 % 2 ^ 12 ∧ c.gangs.length = (l.record.toNat / 2 ^ 84 % 2 ^ 12 + 31) / 32
    ∧ (∀ (k : Nat) f, c.fibres[k]? = some f → f.slot = k ∧ f.stores = [] ∧ f.pend = [] ∧ f.masked = false ∧ f.inHandler = false)
    ∧ ∀ (k : Nat) g, c.gangs[k]? = some g → g.course = k ∧ g.hdr = 8 * (l.record.toNat / 2 ^ 394 % 2 ^ 54) ∧ g.idx = 0 ∧ g.begun = false

/-- A crew with nothing left to do (R33): no fibre lives and every store has drained, no gang and no bin is left, no cursor runs, no
replay and no channel is under way, every copy is done, and no gate pass or post of it is left. -/
def Finished (s : State) (c : Crew) : Prop :=
  s.m.crew c.id = some c ∧ (∀ f ∈ c.fibres, f.exited = true ∧ f.stores = []) ∧ c.gangs = [] ∧ c.bins = []
    ∧ (∀ h ∈ c.cursors, h.state ≠ 2 ∧ h.state ≠ 3) ∧ (∀ b, c.binning = some b → b.state ≠ 2)
    ∧ (∀ h ∈ c.channels, h.state ≠ 1 ∧ h.state ≠ 2) ∧ (∀ p ∈ c.copies, p.done = true) ∧ c.gpasses = []
    ∧ ∀ p ∈ s.m.posts, p.crew ≠ c.id

/-- A queue's head waits and no crew of it is admitted yet (R337). -/
def Unadmitted (s : State) (Q : Queue) : Prop := ∀ l, s.m.headLaunch Q.q = some l → l.admittedAt = none

/-- A queue whose head has aged one step more (R337): it waits, it is below the cap that its function had when it reached the head,
and 2²⁰ clocks for each step have gone by. -/
def AgesNow (s : State) (Q : Queue) : Prop :=
  (Q.head = .ready ∨ Q.head = .running) ∧ Unadmitted s Q ∧ Q.prio + Q.aged < Q.cap ∧ Q.readyAt + 2 ^ 20 * (Q.aged + 1) ≤ s.m.dclock

/-- A queue whose coresident head has waited its 2²² clocks (R340). -/
def BarsNow (s : State) (Q : Queue) : Prop :=
  Q.head = .running ∧ Q.blocking = false ∧ Unadmitted s Q ∧ Q.readyAt + 2 ^ 22 ≤ s.m.dclock
    ∧ ∃ l, s.m.headLaunch Q.q = some l ∧ l.coresident = true

end Sys2Proof.Claims

/-- R33, R337 to R341, R361 and R390. ADMIT_CREW of the queue that is next admits its launch's next crew to the core, with the
fibres and gangs that the record gives it. Aging raises a waiting head by one level each 2²⁰ clocks, up to its cap; a coresident
head bars others after 2²² clocks. A launch of lower priority is asked to stop for one of higher. A pre-empted crew of a context
that is not held goes on. A crew with nothing left to do is gone, and the launch's last one retires it: that its written bytes
leave the caches then is the model's choice (log entry 79). These are the launches that are not coresident; `DispatcherSteps`
says what the six steps do for every launch. -/
def Obligations.AdmissionAndRetirement : Prop :=
  (∀ s q (k : BitVec 11) l r, s.arg = .admitCrew q k → Served s q l → l.coresident = false → s.m.room s.dev l k.toNat = some r →
    (∀ j ∈ s.m.launches, j.id = l.id → j = l) →
    ∃ m, Answers .admitCrew s m ∧ ∃ c ∈ m.crews, Starts s l k.toNat r c
      ∧ m.crews.map (fun j => (j.id, j.fibres)) = s.m.crews.map (fun j => (j.id, j.fibres)) ++ [(c.id, c.fibres)])
  ∧ (∀ s q, s.arg = .priorityAging q → AgesNow s (s.m.queue q.toNat) →
    Answers .priorityAging s (s.m.setQueue { s.m.queue q.toNat with aged := (s.m.queue q.toNat).aged + 1 }))
  ∧ (∀ s q, s.arg = .priorityAging q → ¬ AgesNow s (s.m.queue q.toNat) → Answers .priorityAging s s.m)
  ∧ (∀ s q, s.arg = .coadmitWait q → BarsNow s (s.m.queue q.toNat) →
    Answers .coadmitWait s (s.m.setQueue { s.m.queue q.toNat with blocking := true }))
  ∧ (∀ s id c q, s.arg = .preemptForPriority id → s.m.crew id = some c → c.stopping = false → c.preempted = false →
    (s.m.launch c.launch).coresident = false →
    q ∈ s.m.queues → s.m.wants q = true → (s.m.launch c.launch).prio < s.m.effective q →
    (∀ k, s.m.headLaunch q.q = some k → k.id ≠ (s.m.launch c.launch).id ∧ k.coresident = false) →
    ∃ m c', Answers .preemptForPriority s m ∧ OnlyCrews s.m m ∧ m.crew id = some c' ∧ c'.preempt = 1 ∧ c'.gangs = c.gangs)
  ∧ (∀ s id c, s.arg = .crewResume id → s.m.crew id = some c → c.preempted = true → c.preempt ≠ 0 → c.stopped = false →
    (s.m.launch c.launch).coresident = false → (s.m.ctx c.ctx).held = false →
    ∃ m c', Answers .crewResume s m ∧ m.crew id = some c' ∧ c'.preempted = false ∧ c'.preempt = 0)
  ∧ (∀ s c l, s.arg = .crewRetire c.id → Finished s c → l ∈ s.m.launches → l.id = c.launch →
    (∀ k ∈ s.m.launches, k.id = l.id → k = l) → l.killed = false → l.failed = false →
    ((∃ k ∈ s.m.crews, k.launch = l.id ∧ k.id ≠ c.id) →
      ∃ m, Answers .crewRetire s m ∧ m.crews = s.m.crews.filter (fun k => k.id != c.id)
        ∧ { l with retired := l.retired + 1 } ∈ m.launches ∧ m.queues = s.m.queues)
    ∧ ((∀ k ∈ s.m.crews, k.launch = l.id → k.id = c.id) → l.retired + 1 = l.ncrews →
      ∃ m, Answers .crewRetire s m ∧ m.crews = s.m.crews.filter (fun k => k.id != c.id) ∧ (∀ k ∈ m.launches, k.id ≠ l.id)
        ∧ (∀ q ∈ m.l1 ++ m.l2, q.dirty = false) ∧ (m.queue l.q).head = .retired ∧ (m.queue l.q).status = 0))

namespace Sys2Proof.Claims

/-- The crews that stop and go on with one: of a coresident launch all, else itself (R40). -/
def Together (s : State) (c e : Crew) : Prop :=
  s.m.crew e.id = some e
    ∧ (e = c ∨ ((s.m.launch c.launch).id = c.launch ∧ (s.m.launch c.launch).coresident = true ∧ e.launch = c.launch))

/-- A queue of another launch, not a coresident one (R340), that waits for admission with a higher priority than a crew's launch
(R341). -/
def Outranked (s : State) (c : Crew) : Prop :=
  ∃ Q ∈ s.m.queues, s.m.wants Q = true ∧ (s.m.launch c.launch).prio < s.m.effective Q
    ∧ ∀ k, s.m.headLaunch Q.q = some k → k.id ≠ (s.m.launch c.launch).id ∧ k.coresident = false

end Sys2Proof.Claims

/-- R33, R40, R309, R337 to R341 and R361: each step of the dispatcher completes. ADMIT_CREW of the queue that is served next has
one crew more run, and ends a coresident launch that can never fit with NOFIT; PRIORITY_AGING raises a head that has aged, and
COADMIT_WAIT lets a coresident head bar others; PREEMPT_FOR_PRIORITY asks a crew that a waiting launch outranks to stop, with all
crews of a coresident launch, and no crew for a coresident one; CREW_RESUME has such crews go on together; CREW_RETIRE takes a
crew that has nothing left to do off its core. -/
def Obligations.DispatcherSteps : Prop :=
  (∀ s q (k : BitVec 11) l r, s.arg = .admitCrew q k → Served s q l → l.coresident = false → s.m.room s.dev l k.toNat = some r →
    (∀ j ∈ s.m.launches, j.id = l.id → j = l) →
    ∃ t, exec .admitCrew s = .next t ∧ t.m.crews.length = s.m.crews.length + 1 ∧ (t.m.launch l.id).nextCrew = l.nextCrew + 1
      ∧ t.m.hbm = s.m.hbm ∧ t.m.host = s.m.host ∧ t.m.ctxs = s.m.ctxs ∧ t.m.tiles = s.m.tiles ∧ t.m.accs = s.m.accs)
  ∧ (∀ s q (k : BitVec 11) l, s.arg = .admitCrew q k → Served s q l → l.coresident = true → s.m.couldFit s.dev l = false →
    let gone : Mach := { s.m with launches := s.m.launches.filter fun j => j.id != l.id }
    let queue := { s.m.queue q.toNat with head := .retired, status := 2, attempt := l.attempt % 2 ^ 16, clocks := 0 }
    exec .admitCrew s = .next { s with m := gone.setQueue queue })
  ∧ (∀ s q, s.arg = .priorityAging q → AgesNow s (s.m.queue q.toNat) →
    exec .priorityAging s = .next { s with m := s.m.setQueue { s.m.queue q.toNat with aged := (s.m.queue q.toNat).aged + 1 } })
  ∧ (∀ s q, s.arg = .coadmitWait q → BarsNow s (s.m.queue q.toNat) →
    exec .coadmitWait s = .next { s with m := s.m.setQueue { s.m.queue q.toNat with blocking := true } })
  ∧ (∀ s id c, s.arg = .preemptForPriority id → s.m.crew id = some c → Outranked s c →
    ∃ t, exec .preemptForPriority s = .next t
      ∧ ∀ e, Together s c e → e.stopped = false → e.preempt = 0 → e.preempted = false →
          ∃ e', t.m.crew e.id = some e' ∧ e'.preempt = 1 ∧ e'.gangs = e.gangs)
  ∧ (∀ s id c, s.arg = .preemptForPriority id → s.m.crew id = some c → ¬ Outranked s c → exec .preemptForPriority s = .next s)
  ∧ (∀ s id c, s.arg = .crewResume id → s.m.crew id = some c → (s.m.crews.map (·.id)).Nodup → (s.m.ctx c.ctx).held = false →
    (∀ e, Together s c e → e.preempted = true ∧ e.preempt ≠ 0 ∧ e.stopped = false) →
    ∃ t, exec .crewResume s = .next t
      ∧ ∀ e, Together s c e → ∃ e', t.m.crew e.id = some e' ∧ e'.preempted = false ∧ e'.preempt = 0)
  ∧ ∀ s c, s.arg = .crewRetire c.id → Finished s c →
      ∃ t, exec .crewRetire s = .next t ∧ t.m.crews = s.m.crews.filter (fun e => e.id != c.id) ∧ (∀ u ∈ t.m.tiles, u.crew ≠ c.id)
        ∧ (∀ b ∈ t.m.sslots, b.crew ≠ c.id) ∧ t.m.scratch = s.m.scratch ∧ t.m.accs = s.m.accs
        ∧ ((∃ e ∈ s.m.crews, e.launch = c.launch ∧ e.id ≠ c.id) → t.m.hbm = s.m.hbm ∧ t.m.l1 = s.m.l1 ∧ t.m.l2 = s.m.l2)

namespace Sys2Proof.Claims

/-! ### Gangs, services and paging -/

/-- A gang at a clause header that may begin it: active, not parked, not held by a debugger, with no stop due (R39, R143, R362). -/
def AtHeader (s : State) (r : GangRef) (E : Env) : Prop :=
  s.m.env s.dev r = some E ∧ E.g.begun = false ∧ E.g.place = .active ∧ E.c.heldByDebugger = false ∧ E.mustPreempt = false
    ∧ (E.g.state = .ready ∨ ∃ own, E.g.state = .held own)

/-- The gang's lanes carry nothing on, and the gang is changed by `h`. -/
def lanesFresh (s : State) (E : Env) (h : Gang → Gang) : Mach :=
  (s.m.updCrew E.c.id fun c => c.mapLanes E.g.course E.g.mask fun f => { f with carry := ⟨none, none⟩ }).updGang E.c.id E.g.id h

/-- The gang of a reference after a step. -/
def GangAfter (m : Mach) (r : GangRef) (P : Gang → Prop) : Prop := ∃ c g, m.crew r.crew = some c ∧ c.gang r.gang = some g ∧ P g

end Sys2Proof.Claims

/-- R29, R35, R141 to R146, R342 and R352. CLAUSE_START checks the clause's structure when its gang has reached the header, and
begins it where its waits hold, or holds the gang. REGROUP's bound joins the gangs that wait at one header. A bin's timer makes
it ready, and it starts where a course is free. A latched pre-emption that has waited 65536 clocks is HANDLER_TIMEOUT (41). An
exchange brings in the pending gang that is due for an active one that may leave. The gang's mask in %tinfo of HANDLER_TIMEOUT,
and that a gang parked for another reason takes it too, are the model's choice (log entry 31). -/
def Obligations.StepsOfGangs : Prop :=
  (∀ s r E, s.arg = .clauseStart r false → AtHeader s r E → E.g.header = 0 →
    (∀ h, s.m.clauseCheck E.d E.x E.cluster E.g.hdr = .ok h →
      Answers .clauseStart s (lanesFresh s E fun g =>
        if s.m.waitsHold E.c E.g h then { g with header := h, begun := true, state := .ready, waited := 0, fetchError := none }
        else { g with header := h, state := .held true, fetchError := none }))
    ∧ ∀ code info, s.m.clauseCheck E.d E.x E.cluster E.g.hdr = .trap code info →
        Answers .clauseStart s (takeTrap E s.m E.g.mask code fun _ => info))
  ∧ (∀ h, h < 2 ^ 64 → (headerCheck h = none ↔ h / 2 ^ 30 % 4 = 2 ∧ h / 2 ^ 32 = 0 ∧ h / 2 ^ 14 % 2 ^ 5 = 0 ∧ 1 ≤ h / 16 % 64 ∧ h / 16 % 64 ≤ 48))
  ∧ (∀ s r c g t, s.arg = .regroupBound r → s.m.crew r.crew = some c → c.gang r.gang = some g → g.state = .regroup t →
    t ≤ s.m.clock c.core →
    ∃ m, Answers .regroupBound s m ∧ OnlyCrews s.m m ∧ GangAfter m r fun g' => g'.state = .ready ∧ g'.hdr = g.hdr ∧ g'.idx = g.idx
      ∧ (∀ k, g.mask.getLsbD k = true → g'.mask.getLsbD k = true)
      ∧ ∀ o ∈ c.gangs, g.meets o = true → o.regrouping = true → ∀ k, o.mask.getLsbD k = true → g'.mask.getLsbD k = true)
  ∧ (∀ s id (n : BitVec 4) c b, s.arg = .springTimerExpiry id n → s.m.crew id = some c → c.stopping = false → b ∈ c.bins →
    b.n = n.toNat → b.ready = false → b.deadline ≤ s.m.clock c.core →
    (c.freeCourse = none → Answers .springTimerExpiry s (s.m.updCrew id fun c =>
      { c with bins := c.bins.map fun q => if q.n = n.toNat then { q with ready := true } else q }))
    ∧ (∀ k, c.freeCourse = some k → c.bins = [b] →
      ∃ m c' g', Answers .springTimerExpiry s m ∧ OnlyCrews s.m m ∧ m.crew id = some c' ∧ c'.bins = [] ∧ g' ∈ c'.gangs
        ∧ g'.course = k ∧ g'.hdr = b.key ∧ g'.idx = 0 ∧ g'.begun = false
        ∧ c'.fibres.length = c.fibres.length + b.fibres.length ∧ ∀ f ∈ c.fibres, f ∈ c'.fibres))
  ∧ (∀ s r E f t, s.arg = .handlerTimeout r → s.m.env s.dev r = some E → f ∈ E.lanes → f.latched = some t →
    t + 65536 ≤ s.m.clock E.c.core → E.g.wake ≠ .ring → (∀ l k, E.g.wake ≠ .fabric l k) →
    Answers .handlerTimeout s (takeTrap E ((s.m.leaveWaits s.dev E.c E.g).updCrew E.c.id fun c =>
      c.mapLanes E.g.course E.g.mask fun f => { f with latched := none }) E.g.mask 41 fun _ => E.g.mask.toNat))
  ∧ ∀ s out inn c p o g, s.arg = .gangExchange out inn → s.m.crew inn.crew = some c → s.m.dueIn c.core = some p →
      (p.1, p.2.id) = (inn.crew, inn.gang) → out ≠ inn → 4 ≤ s.m.placed c.core .active → s.m.crew out.crew = some o → o.core = c.core →
      o.gang out.gang = some g → g.mayLeave = true →
      ∃ m, Answers .gangExchange s m ∧ OnlyCrews s.m m
        ∧ (∀ c' g', m.crew inn.crew = some c' → c'.gang inn.gang = some g' → g'.place = .active ∧ g'.passedOver = 0)
        ∧ ∀ c' g', m.crew out.crew = some c' → c'.gang out.gang = some g' → g'.place = .pending

namespace Sys2Proof.Claims

/-- The ring entry that a doorbell write names (R356). -/
def RingNamed (s : State) (fn : BitVec 7) (token : BitVec 32) (r : RingReq) (c : Crew) : Prop :=
  s.m.rings.find? (fun q => q.token == token.toNat && (s.m.ctx q.ctx).fn == fn.toNat && s.dev.answers fn.toNat) = some r
    ∧ s.m.crew r.crew = some c

/-- The fault record that a doorbell write names, joined by lanes alone (R376). -/
def FaultNamed (s : State) (fn : BitVec 7) (token : BitVec 32) (r : FaultRec) : Prop :=
  s.m.faults.find? (fun q => q.token == token.toNat && q.fn == fn.toNat && q.written && s.dev.answers fn.toNat) = some r
    ∧ ∀ q ∈ r.joined, ∃ c f, q = .lane c f

/-- What a woken gang is: ready, or parked on for the results that its S bit awaits (R159, R358). -/
def onceWoken (c : Crew) (g : Gang) : GangState := if g.sPark = true ∧ c.resultsPending g = true then .parked .switch else .ready

/-- After a fault answer: the record is outstanding no longer, and the gangs parked on it are ready (R376), but for one whose S bit
still awaits results (R159). -/
def FaultAnswered (s : State) (token : BitVec 32) (m : Mach) : Prop :=
  m.faults = s.m.faults.filter (fun q => q.token != token.toNat)
    ∧ ∀ c g, s.m.crew c.id = some c → c.gang g.id = some g → g.wake = .fault token.toNat →
        GangAfter m ⟨c.id, g.id⟩ fun g' => g'.state = onceWoken c g ∧ g'.wake = .none ∧ g'.hdr = g.hdr ∧ g'.idx = g.idx ∧ g'.mask = g.mask

/-- A physical range that lies in the linear window (R363). -/
def Linear (a n : Nat) : Prop := a + n ≤ 48 * (48 * 2 ^ 30)

/-- No 128-byte line holds bytes of both ranges. -/
def LinesApart (a n b k : Nat) : Prop := ∀ i < n, ∀ j < k, (a + i) / 128 ≠ (b + j) / 128

end Sys2Proof.Claims

/-- R225, R354 to R357, R374 to R376. The entries of the gang that stopped first enter the ring where it has room, with the
producer index raised by their number and the service interrupt. A response doorbell of an SVC's last entry gives the lane its
four registers and the gang goes on after the SVC; a kill ends the launch. A fault record is written into its function's queue
where there is room, with its interrupt; a retry or an error answer takes it away and wakes the gangs parked on it, and an error
is carried to its page. That tokens are numbered one after another is the model's choice (log entry 46), and so is that a ring
waits for its host page to be mapped (log entry 80). -/
def Obligations.ServicesAndFaultRecords : Prop :=
  (∀ s r E, s.arg = .requestRingWrite r → s.m.env s.dev r = some E → E.c.requests E.g ≠ [] →
    let prod := s.m.headerNat s.dev E.x 0x70 4
    let used := (prod + 2 ^ 32 - s.m.headerNat s.dev E.x 0x74 4) % 2 ^ 32
    let n := (E.c.requests E.g).length
    used + n ≤ 2 ^ (E.x.ring.toNat % 32) →
    (∀ i < n, s.m.ringOpen s.dev E.x.viaRing (E.x.ringBase + 64 * ((prod + i) % 2 ^ (E.x.ring.toNat % 32))) 64 = true) → Linear E.x.addr 0x80 → s.m.memoriesWf = true →
    (∀ c ∈ s.m.crews, c.ctx = E.x.addr → ∀ g ∈ c.gangs, g.ringWait ≠ none → E.g.ringAt ≤ g.ringAt) →
    ∃ m l, Answers .requestRingWrite s m ∧ m.rings = s.m.rings ++ l ∧ l.length = n
      ∧ (∀ q ∈ l, q.ctx = E.x.addr ∧ q.crew = E.c.id ∧ q.gang = E.g.id) ∧ m.headerNat s.dev E.x 0x70 4 = (prod + n) % 2 ^ 32
      ∧ (E.x.fn, 1) ∈ m.irqs ∧ m.nextToken = (s.m.nextToken + n) % 2 ^ 32 ∧ GangAfter m r fun g => g = { E.g with ringWait := none })
  ∧ (∀ s fn token r c f g, s.arg = .responseDoorbell fn token → RingNamed s fn token r c → r.kind = 1 → c.preempted = false →
    c.fibre r.slot = some f → c.gang r.gang = some g →
    (∀ q ∈ s.m.rings, q.token ≠ token.toNat → ¬ (q.crew = r.crew ∧ q.gang = r.gang)) →
    ∃ m c', Answers .responseDoorbell s m ∧ m.rings = s.m.rings.filter (fun q => q.token != token.toNat) ∧ m.crew r.crew = some c'
      ∧ c'.fibre r.slot = some (f.setVal r.vd 4 (s.m.response s.dev r))
      ∧ GangAfter m ⟨r.crew, r.gang⟩ fun g' => g'.state = onceWoken c g ∧ g'.wake = .none ∧ g'.hdr = g.bump.hdr ∧ g'.idx = g.bump.idx)
  ∧ (∀ s fn token r c l, s.arg = .responseDoorbellKill fn token → RingNamed s fn token r c →
    s.m.launches.find? (fun q => q.id == c.launch) = some l → l.killed = false →
    ∃ m, Answers .responseDoorbellKill s m ∧ (∀ q ∈ m.launches, q.id = c.launch → q.killed = true)
      ∧ (∀ q ∈ m.crews, q.launch = c.launch → q.stopped = true) ∧ ∀ q ∈ m.rings, q.token ≠ token.toNat)
  ∧ (∀ s fn token r, s.arg = .faultDoorbellRetry fn token → FaultNamed s fn token r →
    ∃ m, Answers .faultDoorbellRetry s m ∧ FaultAnswered s token m)
  ∧ (∀ s fn token r, s.arg = .faultDoorbellError fn token → FaultNamed s fn token r →
    ∃ m, Answers .faultDoorbellError s m ∧ FaultAnswered s token m
      ∧ ∀ id slot, Requester.lane id slot ∈ r.joined → ∀ c f, s.m.crew id = some c → c.fibre slot = some f →
          ∃ c' f', m.crew id = some c' ∧ c'.fibre slot = some f' ∧ f'.carry.errorPage = some (r.va / 4096) ∧ f'.regs = f.regs)
  ∧ ∀ s (fn : BitVec 7) r, s.arg = .faultQueueWrite fn →
      s.m.faults.find? (fun q => q.fn == fn.toNat && !q.written) = some r →
      let at_ := s.dev.faultTable + 32 * fn.toNat
      let desc := s.m.physNat (s.dev.fnKey 0) at_ 32
      let prod := desc / 2 ^ 128 % 2 ^ 32
      let cell := desc / 2 ^ 192 + 32 * (prod % 2 ^ (desc % 32))
      6 ≤ desc % 32 → desc % 32 ≤ 16 → (prod + 2 ^ 32 - desc / 2 ^ 160 % 2 ^ 32) % 2 ^ 32 < 2 ^ (desc % 32) → desc.testBit 5 = false →
      s.m.memoriesWf = true → Linear at_ 32 → Linear cell 32 → LinesApart cell 32 (at_ + 16) 4 →
      ∃ m, Answers .faultQueueWrite s m ∧ (fn.toNat, 0) ∈ m.irqs
        ∧ m.faults = s.m.faults.map (fun q => if q.token = r.token then { q with written := true } else q)
        ∧ m.physNat (s.dev.fnKey fn.toNat) cell 32 = r.word ((prod + 1) % 2 ^ 32) % 2 ^ 256
        ∧ m.physNat (s.dev.fnKey 0) (at_ + 16) 4 = (prod + 1) % 2 ^ 32

namespace Sys2Proof.Claims

/-- Whether a page of a translation cache is one that an invalidation descriptor names (R378). -/
def invalidated (desc : BitVec 256) (t : Tlb) : Bool :=
  t.ctx == 4096 * (desc.toNat / 2 ^ 19 % 2 ^ 45)
    && (desc.toNat / 2 ^ 64 % 2 ^ 64 == 0
      || (decide (t.page < desc.toNat / 2 ^ 128 % 2 ^ 64 + 4096 * (desc.toNat / 2 ^ 64 % 2 ^ 64))
        && decide (desc.toNat / 2 ^ 128 % 2 ^ 64 < t.page + t.size)))

/-- What an invalidation descriptor must be to be carried out (R378). -/
def invalGood (s : State) (fn : Nat) (desc : BitVec 256) : Bool :=
  desc.toNat % 8 == 0 && desc.toNat / 2 ^ 192 % 8 == 0 && desc.toNat / 2 ^ 128 % 4096 == 0
    && (fn == 0 || s.m.ownedBy s.dev (4096 * (desc.toNat / 2 ^ 19 % 2 ^ 45)) fn)

/-- The place of an access to the page of a leaf (R363, R394, R396). -/
def placeOf (s : State) (ctx : Nat) (l : Leaf) (va access : Nat) : XRes :=
  s.m.intoSpace s.dev (s.m.ctx ctx) l.cls (l.frame + (va - l.page)) access l.level l.cipher l.keyId none

def AnswersDev (i : Instr) (s : State) (d : Dev) : Prop := exec i s = .next { s with dev := d }

end Sys2Proof.Claims

/-- R360, R372, R378, R379 and R389 to R391. The pre-emption register asks every crew of its context to stop and holds its
admissions, and holds them no longer. An invalidation joins its function's others; one that is not carried out answers with bit
62; one of a context without crews, whose written bytes are home, takes every page named from the translation caches and no page
of another context. A walk that succeeds fills the cluster's cache, and one that fails, for its permission or its place too,
leaves nothing there: that PAGE_WALK itself does no more, and the access that asks takes the fault, is the model's choice (log
entry 33). The table registers take an aligned address in HBM from the PF alone. -/
def Obligations.ManagementRegistersAndWalks : Prop :=
  (∀ s (fn : BitVec 7) (a : BitVec 45), s.arg = .preemptionPreempt fn a → s.dev.answers fn.toNat = true →
    s.m.ownedBy s.dev (4096 * a.toNat) fn.toNat = true →
    ∃ m, Answers .preemptionPreempt s m ∧ (m.ctx (4096 * a.toNat)).held = true
      ∧ (∀ c, m.crew c.id = some c → c.ctx = 4096 * a.toNat → c.stopping = true)
      ∧ ((∀ c ∈ s.m.crews, c.ctx = 4096 * a.toNat → c.preempted = false) → m.hbm = s.m.hbm))
  ∧ (∀ s (fn : BitVec 7) (a : BitVec 45), s.arg = .preemptionResume fn a → s.dev.answers fn.toNat = true →
    s.m.ownedBy s.dev (4096 * a.toNat) fn.toNat = true → (s.m.crews.map (·.id)).Nodup → (∀ c ∈ s.m.crews, c.ctx = 4096 * a.toNat → c.preempted = true) →
    Answers .preemptionResume s (s.m.setCtx { s.m.ctx (4096 * a.toNat) with held := false }))
  ∧ (∀ s (fn : BitVec 7) desc, s.arg = .invalidation fn desc → s.dev.answers fn.toNat = true →
    Answers .invalidation s { s.m with invals := s.m.invals ++ [⟨fn.toNat, desc, invalGood s fn.toNat desc⟩] })
  ∧ (∀ s (fn : BitVec 7) v, s.arg = .invalidationComplete fn → s.m.invals.find? (fun q => q.fn == fn.toNat) = some v →
    (v.ok = false →
      Answers .invalidationComplete s (({ s.m with invals := s.m.invals.erase v } : Mach).physWrite (s.dev.fnKey fn.toNat)
        (v.desc.toNat / 2 ^ 192) (bytesOfWord 8 (v.desc.toNat / 8 % 2 ^ 16 + 2 ^ 62))))
    ∧ (v.ok = true → (∀ c ∈ s.m.crews, c.ctx ≠ 4096 * (v.desc.toNat / 2 ^ 19 % 2 ^ 45)) →
      (s.m.writeBackAll.homeContext s.dev fn.toNat (4096 * (v.desc.toNat / 2 ^ 19 % 2 ^ 45))).2 = true →
      ∃ m, Answers .invalidationComplete s m ∧ m.invals = s.m.invals.erase v
        ∧ m.tlb = s.m.tlb.filter fun t => !invalidated v.desc t))
  ∧ (∀ s q (va : BitVec 57) acc ctx core l, s.arg = .pageWalk q va acc → s.m.requesterPlace q = some (ctx, core) → 4096 ≤ va.toNat →
    (∀ r ∈ (s.m.ctx ctx).ranges, ¬ (r.base ≤ va.toNat ∧ va.toNat < r.limit)) → (s.m.ctx ctx).root ≠ 0 →
    s.m.walk s.dev (s.dev.fnKey (s.m.ctx ctx).fn) va.toNat (s.m.ctx ctx).root [4, 3, 2, 1, 0] = .leaf l →
    (∀ t ∈ s.m.tlb, ¬ (t.cluster = core / 4 ∧ t.ctx = ctx ∧ t.page ≤ va.toNat ∧ va.toNat < t.page + t.size)) →
    (permits l.perm acc.toNat = true → (∃ p, placeOf s ctx l va.toNat acc.toNat = .ok p) →
      Answers .pageWalk s
        { s.m with tlb := ⟨core / 4, ctx, l.page, l.size, l.frame, l.cls, l.cipher, l.perm, l.keyId, l.level⟩ :: s.m.tlb })
    ∧ ((permits l.perm acc.toNat = false ∨ ∀ p, placeOf s ctx l va.toNat acc.toNat ≠ .ok p) → Answers .pageWalk s s.m))
  ∧ (∀ s q (va : BitVec 57) acc ctx core cause level, s.arg = .pageWalk q va acc → s.m.requesterPlace q = some (ctx, core) →
    s.m.walk s.dev (s.dev.fnKey (s.m.ctx ctx).fn) va.toNat (s.m.ctx ctx).root [4, 3, 2, 1, 0] = .fault cause level →
    Answers .pageWalk s s.m)
  ∧ (∀ s (fn : BitVec 7) (off : BitVec 16) (v : BitVec 128), s.arg = .registerWrite fn off 8 v → s.dev.answers fn.toNat = true →
    (fn = 0 → v.toNat % 4096 = 0 → Linear v.toNat 1 →
      (off = 0x10 → AnswersDev .registerWrite s { s.dev with queueTable := v.toNat })
      ∧ (off = 0x18 → AnswersDev .registerWrite s { s.dev with fnTable := v.toNat })
      ∧ (off = 0x20 → AnswersDev .registerWrite s { s.dev with faultTable := v.toNat }))
    ∧ (fn = 0 → v.toNat % 4096 ≠ 0 → off = 0x10 ∨ off = 0x18 ∨ off = 0x20 → AnswersDev .registerWrite s s.dev)
    ∧ (fn ≠ 0 → off.toNat < 0x7FF8 → AnswersDev .registerWrite s s.dev))

namespace Sys2Proof.Claims

/-! ### The engines at work -/

/-- An engine's write of bytes at HBM places that belong to no object, for a key: these bytes are there and no other byte of HBM as
this key sees it has changed. -/
def EngineWrites (s : State) (k : Key) (locs : List Loc) (b : List Byte) (m : Mach) : Prop :=
  locs.map (m.homeRead k) = b ∧ (∀ q, (⟨.hbm, q⟩ : Loc) ∉ locs → m.hbmRead k q = s.m.hbmRead k q)

/-- A scratchpad range without a gauge in it, of a machine whose memories are in their canonical form. -/
def PlainScratch (s : State) (a n : Nat) : Prop :=
  s.m.memoriesWf = true ∧ ∀ i < n, ¬ s.m.gauges.contains ((a + i) / 16 * 16)

/-- A crew whose engines go on: it is neither pre-empted nor ended (R357, R361). -/
def Runs (s : State) (id : Nat) (c : Crew) : Prop := s.m.crew id = some c ∧ c.preempted = false ∧ c.stopped = false

/-- A copy that CPA_COPY_DONE ends, from a source of this device. -/
def CopyOf (s : State) (crew id : Nat) (c : Crew) (p : CpaCopy) : Prop :=
  s.m.crew crew = some c ∧ c.copies.find? (fun q => q.id == id && !q.done) = some p ∧ (∀ r ∈ p.src, r.fab = none)
    ∧ (runLocs p.src).length = p.size

/-- A copy that CPA_COPY_DONE ends, from another device. -/
def FarCopy (s : State) (crew id : Nat) (c : Crew) (p : CpaCopy) : Prop :=
  s.m.crew crew = some c ∧ c.copies.find? (fun q => q.id == id && !q.done) = some p ∧ (∃ r ∈ p.src, r.fab ≠ none)

/-- Whether a copy's source can be read to its end: no byte is unreadable, and no chip-window byte has left its context. -/
def Readable (s : State) (c : Crew) (p : CpaCopy) : Prop :=
  (runLocs p.src).any s.dev.unreadable = false ∧ s.m.ownsRuns c.ctx p.src = true

/-- A copy that failed: the scratchpad is as it was and its fibre has one copy error more. -/
def CopyFails (s : State) (crew : Nat) (c : Crew) (p : CpaCopy) : Prop :=
  ∃ m, Answers .cpaCopyDone s m ∧ m.scratch = s.m.scratch
    ∧ ∀ f, c.fibre p.slot = some f → ∃ c' f', m.crew crew = some c' ∧ c'.fibre p.slot = some f' ∧ f'.copyErrs = f.copyErrs + 1

/-- A gauge beside a scratchpad range, and the amount of an arrival that counts events in unit 0 and bytes in unit 1 (R110). -/
def GaugeApart (s : State) (g a n : Nat) : Prop := (s.m.gauge g).valid = true ∧ (g + 16 ≤ a ∨ a + n ≤ g)
def amount (g : Gauge) (events bytes : Nat) : Nat := if g.unit then bytes else events

/-- A channel at work, with nothing to wait for. -/
def ChannelOf (s : State) (crew ch : Nat) (c : Crew) (h : Channel) : Prop :=
  Runs s crew c ∧ c.channel ch = some h ∧ (h.state = 1 ∨ h.state = 2) ∧ h.wait = []

/-- The same as it stands once the tokens that have lapsed by now are gone (R410). -/
def Lapsed (s : State) (crew ch : Nat) (c : Crew) (h : Channel) : Prop :=
  ∃ h0, ChannelOf s crew ch c h0 ∧ h = h0.lapse s.m.dclock

/-- The context as a channel, a cursor or the binning engine of a crew translates through it (R379). -/
def through (s : State) (c : Crew) (kind n : Nat) : Ctx := (s.m.ctx c.ctx).askedBy (engineAsker c.id kind n)

/-- The channel after a step. -/
def ChannelAfter (m : Mach) (crew ch : Nat) (P : Channel → Prop) : Prop := ∃ c h, m.crew crew = some c ∧ c.channel ch = some h ∧ P h

/-- The matrix post that a step is about. -/
def PostOf (s : State) (id : Nat) (p : Post) : Prop := s.m.posts.find? (fun q => q.id == id) = some p

/-- The order of grants (R263): a post that has waited more than 4096 clocks first, then the higher priority, then the older. -/
def Aged (s : State) (p : Post) : Prop := p.aged = true ∨ p.entered + 4096 < s.m.clock p.core
def Precedes (s : State) (p q : Post) : Prop :=
  (Aged s p ∧ ¬ Aged s q) ∨ ((Aged s p ↔ Aged s q) ∧ (q.prio < p.prio ∨ (p.prio = q.prio ∧ p.id ≤ q.id)))

/-- Where a tile's element stands (R266). -/
def elementAt (core n lane col : Nat) : Nat := core * 2 ^ 14 + n * 2 ^ 12 + lane * 128 + col

/-- The entry of a post has left the table, and its arrival has come (R110, R264). -/
def PostOver (s : State) (id : Nat) (p : Post) (m : Mach) : Prop :=
  m.posts = s.m.posts.filter (fun q => q.id != id)
  ∧ ∀ g, p.gauge = some g → (s.m.gauge g).valid = true → s.m.memoriesWf = true → m.gauge g = arrives (s.m.gauge g) (amount (s.m.gauge g) 1 0)

end Sys2Proof.Claims

/-- R246, R248, R251 to R254 and R401. CPA_COPY_DONE brings a copy's bytes into the scratchpad, or counts a copy error where a
byte cannot be read, and its gauge gets the arrival of the last copy of an execution. A channel reads its record, moves a
packet's bytes and finishes a record whose bytes have all moved: its word says so, its gauge gets the arrival, and the next
record follows. That a bad window entry gives status 6 (log entry 17), that an arrival looks at the valid bit alone (log entry
24) and that a copy of chip-window bytes which another context has got meanwhile fails (log entry 69) are the model's choices. -/
def Obligations.CopiesAndTransfersEnd : Prop :=
  (∀ s crew id remote err c p, s.arg = .cpaCopyDone crew id remote err → CopyOf s crew id c p →
    (Readable s c p → PlainScratch s p.dst p.size → p.gauge = none →
      ∃ m, Answers .cpaCopyDone s m
        ∧ m.scratch.bytes p.dst p.size = (runLocs p.src).map (s.m.homeRead ((s.m.ctx c.ctx).key s.dev))
        ∧ (∀ a, a < p.dst ∨ p.dst + p.size ≤ a → m.scratch.read a = s.m.scratch.read a)
        ∧ (c.preempted = false → m.hbm = s.m.hbm))
    ∧ (Readable s c p → PlainScratch s p.dst p.size →
      ∀ g, p.gauge = some g → GaugeApart s g p.dst p.size → c.copies.filter (fun q => q.exec == p.exec && q.gauge == p.gauge) = [p] →
        ∃ m, Answers .cpaCopyDone s m ∧ m.gauge g = arrives (s.m.gauge g) (amount (s.m.gauge g) 1 p.size))
    ∧ (¬ Readable s c p → p.gauge = none → CopyFails s crew c p))
  ∧ (∀ s crew id remote err c p, s.arg = .cpaCopyDone crew id remote err → FarCopy s crew id c p → p.gauge = none →
    (∀ l, remote = some l → err = false → p.size ≤ l.length → s.dev.reaches p.src = true → s.m.ownsRuns c.ctx p.src = true →
      PlainScratch s p.dst p.size →
      ∃ m, Answers .cpaCopyDone s m ∧ m.scratch.bytes p.dst p.size = l.take p.size
        ∧ ∀ a, a < p.dst ∨ p.dst + p.size ≤ a → m.scratch.read a = s.m.scratch.read a)
    ∧ (remote = none ∨ err = true ∨ s.dev.reaches p.src = false → CopyFails s crew c p))
  ∧ (∀ s crew (ch : BitVec 3) n c h runs, s.arg = .transferPacket crew ch n → Lapsed s crew ch.toNat c h → h.body = none →
    s.m.rangeRuns s.dev (through s c 1 ch.toNat) (c.core / 4) h.record 64 1 true = .ok runs → (runLocs runs).any s.dev.unreadable = false →
    let r := leNat ((runLocs runs).map (s.m.homeRead ((s.m.ctx c.ctx).key s.dev)))
    let form := s.m.recStatus s.dev (through s c 1 ch.toNat) c r
    let entry := s.m.recRkey s.dev (through s c 1 ch.toNat) (c.core / 4) r
    (r.testBit 383 = false →
      Answers .transferPacket s (s.m.setChannel c.id { h with state := 0, moved := 0, sent := 0 }))
    ∧ (r.testBit 383 = true → (∀ va cause level, entry ≠ some (.fault va cause level)) →
      ∃ m, Answers .transferPacket s m ∧ m.hbm = s.m.hbm ∧ m.scratch = s.m.scratch
        ∧ ChannelAfter m c.id ch.toNat fun g => g.state = 1 ∧ g.body = some (BitVec.ofNat 512 r) ∧ g.moved = h.moved
            ∧ g.record = h.record ∧ (entry = none → g.status = form) ∧ (∀ rk, entry = some (.ok rk) → g.status = form ∧ g.rkey = rk)
            ∧ (entry = some .bad → g.status = if form = 1 then 1 else 6)
            ∧ (entry = some .unreadable → g.status = if form = 1 then 1 else 10)))
  ∧ (∀ s crew (ch : BitVec 3) n c h body sa da, s.arg = .transferPacket crew ch n → Lapsed s crew ch.toNat c h → h.body = some body →
    h.status = 0 → s.m.fabOut = [] → recRekey body.toNat = false →
    let k := h.packetLen body.toNat n.toNat
    k ≠ 0 → h.sent < recLen body.toNat → h.moved = h.sent → s.m.issuesAfter c h = false →
    s.m.side s.dev (through s c 1 ch.toNat) (c.core / 4) h (recSrc body.toNat) (recLen body.toNat) h.sent k 1 = .ok sa →
    s.m.side s.dev (through s c 1 ch.toNat) (c.core / 4) h (recDst body.toNat) (recLen body.toNat) h.sent k 2 = .ok da →
    sa.fab = none → da.fab = none → InHbm s da k → (runLocs sa.runs).length = k → (∀ r ∈ da.runs, r.loc.space = .hbm) →
    let key := (s.m.ctx c.ctx).key s.dev
    ∃ m, Answers .transferPacket s m ∧ EngineWrites s key (runLocs da.runs) ((runLocs sa.runs).map (s.m.homeRead key)) m
      ∧ ChannelAfter m c.id ch.toNat fun g => g = { h with
          state := 1, sent := h.sent + k, moved := h.moved + k, grants := g.grants, want := none, lost := false, errorPage := none })
  ∧ ∀ s crew (ch : BitVec 3) c h body runs, s.arg = .transferRecordDone crew ch → ChannelOf s crew ch.toNat c h → h.body = some body →
      h.status = 0 → s.m.packetsOut crew ch.toNat = false → recLen body.toNat ≤ h.moved → s.m.memoriesWf = true →
      s.m.rangeRuns s.dev (through s c 1 ch.toNat) (c.core / 4) h.record 64 2 true = .ok runs → (runLocs runs).length = 64 → (runLocs runs).Nodup →
      (∀ l ∈ runLocs runs, l.space = .hbm) →
      (recNamesGauge body.toNat = true →
        ∃ g, s.m.recGauge s.dev (through s c 1 ch.toNat) c body.toNat = some g ∧ (s.m.gauge g).valid = true) →
      ∃ m w, Answers .transferRecordDone s m
        ∧ w = leNat ((runLocs runs).map (m.homeRead ((s.m.ctx c.ctx).key s.dev)))
        ∧ w % 2 ^ 383 = body.toNat % 2 ^ 383 ∧ w.testBit 383 = false ∧ w / 2 ^ 384 % 2 ^ 56 = body.toNat / 2 ^ 384 % 2 ^ 56
        ∧ w / 2 ^ 440 % 2 ^ 8 = 0 ∧ w / 2 ^ 448 = h.moved % 2 ^ 64
        ∧ (∀ g, recNamesGauge body.toNat = true → s.m.recGauge s.dev (through s c 1 ch.toNat) c body.toNat = some g →
            m.gauge g = arrives (s.m.gauge g) (amount (s.m.gauge g) 1 (recLen body.toNat)))
        ∧ ChannelAfter m c.id ch.toNat fun g => g.body = none ∧ g.moved = 0
            ∧ (recNext body.toNat = 0 → g.state = 0) ∧ (recNext body.toNat ≠ 0 → g.state = 1 ∧ g.record = recNext body.toNat)

/-- R263, R264, R268, R273, R277, R279 and R286. POST_GRANT starts the post that comes first, unless an earlier one that shares a
tile or slot, or a pair post of the partner core, holds it up. POST_AGE ages a post that has waited more than 4096 clocks.
MATRIX_STEP adds one step's sums to every element of the active rows, rounding or wrapping each once, and nothing to others.
POST_DONE ends a post: its work, its entry and its arrival. That a post's work falls when it is done (log entry 23) and that an
arrival looks at the valid bit alone (log entry 24) are the model's choices. -/
def Obligations.PostsRun : Prop :=
  (∀ s id p, s.arg = .postGrant id → PostOf s id p → p.started = false → s.m.postRuns p = true →
    ((∀ q ∈ s.m.posts, q.id < p.id → p.shares q = false) → s.m.pairedAway p.core = false → s.m.postStale p = false →
      (∀ k ∈ p.cores, k ≠ p.core → ∀ q ∈ s.m.posts, q.started = true → q.stopped = false → k ∉ q.cores) →
      (p.isMma = true → ∀ k ∈ p.cores, s.m.arrayBusy k = false) →
      (∀ q ∈ s.m.posts, s.m.postReady q = true → q.cores.any p.cores.contains = true → Precedes s p q) →
      ∃ m, Answers .postGrant s m ∧ m = { s.m with posts := m.posts, tiles := m.tiles } ∧ (p.isMma = false → m.tiles = s.m.tiles)
        ∧ m.posts = s.m.posts.map fun q => if q.id = id then { q with started := true, stopped := false } else q)
    ∧ ((∃ q ∈ s.m.posts, q.id < p.id ∧ p.shares q = true) ∨ s.m.pairedAway p.core = true ∨ s.m.postStale p = true → Answers .postGrant s s.m))
  ∧ (∀ s id, s.arg = .postAge id →
    Answers .postAge s { s.m with
      posts := s.m.posts.map fun q => if q.id = id ∧ q.entered + 4096 < s.m.clock q.core then { q with aged := true } else q })
  ∧ (∀ s id p n w sat ftzi ftzo a bbm ks b, s.arg = .matrixStep id → PostOf s id p → p.op = .mma w sat ftzi ftzo a bbm →
    p.started = true → p.stopped = false → s.m.postRuns p = true → p.pair = false → p.acc = some n →
    (stepList w a bbm)[p.step]? = some ks → s.m.sslots.find? (fun q => q.core == p.core && some q.n == p.sslot) = some b →
    ((aRows a).map (·.lane)).Nodup → s.m.memoriesWf = true →
    ∃ m, Answers .matrixStep s m ∧ m = { s.m with posts := m.posts, tiles := m.tiles, accs := m.accs }
      ∧ m.posts = s.m.posts.map (fun q => if q.id = id then { q with step := p.step + 1 } else q)
      ∧ (m.tile p.core n).step = p.step + 1
      ∧ (∀ r ∈ aRows a, ∀ c < 128, wordAt m.accs (elementAt p.core n r.lane c) = BitVec.ofNat 32
          (stepAdd (wInt w) sat ftzo (wordAt s.m.accs (elementAt p.core n r.lane c)).toNat (stepSum w ftzi r b.codes b.scales c ks)).1)
      ∧ ∀ i, (∀ r ∈ aRows a, ∀ c < 128, i ≠ elementAt p.core n r.lane c) → wordAt m.accs i = wordAt s.m.accs i)
  ∧ (∀ sat ftzo (acc : Word) (v : Int), (stepAdd true sat ftzo acc.toNat (Machine.Num.ofInt v)).1
      = (BitVec.ofInt 32 (if sat then max (-(2 ^ 31)) (min (2 ^ 31 - 1) (acc.toInt + v)) else acc.toInt + v)).toNat)
  ∧ (∀ w ftzi r codes scales c ks, (∀ k ∈ ks, finite (stepValue (wAfmt w) 0 ftzi (codeAt (wAfmt w) r.codes k))
        ∧ finite (stepValue (wBfmt w) 0 ftzi (codeAt (wBfmt w) codes (c * wK w + k)))) → wordOk false w = true → wScale w = 0 →
      value (stepSum w ftzi r codes scales c ks)
        = (ks.map fun k => value (stepValue (wAfmt w) 0 ftzi (codeAt (wAfmt w) r.codes k))
            * value (stepValue (wBfmt w) 0 ftzi (codeAt (wBfmt w) codes (c * wK w + k)))).sum)
  ∧ (∀ s id p w sat ftzi ftzo a bbm, s.arg = .postDone id → PostOf s id p → p.op = .mma w sat ftzi ftzo a bbm → p.started = true →
    (p.step < (stepList w a bbm).length → Answers .postDone s s.m)
    ∧ ((stepList w a bbm).length ≤ p.step → ∃ m, Answers .postDone s m ∧ PostOver s id p m ∧ m.accs = s.m.accs))
  ∧ (∀ s id p n int, s.arg = .postDone id → PostOf s id p → p.op = .azero int false → p.started = true → p.worked = false →
    p.acc = some n → s.m.fabOut = [] →
    ∃ m, Answers .postDone s m ∧ PostOver s id p m ∧ ∀ k ∈ p.cores, ∀ lane < 32, ∀ c < 128, wordAt m.accs (elementAt k n lane c) = 0)
  ∧ ∀ s id p c data dst, s.arg = .postDone id → PostOf s id p → p.op = .dq data dst → p.started = true → p.worked = false →
      p.gauge = none → s.m.fabOut = [] → s.m.crew p.crew = some c → s.m.memoriesWf = true → dst.object = none →
      (∀ r ∈ dst.runs, r.fab = none) → (runLocs dst.runs).length = data.length → (runLocs dst.runs).Nodup →
      (∀ l ∈ runLocs dst.runs, l.space = .hbm) →
      ∃ m, Answers .postDone s m ∧ PostOver s id p m ∧ EngineWrites s ((s.m.ctx c.ctx).key s.dev) (runLocs dst.runs) data m

namespace Sys2Proof.Claims

/-- A cursor at work in a crew that goes on (R291). -/
def CursorOf (s : State) (crew n : Nat) (c : Crew) (h : Cursor) : Prop :=
  Runs s crew c ∧ c.cursor n = some h ∧ (h.state = 2 ∨ h.state = 3) ∧ h.wait = []

/-- Who reads a cursor's streams. -/
def readerOf (s : State) (c : Crew) (h : Cursor) : Reader := ⟨s.dev, through s c 2 h.n, c.core / 4, ⟨none, h.errorPage⟩, h.lost⟩

/-- The coordinates at which the cursor's two streams stand. -/
def Heads (s : State) (c : Crew) (h : Cursor) (a b : Machine.Next) : Prop :=
  s.m.nextCoord (readerOf s c h) true h.a = a ∧ s.m.nextCoord (readerOf s c h) true h.b = b

/-- No page of host memory that a pass reads or writes has to be mapped again first (R395). -/
def PassMapped (s : State) (c : Crew) (o : GpassOp) : Prop :=
  (∀ r ∈ o.src ++ o.srcTags ++ o.srcRest, s.m.staleRun (s.m.ctx c.ctx).fn false r = false)
  ∧ ∀ r ∈ o.dst ++ o.dstTags ++ o.dstRest, s.m.staleRun (s.m.ctx c.ctx).fn true r = false

def CursorAfter (m : Mach) (crew n : Nat) (P : Cursor → Prop) : Prop := ∃ c h, m.crew crew = some c ∧ c.cursor n = some h ∧ P h

/-- A fibre with four registers is the last of the bin of an entry (R35, R291). -/
def PlacedAt (m : Mach) (crew entry : Nat) (regs : List Word) : Prop :=
  ∃ c b, m.crew crew = some c ∧ b ∈ c.bins ∧ b.key = entry ∧ ∃ f, b.fibres.getLast? = some f ∧ f.regs = regs

end Sys2Proof.Claims

/-- R291, R292, R298 and R426. CURSOR_STEP runs the cursor's loop: an intersection passes the smaller coordinate, places a fibre
with the tag, the coordinate and both ordinals where they are equal, and is DONE, with its arrival, where a stream ends; an
unsorted entry is FAULT. BIN_REPLAY_REGION applies a region's pairs in order, and after the last one arrives. GPASS_UNIT copies
its next bytes through the gate, and ends with its arrival. That an arrival looks at the valid bit alone (log entry 24) and that
a pass over chip-window bytes which another context has got meanwhile fails (log entry 69) are the model's choices. -/
def Obligations.SparseEnginesRun : Prop :=
  (∀ s crew (n : BitVec 2) c h co u, s.arg = .cursorStep crew n → CursorOf s crew n.toNat c h → h.merge = false →
    (∀ co' u', Heads s c h (.coord co u) (.coord co' u') → co < co' →
      Answers .cursorStep s (s.m.setCursor crew { h with
        a := h.a.pass co u, state := 2, want := none, lost := false, errorPage := none }))
    ∧ (∀ u', Heads s c h (.coord co u) (.coord co u') → c.bins = [] →
      ∃ m, Answers .cursorStep s m ∧ OnlyCrews s.m m
        ∧ CursorAfter m crew n.toNat (fun q => q = { h with
            a := h.a.pass co u, b := h.b.pass co u', state := 2, emitted := h.emitted + 1, want := none, lost := false, errorPage := none })
        ∧ PlacedAt m crew h.entry [h.tag, BitVec.ofNat 32 co, BitVec.ofNat 32 h.a.ord, BitVec.ofNat 32 h.b.ord])
    ∧ (∀ b, Heads s c h .ended b → h.gauge = none →
      ∃ m, Answers .cursorStep s m ∧ OnlyCrews s.m m ∧ CursorAfter m crew n.toNat fun q => q.state = 4 ∧ q.emitted = h.emitted)
    ∧ (∀ g b, Heads s c h .ended b → h.gauge = some g → (s.m.gauge g).valid = true → s.m.memoriesWf = true →
      ∃ m, Answers .cursorStep s m ∧ CursorAfter m crew n.toNat (fun q => q.state = 4)
        ∧ m.gauge g = arrives (s.m.gauge g) (amount (s.m.gauge g) 1 0))
    ∧ ∀ v b, Heads s c h (.unsorted v) b → h.gauge = none →
      ∃ m, Answers .cursorStep s m ∧ OnlyCrews s.m m ∧ CursorAfter m crew n.toNat fun q => q.state = 5 ∧ q.fstream = false
        ∧ q.offending = BitVec.ofNat 32 v ∧ q.previous = BitVec.ofNat 32 (h.a.floor + 2 ^ 32 - 1) ∧ q.a = h.a ∧ q.rep = false)
  ∧ (∀ s crew c b, s.arg = .binReplayRegion crew → Runs s crew c → c.binning = some b → b.state = 2 → b.wait = [] →
    (bRegions b.desc.toNat ≤ b.region → b.gauge = none →
      Answers .binReplayRegion s (s.m.setBinning crew { b with state := 1, gauge := none, limit := 0, region := 0 }))
    ∧ (∀ acc, b.region < bRegions b.desc.toNat → b.lost = false →
      let w := b.desc.toNat
      let lo := b.region * 2 ^ bRlog w
      let mine := (b.pairs.take b.limit).filter fun p => p.1 / 2 ^ bRlog w = b.region
      let n := min (bCount w) (lo + 2 ^ bRlog w) - lo
      let a := (bTarget w + 4 * lo) % 2 ^ 64
      mine ≠ [] → a / 2 ^ 62 = 0 → bTarget w / 2 ^ 62 % 4 = 0 →
      s.m.deref s.dev (through s c 3 0) (c.core / 4) ⟨none, b.errorPage⟩ ⟨4 * n, 3, 1, false, false, true⟩ a none none = .ok acc →
      InHbm s acc (4 * n) →
      let key := (s.m.ctx c.ctx).key s.dev
      let old := fun i => leNat (((runLocs acc.runs).map (s.m.homeRead key)).drop (4 * i) |>.take 4)
      ∃ m c' b', Answers .binReplayRegion s m
        ∧ EngineWrites s key (runLocs acc.runs) ((List.range n).flatMap fun i => leBytes 4
            ((mine.filter fun p => p.1 = lo + i).foldl (fun v p => binApply (bOp w) (bType w) v p.2.toNat) (old i))) m
        ∧ m.crew crew = some c' ∧ c'.binning = some b' ∧ b'.region = b.region + 1 ∧ b'.state = 2
        ∧ (∀ p ∈ b.pairs.take b.limit, p.1 / 2 ^ bRlog w ≠ b.region → p ∈ b'.pairs)
        ∧ b'.pairs.length + mine.length = b.pairs.length))
  ∧ (∀ (t : ETy) old v, t = .s32 ∨ t = .n32 → old < 2 ^ 32 → v < 2 ^ 32 →
    binApply 0 t old v = (old + v) % 2 ^ 32
    ∧ binApply 1 t old v = (if extOf t v < extOf t old then v else old)
    ∧ binApply 2 t old v = (if extOf t old < extOf t v then v else old) ∧ binApply 3 t old v = v)
  ∧ ∀ s crew id c o, s.arg = .gpassUnit crew id → s.m.crew crew = some c → c.gpasses.find? (fun q => q.id == id) = some o →
      (o.len ≤ o.at_ → o.gauge = none →
        Answers .gpassUnit s (s.m.updCrew crew fun c => { c with gpasses := c.gpasses.filter fun q => q.id != id }))
      ∧ (o.len ≤ o.at_ → o.failed = false → ∀ g, o.gauge = some g → (s.m.gauge g).valid = true → s.m.memoriesWf = true →
        ∃ m, Answers .gpassUnit s m ∧ m.gauge g = arrives (s.m.gauge g) (amount (s.m.gauge g) 1 o.at_))
      ∧ (o.at_ < o.len → o.skey = 0 → o.dkey = 0 → o.dstObject = none → s.m.memoriesWf = true →
        let n := min 512 (o.len - o.at_)
        let src := runLocs (sliceRuns o.src o.at_ n)
        let dst := runLocs (sliceRuns o.dst o.at_ n)
        let world := s.dev.world (s.m.ctx c.ctx).fn
        s.m.ownsRuns c.ctx (o.src ++ o.dst) = true → PassMapped s c o →
        (src ++ runLocs (sliceRuns o.srcTags (8 * (o.at_ / 512)) 8)).any s.dev.unreadable = false →
        (o.at_ + n = o.len → (runLocs (o.srcRest ++ o.dstRest)).any s.dev.unreadable = false) → src.length = dst.length → dst.Nodup → (∀ r ∈ sliceRuns o.dst o.at_ n, r.loc.space = .hbm) →
        ∃ m c', Answers .gpassUnit s m ∧ EngineWrites s ⟨world, o.dcomp⟩ dst (src.map (s.m.homeRead ⟨world, o.scomp⟩)) m
          ∧ m.crew crew = some c' ∧ { o with at_ := o.at_ + n } ∈ c'.gpasses)
      ∧ (o.at_ < o.len → s.m.ownsRuns c.ctx (o.src ++ o.dst) = false → o.gauge = none →
        ∃ m c', Answers .gpassUnit s m ∧ OnlyCrews s.m m ∧ m.crew crew = some c' ∧ (∀ q ∈ c'.gpasses, q.id ≠ id)
          ∧ ∀ f, c.fibre o.slot = some f → ∃ f', c'.fibre o.slot = some f' ∧ f'.copyErrs = f.copyErrs + 1)

namespace Sys2Proof.Claims

/-! ### The fabric and downstream devices -/

/-- A write of the part that awaits its acknowledgement, or a read that awaits its bytes, the only request of its number. -/
def Out (s : State) (id : Nat) (o : FabOut) : Prop := s.m.fabOut.filter (fun q => q.id == id) = [o] ∧ o.answer = none

/-- The requests without one. -/
def without (s : State) (id : Nat) : List FabOut := s.m.fabOut.filter fun q => q.id != id

/-- A gang that waits for the one request (R160). -/
def AwaitsOne (s : State) (id : Nat) (o : FabOut) (E : Env) (f : Fibre) : Prop :=
  Out s id o ∧ s.m.env s.dev ⟨o.crew, o.gang⟩ = some E ∧ E.g.wake = .fabric [id] 0 ∧ E.c.fibre o.slot = some f

/-- The requests but for how far their bytes may be kept as copies. -/
def unfilled (l : List FabOut) : List FabOut := l.map fun q => { q with fill := 0 }

/-- The machine once an arriving packet has touched its peer context, which the Weir holds. -/
def touchedPeer (s : State) (ctx : Nat) : Mach := { s.m with peers := ctx :: s.m.peers.filter (· != ctx) }

/-- The context of an arriving packet, held by the Weir, as it stands in the machine where its peer context is the one touched last;
and the packet as the Weir decrypts it (R427). -/
def PeerHeld (s : State) (p q : Packet) (m : Mach) (x : Ctx) : Prop :=
  ∃ ctx fn, s.m.rkeyCtx s.dev p = some (ctx, fn) ∧ ctx ∈ s.m.peers ∧ openPacket s.dev fn p = some q
    ∧ m = Mach.claim (touchedPeer s ctx) fn ctx ∧ x = m.view s.dev fn ctx

/-- An incoming message, the only one of its number. -/
def Incoming (s : State) (id : Nat) (i : InMsg) : Prop := s.m.inMsgs.filter (fun q => q.id == id) = [i]

/-- The messages with one of them replaced. -/
def withMsg (s : State) (id : Nat) (i : InMsg) : List InMsg := s.m.inMsgs.map fun q => if q.id = id then i else q

/-- Tokens that have expired unused one after another, once this one has (R410, R413). -/
def idleAfter (t : Token) (i : InMsg) : Nat := if t.used ≠ 0 then 0 else if t.dropped then i.expired else i.expired + 1

/-- Bytes granted to a message and not arrived. -/
def owed (s : State) (id : Nat) : Nat := ((s.m.tokens.filter fun t => t.msg == id).map fun t => t.bytes - t.used).sum

end Sys2Proof.Claims

/-- R136, R138, R160 and R427: an acknowledgement ends a write; one with an error is recorded against its fibre with its node. The
response of a load or of an atomic that fetches delivers its bytes and the gang goes on; one with an error, or outside world 0 one
whose tag fails, is FABRIC_ERROR (23) in its lane. That a response carries its tag behind its bytes is the model's choice (log entry
70). -/
def Sys2Proof.Claims.FabricAnswers : Prop :=
  (∀ s id o, s.arg = .fabricAck id false → Out s id o → o.kind = .store → o.len ≤ o.allowed →
    ∃ m, Answers .fabricAck s m ∧ m = { s.m with fabOut := without s id, l2 := m.l2 }
      ∧ (∀ c ∈ m.l2, c ∈ s.m.l2 ∧ (c.unit = o.core / 4 → o.locs.any c.loc.sameLine = true → m.onItsWay c.unit c.loc = true))
      ∧ ∀ c ∈ s.m.l2, c.unit ≠ o.core / 4 ∨ o.locs.any c.loc.sameLine = false → c ∈ m.l2)
  ∧ (∀ s id o c f, s.arg = .fabricAck id true → Out s id o → o.kind = .store → s.m.crew o.crew = some c → c.fibre o.slot = some f →
    ∃ m c', Answers .fabricAck s m ∧ m.fabOut = without s id ∧ m.crew o.crew = some c'
      ∧ c'.fibre o.slot = some { f with fabErrs := f.fabErrs + 1, fabNode := if f.fabErrs = 0 then o.node else f.fabNode })
  ∧ (∀ s id o E f vd type t data b v, s.arg = .fabricResponse id false data → AwaitsOne s id o E f →
    o.opened s.dev data = some b → b.length = o.len → ETy.ofCode type = some t → type ≠ 31 →
    (o.kind = .load vd type false none ∧ v = loadValue t (leNat b))
      ∨ (∃ op x y, o.kind = .atomic true op type [(o.slot, x, y)] vd false none ∧ v = leNat b) →
    ∃ m f' stamp, Answers .fabricResponse s m ∧ unfilled m.fabOut = unfilled (without s id) ∧ m.hbm = s.m.hbm ∧ LaneAfter m E f f'
      ∧ f' = { f with pend := f.pend ++ results vd t.regs v stamp false }
      ∧ GangAfter m ⟨o.crew, o.gang⟩ fun g => g = { E.g.bump with state := .ready, wake := .none, waited := 0 })
  ∧ ∀ s id o E f vd type err data, s.arg = .fabricResponse id err data → AwaitsOne s id o E f → o.kind = .load vd type false none →
      err = true ∨ o.opened s.dev data = none →
      ∃ m, Answers .fabricResponse s (takeTrap E m (lanesMask [f]) 23 fun _ => (lanesMask [f]).toNat)
        ∧ m = { s.m with fabOut := m.fabOut, l1 := m.l1, l2 := m.l2 } ∧ unfilled m.fabOut = unfilled (without s id)

/-- R404, R406, R413 and R427: a packet for a queue that is not enabled, one whose tag fails, one that fails the checks of its
region and one of a message that is closed change nothing of memory; one whose context is away waits while the miss buffer has
room, and the context's fetch makes it held; a write of a whole message puts its bytes in their place and closes the message. -/
def Obligations.PacketsArrive : Prop :=
  (∀ s p, s.arg = .packetArrival p → s.m.rkeyCtx s.dev p = none → Answers .packetArrival s s.m)
  ∧ (∀ s p ctx fn, s.arg = .packetArrival p → s.m.rkeyCtx s.dev p = some (ctx, fn) → ctx ∉ s.m.peers → s.m.missed.length < 512 →
    Answers .packetArrival s { s.m with missed := s.m.missed ++ [p] })
  ∧ (∀ s p ctx fn, s.arg = .packetArrival p → s.m.rkeyCtx s.dev p = some (ctx, fn) → ctx ∈ s.m.peers → openPacket s.dev fn p = none →
    Answers .packetArrival s (touchedPeer s ctx))
  ∧ (∀ s p q m0 x, s.arg = .packetArrival p → PeerHeld s p q m0 x →
    m0.packetCheck s.dev x q = .refused ∨ (p.node.toNat, p.msg) ∈ s.m.closed → Answers .packetArrival s m0)
  ∧ (∀ s p q m0 x data va runs, s.arg = .packetArrival p → PeerHeld s p q m0 x → q.kind = .write data → p.total ≤ data.length →
    (p.node.toNat, p.msg) ∉ s.m.closed →
    m0.packetCheck s.dev x q = .ok va → m0.rangeRuns s.dev x 0 va data.length 2 false = .ok runs →
    (runLocs runs).any s.dev.lost = false → (runLocs runs).length = data.length → (runLocs runs).Nodup →
    (∀ l ∈ runLocs runs, l.space = .hbm) → s.m.memoriesWf = true →
    ∃ m, Answers .packetArrival s m ∧ EngineWrites s (x.key s.dev) (runLocs runs) data m ∧ m.scratch = s.m.scratch
      ∧ (p.node.toNat, p.msg) ∈ m.closed)
  ∧ (∀ (m : Mach) d x p, x.fabric.toNat.testBit 0 = false → m.packetCheck d x p = .refused)
  ∧ (∀ d p, openPacket d 0 p = some p)
  ∧ (∀ d fn (p : Packet) plain, fn ≠ 0 → p.kind = .write plain →
    let sent := payloadSeal (d.fabricKey fn) (Config.gcmNonce p.node.toNat p.msg p.offset.toNat) plain
    openPacket d fn { p with kind := .write sent.1, tag := sent.2 } = some { p with tag := sent.2 }
    ∧ ∀ tag, tag ≠ sent.2 → openPacket d fn { p with kind := .write sent.1, tag := tag } = none)
  ∧ (∀ s ctx, s.arg = .peerContextFetch ctx → ctx ∈ s.m.peers → Answers .peerContextFetch s s.m)
  ∧ (∀ s ctx, s.arg = .peerContextFetch ctx → ctx ∉ s.m.peers → s.m.missed = [] → s.m.peers.length ≤ 4095 →
    Answers .peerContextFetch s { s.m with peers := ctx :: s.m.peers })
  ∧ ∀ s ctx, s.arg = .peerContextFetch ctx → ctx ∉ s.m.peers → s.m.missed = [] →
      ∃ m, Answers .peerContextFetch s m ∧ m.peers = ctx :: s.m.peers.take 4095 ∧ m.missed = []

/-- R408 to R413: grants. The message granted next, among those that wait for no fault of theirs, is of the highest class, then
the one with the fewest bytes to go; a grant is of at most 64 KiB where the outstanding grant has room. An expired token's bytes
are granted again, and a message whose second token in a row expires unused is an orphan, whose entry goes into the event ring
with its interrupt; a pull's record ends FABRIC. A sender that gives notice holds its message until it resumes. A pull token
grants its channel, or a write-back of the ORU, more. That a sender counts a token's 32 µs from its arrival is the model's choice
(log entry 71). -/
def Obligations.GrantsAndTokens : Prop :=
  (∀ l i, firstMsg l = some i → i ∈ l ∧ ∀ j ∈ l, j.prio ≤ i.prio ∧ (j.prio = i.prio → i.total - i.granted ≤ j.total - j.granted))
  ∧ (∀ s, (∀ i ∈ s.m.inMsgs, i.granted < i.total → i.held = true ∨ i.orphan = true ∨ s.m.faulted i = true) → Answers .tokenGrant s s.m)
  ∧ (∀ s i, firstMsg (s.m.inMsgs.filter fun j => j.waiting && !s.m.faulted j) = some i → Incoming s i.id i → i.pull = none →
    let n := min 65536 (i.total - i.granted)
    (s.m.outstanding + n ≤ (if i.prio = 7 then 8 else 7) * 2 ^ 20 →
      ∃ m t, Answers .tokenGrant s m ∧ m.tokens = s.m.tokens ++ [t] ∧ t.msg = i.id ∧ t.bytes = n ∧ t.used = 0
        ∧ m.inMsgs = withMsg s i.id { i with granted := i.granted + n } ∧ m.crews = s.m.crews)
    ∧ ((if i.prio = 7 then 8 else 7) * 2 ^ 20 < s.m.outstanding + n → Answers .tokenGrant s s.m))
  ∧ (∀ s k t i, s.arg = .tokenExpiry k → s.m.tokens.find? (fun q => q.id == k) = some t → Incoming s t.msg i → i.pull = none →
    (s.m.dclock < t.deadline → Answers .tokenExpiry s s.m)
    ∧ (t.deadline ≤ s.m.dclock → idleAfter t i ≠ 2 →
      Answers .tokenExpiry s { s.m with
        tokens := s.m.tokens.filter fun q => q.id != k
        inMsgs := withMsg s t.msg
          { i with granted := i.granted - (t.bytes - t.used), expired := idleAfter t i } })
    ∧ (t.deadline ≤ s.m.dclock → idleAfter t i = 2 → i.oru = none →
      ∃ m j, Answers .tokenExpiry s m ∧ j ∈ m.inMsgs ∧ j.id = t.msg ∧ j.orphan = true ∧ (i.node, i.msg) ∈ m.closed
        ∧ ∀ q ∈ m.tokens, q.msg ≠ t.msg))
  ∧ (∀ s k t i crew ch c h, s.arg = .tokenExpiry k → s.m.tokens.find? (fun q => q.id == k) = some t → Incoming s t.msg i →
    i.pull = some (crew, ch) → t.deadline ≤ s.m.dclock → s.m.crew crew = some c → c.channel ch = some h →
    ∃ m, Answers .tokenExpiry s m
      ∧ (idleAfter t i ≠ 2 → ChannelAfter m crew ch fun g => g = { h with granted := i.granted - (t.bytes - t.used) })
      ∧ (idleAfter t i = 2 → (∀ j ∈ m.inMsgs, j.id ≠ t.msg) ∧ ChannelAfter m crew ch fun g => g.status = 6))
  ∧ (∀ s ctx i, s.arg = .fabricEventWrite ctx → s.m.inMsgs.find? (fun q => q.ctx == ctx && q.orphan) = some i →
    let x := s.m.view s.dev (s.m.ctx ctx).fn ctx
    let prod := s.m.headerNat s.dev x 0x950 4
    let used := (prod + 2 ^ 32 - s.m.headerNat s.dev x 0x954 4) % 2 ^ 32
    let size := 2 ^ (x.eventRing.toNat % 32)
    let base := x.eventRing.toNat / 2 ^ 192 % 2 ^ 64
    let mapped := s.m.ringOpen s.dev (x.via [1, 3] base (64 * size)) (base + 64 * (prod % size)) 64
    (size ≤ used ∨ mapped = false → Answers .fabricEventWrite s s.m)
    ∧ (used < size → mapped = true → Linear ctx 0x1000 → s.m.memoriesWf = true →
      ∃ m, Answers .fabricEventWrite s m ∧ m.inMsgs = s.m.inMsgs.filter (fun q => q.id != i.id) ∧ (x.fn, 1) ∈ m.irqs
        ∧ m.headerNat s.dev x 0x950 4 = (prod + 1) % 2 ^ 32))
  ∧ (∀ s id i, s.arg = .abandonNotice id → Incoming s id i →
    Answers .abandonNotice s { s.m with
      inMsgs := withMsg s id { i with held := true, granted := i.granted - owed s id }
      tokens := s.m.tokens.filter fun t => t.msg != id })
  ∧ (∀ s id (n : BitVec 41) i, s.arg = .resumeRequest id n → Incoming s id i → i.held = true →
    ∃ m j, Answers .resumeRequest s m ∧ m.inMsgs = withMsg s id j ∧ j.held = false ∧ j.granted = n.toNat ∧ j.placed = n.toNat
      ∧ j.total = i.total ∧ ∀ p ∈ i.packets, (p ∈ j.packets ↔ p.1 + p.2 ≤ n.toNat))
  ∧ (∀ s crew (ch : BitVec 3) (n : BitVec 17) c h body, s.arg = .pullTokenArrival crew ch n → crew ≠ 0 → s.m.crew crew = some c →
    c.channel ch.toNat = some h → h.body = some body → recDst body.toNat / 2 ^ 62 % 4 = 1 →
    let h1 := h.lapse s.m.dclock
    let k := min (min n.toNat 65536) (recLen body.toNat - h1.granted)
    ∃ m, Answers .pullTokenArrival s m ∧ OnlyCrews s.m m ∧ ChannelAfter m crew ch.toNat fun g => g = { h1 with
      granted := h1.granted + k, grants := h1.grants ++ [(s.m.dclock + Config.clocks32us, k)] })
  ∧ ∀ s (ch : BitVec 3) (n : BitVec 17) before o rest, s.arg = .pullTokenArrival 0 ch n → s.m.fabOut = before ++ o :: rest →
      (∀ q ∈ before, q.len ≤ q.allowed) → o.allowed < o.len →
      Answers .pullTokenArrival s { s.m with
        fabOut := before ++ { o with allowed := min o.len (o.allowed + min n.toNat 65536) } :: rest }

/-- R139, R396 and R397: a downstream device that acknowledges a write-back holds its bytes in its persistence domain, and no older
write-back that comes later changes them; an error, 1 ms
without an answer, or the loss of its link fails it. -/
def Sys2Proof.Claims.DownstreamWriteBacks : Prop :=
  (∀ s id o, s.arg = .downstreamAck id false → s.m.persist.filter (fun q => q.id == id) = [o] → o.failed = false →
    s.m.memoriesWf = true → (o.cells.map (·.1)).Nodup →
    ∃ m, Answers .downstreamAck s m ∧ m.persist = (s.m.persist.filter fun q => q.id != id).map (fun q =>
          { q with cells := if q.id < id then q.cells.filter fun c => !(o.cells.map (·.1)).contains c.1 else q.cells })
      ∧ (∀ q ∈ o.cells, m.durable.read q.1 = q.2)
      ∧ (∀ a, (∀ q ∈ o.cells, q.1 ≠ a) → m.durable.read a = s.m.durable.read a) ∧ m.pmem = s.m.pmem)
  ∧ (∀ s id o, s.arg = .downstreamAck id true → s.m.persist.filter (fun q => q.id == id) = [o] → o.failed = false →
    Answers .downstreamAck s { s.m with persist := s.m.persist.map fun q => if q.id = id then { q with failed := true } else q })
  ∧ (∀ s id, s.arg = .persistTimeout id →
    Answers .persistTimeout s { s.m with
      persist := s.m.persist.map fun q => if q.id = id ∧ q.sent + Config.clocks1ms ≤ s.m.dclock then { q with failed := true } else q })
  ∧ ∀ s (port : BitVec 2), s.arg = .downstreamLinkDown port →
      exec .downstreamLinkDown s = .next { s with
        dev := { s.dev with downPorts := s.dev.downPorts.set port.toNat false }
        m := { s.m with persist := s.m.persist.map fun q => if q.port = port.toNat then { q with failed := true } else q } }

/-- R136, R138, R160 and R427: an acknowledgement ends a write; one with an error is recorded against its fibre with its node.
The response of a load or of an atomic that fetches delivers its bytes and the gang goes on; one with an error, or outside world
0 one whose tag fails, is FABRIC_ERROR (23) in its lane. That a response carries its tag behind its bytes is the model's choice
(log entry 70). R139, R396 and R397: a downstream device that acknowledges a write-back holds its bytes in its persistence
domain, and no older write-back that comes later changes them; an error, 1 ms without an answer, or the loss of its link fails
it. -/
def Obligations.FabricAnswersAndDownstream : Prop := FabricAnswers ∧ DownstreamWriteBacks

namespace Sys2Proof.Claims

/-! ### Hosts, sessions and worlds -/

/-- A virtual function of the part (R386). -/
def IsVf (fn : BitVec 7) : Prop := fn ≠ 0 ∧ fn.toNat ≤ 96

/-- The record of a function with a change, and nothing else of the part's management. -/
def setRec (s : State) (fn : BitVec 7) (h : FnRec → FnRec) : Dev := s.dev.setFn (h (s.dev.fnRec fn.toNat))

/-- The step changes nothing. -/
def Ignored (i : Instr) (s : State) : Prop := exec i s = .next s

/-- The step may change management and machine. -/
def AnswersBoth (i : Instr) (s : State) (d : Dev) (m : Mach) : Prop := exec i s = .next { s with dev := d, m := m }

/-- The frames that a function's host pages in a range had (R394). -/
def framesOf (s : State) (fn page count : Nat) : List Nat :=
  ((s.m.ats ++ s.m.hostMaps).filter fun a => a.fn == fn && decide (page ≤ a.page) && decide (a.page < page + count)).map (·.frame)

/-- A queued store that goes to host memory names the frame that its page has by now, or its page has none (R395). -/
def Retranslated (m : Mach) (fn : Nat) (q : StoreEntry) : Prop := q = q.again m fn

/-- The answer on a function's mailbox. -/
def repliedWith (s : State) (fn : BitVec 7) (b : List Byte) : Dev := setRec s fn fun r => { r with reply := b }

/-- The function whose keys answer: the PF's where the function has no world (R428). -/
def keyFn (s : State) (fn : BitVec 7) : Nat := if (s.dev.fnRec fn.toNat).world = .none then 0 else fn.toNat

/-- A signature by a function's attestation key, 2420 bytes (R428). -/
def signedBy (s : State) (fn : Nat) (b : List Byte) : List Byte := (Config.mldsaSign (s.dev.attestSeed fn) b).takeD 2420 0

/-- The certificates of a function's key (R428). -/
def certificateOf (s : State) (fn : BitVec 7) : List Byte :=
  let root := Config.bamvorCertificate (Config.mldsaPublic (s.dev.attestSeed 0))
  if keyFn s fn = 0 then root
  else root ++ Config.mldsaPublic (s.dev.attestSeed fn.toNat) ++ signedBy s 0 (Config.mldsaPublic (s.dev.attestSeed fn.toNat))

/-- A measurement slot extended by a value (R429). -/
def extendedSlot (ms : List (List Byte)) (k : Nat) (v : List Byte) : List (List Byte) :=
  ms.modify k fun x => (Config.sha3 (x ++ v)).takeD 32 0

/-- The ranges that a SCRUB may name (R430). -/
def ScrubRanges (l : List (Nat × Nat)) : Prop :=
  l ≠ [] ∧ l.length ≤ 64 ∧ ∀ p ∈ l, p.1 % 4096 = 0 ∧ p.2 % 4096 = 0 ∧ p.1 + p.2 ≤ 48 * (48 * 2 ^ 30)

end Sys2Proof.Claims

/-- R386 to R388, R391, R394 and R395: what a host does over a link that has trained. A read of a function's range gives a line
of 64 bytes, of its aperture the bytes at their homes, of another function's command page zeros; a write through its aperture
puts its bytes there, outside the tables; 64 aligned bytes at a submission slot are a record. An invalidation of ATS takes the
pages from the translation cache, what has not been sent yet translates again, and it stays open while an access with an old
translation is under way; 50 µs of that is an error of the function. A halted part trains no host link (R431), nor does an X-die
that is out of service. Over which link a host asks (log entry 35) and when an invalidation completes (log entry 37) are the
model's choices. -/
def Obligations.HostAccesses : Prop :=
  (∀ (d : Dev) fn, d.hostLinks.getD d.link false = false → d.answers fn = false)
  ∧ (∀ s fn off, s.arg = .hostApertureAccess fn off none → s.dev.answers fn.toNat = false → Answers .hostApertureAccess s s.m)
  ∧ (∀ s fn (off : BitVec 64), s.arg = .hostApertureAccess fn off none → s.dev.answers fn.toNat = true → off.toNat < 2 ^ 26 →
    descFn (s.m.queueDesc s.dev (off.toNat / 4096)) ≠ fn.toNat →
    Answers .hostApertureAccess s { s.m with hostRead := List.replicate 64 0 })
  ∧ (∀ s fn (off : BitVec 64) base size, s.arg = .hostApertureAccess fn off none → s.dev.answers fn.toNat = true →
    s.dev.aperture fn.toNat = some (base, size) → 2 ^ 26 ≤ off.toNat → off.toNat / 64 * 64 - 2 ^ 26 + 64 ≤ size →
    let q := base + (off.toNat / 64 * 64 - 2 ^ 26)
    (∀ i < 64, s.dev.unreadable ⟨.hbm, q + i⟩ = false) →
    Answers .hostApertureAccess s { s.m with hostRead := (List.range 64).map fun i => s.m.hbmRead (s.dev.fnKey fn.toNat) (q + i) })
  ∧ (∀ s fn off b, s.arg = .hostApertureAccess fn off (some b) → s.dev.answers fn.toNat = false → Answers .hostApertureAccess s s.m)
  ∧ (∀ s fn (off : BitVec 64) b, s.arg = .hostApertureAccess fn off (some b) → s.dev.answers fn.toNat = true → b.length = 64 →
    off.toNat + 64 ≤ 2 ^ 26 → off.toNat % 4096 < 2048 → off.toNat % 64 = 0 →
    Answers .hostApertureAccess s (capture s.dev fn.toNat (off.toNat / 4096) true false (BitVec.ofNat 512 (leNat b)) s.m))
  ∧ (∀ s fn (off : BitVec 64) b base size, s.arg = .hostApertureAccess fn off (some b) → s.dev.answers fn.toNat = true →
    s.dev.aperture fn.toNat = some (base, size) → 2 ^ 26 ≤ off.toNat → off.toNat - 2 ^ 26 + b.length ≤ size → s.m.memoriesWf = true →
    let q := base + (off.toNat - 2 ^ 26)
    (∀ i < b.length, tableOffset s.dev.queueTable 64 (q + i) = none ∧ tableOffset s.dev.fnTable 1 (q + i) = none
      ∧ s.dev.unreadable ⟨.hbm, q + i⟩ = false) →
    ∃ m, Answers .hostApertureAccess s m ∧ m = { s.m with hbm := m.hbm, zeroWords := m.zeroWords }
      ∧ EngineWrites s (s.dev.fnKey fn.toNat) ((List.range b.length).map fun i => ⟨.hbm, q + i⟩) b m)
  ∧ (∀ d : Dev, d.aperture 0 = some (0, 48 * (48 * 2 ^ 30)) ∧ ∀ fn, fn ≠ 0 → (d.apertures.getD (fn - 1) 0).toNat / 2 ^ 64 = 0 →
      d.aperture fn = none)
  ∧ (∀ s (fn : BitVec 7) (page : BitVec 52) count, s.arg = .atsInvalidate fn page count →
    let left := s.m.ats.filter fun a => !(a.fn == fn.toNat && decide (page.toNat ≤ a.page) && decide (a.page < page.toNat + count))
    let frames := framesOf s fn.toNat page.toNat count
    (s.m.hostInFlight fn.toNat frames = false →
      ∃ m, Answers .atsInvalidate s m ∧ m = { s.m with ats := left, crews := m.crews, posts := m.posts }
        ∧ (∀ c ∈ m.crews, (s.m.ctx c.ctx).fn = fn.toNat → ∀ f ∈ c.fibres, ∀ q ∈ f.stores, Retranslated m fn.toNat q)
        ∧ (∀ c ∈ s.m.crews, (s.m.ctx c.ctx).fn ≠ fn.toNat → c ∈ m.crews) ∧ ∀ p ∈ s.m.posts, p.started = true → p ∈ m.posts)
    ∧ (s.m.hostInFlight fn.toNat frames = true →
      ∃ d m, AnswersBoth .atsInvalidate s d m
        ∧ (∀ a ∈ m.ats, ¬ (a.fn = fn.toNat ∧ page.toNat ≤ a.page ∧ a.page < page.toNat + count))
        ∧ (m.hostInFlight fn.toNat frames = true →
            d = { s.dev with atsInval := s.dev.atsInval ++ [⟨fn.toNat, page.toNat, count, frames, m.dclock⟩] })
        ∧ (m.hostInFlight fn.toNat frames = false → d = s.dev)))
  ∧ (∀ (m : Mach) fn frames, m.crews = [] → m.l1 = [] → m.l2 = [] → m.hostInFlight fn frames = false)
  ∧ (∀ s (fn : BitVec 7), s.arg = .atsInvalidateTimeout fn → (∀ v ∈ s.dev.atsInval, v.fn ≠ fn.toNat) → Ignored .atsInvalidateTimeout s)
  ∧ (∀ s (fn : BitVec 7) v, s.arg = .atsInvalidateTimeout fn → IsVf fn → v ∈ s.dev.atsInval → v.fn = fn.toNat →
    s.m.hostInFlight v.fn v.frames = true → v.at_ + Config.clocks50us ≤ s.m.dclock →
    ∃ d m, AnswersBoth .atsInvalidateTimeout s d m ∧ (d.fnRec fn.toNat).tdisp = .error ∧ (d.fnRec fn.toNat).world ≠ .open
      ∧ (∀ u ∈ d.atsInval, u.fn ≠ fn.toNat) ∧ (fn.toNat, 2) ∈ m.irqs ∧ (0, 2) ∈ m.irqs)
  ∧ ∀ s link, s.arg = .hostLinkTraining link →
      (s.dev.halted = false → link.toNat ∉ s.dev.deadXDies →
        AnswersDev .hostLinkTraining s { s.dev with hostLinks := s.dev.hostLinks.set link.toNat true })
      ∧ (s.dev.halted = true ∨ link.toNat ∈ s.dev.deadXDies → Ignored .hostLinkTraining s)

/-- R392 to R394, R416, R417 and R428: a virtual function is locked and run, and unlocked again, by messages in its session;
leaving CONFIG_LOCKED or RUN closes an open world. Key management secures a stream of one link; a packet that fails its check
there makes it insecure, and its function enters ERROR with both interrupts. A function in RUN is answered on no link without a
secure stream. OPEN opens the world of a locked function that has none. Which transitions a message may ask for, and that keys
and messages need a session, are the model's choices (log entry 38). -/
def Obligations.FunctionStates : Prop :=
  (∀ s (fn : BitVec 7) t, s.arg = .tdispMessage fn t → ¬ IsVf fn ∨ (s.dev.fnRec fn.toNat).session = false ∨ s.dev.halted = true → Ignored .tdispMessage s)
  ∧ (∀ s (fn : BitVec 7) t, s.arg = .tdispMessage fn t → IsVf fn → (s.dev.fnRec fn.toNat).session = true → s.dev.halted = false →
    let r := s.dev.fnRec fn.toNat
    ((r.tdisp, t) = (.unlocked, .locked) ∨ (r.tdisp, t) = (.locked, .run) →
      AnswersDev .tdispMessage s (setRec s fn fun r => { r with tdisp := t }))
    ∧ (r.tdisp ≠ .unlocked → t = .unlocked →
      ∃ d m, AnswersBoth .tdispMessage s d m ∧ (d.fnRec fn.toNat).tdisp = .unlocked ∧ (d.fnRec fn.toNat).world ≠ .open
        ∧ (∀ k, k ≠ fn.toNat → (d.fnRec k).tdisp = (s.dev.fnRec k).tdisp) ∧ (r.world ≠ .open → m = s.m))
    ∧ ((r.tdisp, t) = (.unlocked, .run) ∨ (r.tdisp, t) = (.run, .locked) ∨ t = .error → Ignored .tdispMessage s))
  ∧ (∀ s (fn : BitVec 7) link, s.arg = .ideKeyManagement fn link → s.dev.halted = false →
    ((s.dev.fnRec fn.toNat).session = true → fn = 0 →
      AnswersDev .ideKeyManagement s { s.dev with linkIde := s.dev.linkIde.set link.toNat true })
    ∧ ((s.dev.fnRec fn.toNat).session = true → IsVf fn →
      AnswersDev .ideKeyManagement s (setRec s fn fun r => { r with ideSecure := r.ideSecure ||| BitVec.ofNat 4 (2 ^ link.toNat) }))
    ∧ ((s.dev.fnRec fn.toNat).session = false → Ignored .ideKeyManagement s))
  ∧ (∀ (d : Dev) fn, (d.fnRec fn).tdisp = .run → (d.fnRec fn).ideSecure.getLsbD d.link = false → d.linkIde.getD d.link false = false →
    d.answers fn = false)
  ∧ (∀ s (link : BitVec 2) (fn : BitVec 7), s.arg = .ideIntegrityFailure link (some fn) → IsVf fn →
    ∃ d m, AnswersBoth .ideIntegrityFailure s d m ∧ (d.fnRec fn.toNat).ideSecure.getLsbD link.toNat = false
      ∧ (∀ k, k ≠ link.toNat → (d.fnRec fn.toNat).ideSecure.getLsbD k = (s.dev.fnRec fn.toNat).ideSecure.getLsbD k) ∧ (d.fnRec fn.toNat).tdisp = .error
      ∧ (d.fnRec fn.toNat).world ≠ .open
      ∧ d.answers fn.toNat = s.dev.hostLinks.getD s.dev.link false ∧ d.linkIde = s.dev.linkIde
      ∧ (fn.toNat, 2) ∈ m.irqs ∧ (0, 2) ∈ m.irqs)
  ∧ (∀ s link, s.arg = .ideIntegrityFailure link none → (∀ r ∈ s.dev.fns, r.tdisp ≠ .run) →
    AnswersDev .ideIntegrityFailure s { s.dev with linkIde := s.dev.linkIde.set link.toNat false })
  ∧ (∀ s (fn : BitVec 7) tenant secret, s.arg = .openWorld fn tenant secret → IsVf fn → (s.dev.fnRec fn.toNat).session = true →
    (s.dev.fnRec fn.toNat).tdisp = .locked → (s.dev.fnRec fn.toNat).world = .none → s.dev.halted = false →
    AnswersDev .openWorld s (setRec s fn fun r => { r with world := .open, tenant := tenant.toNat, period := 0, secret := secret }))
  ∧ ∀ s (fn : BitVec 7) tenant secret, s.arg = .openWorld fn tenant secret →
      ¬ IsVf fn ∨ (s.dev.fnRec fn.toNat).session = false ∨ (s.dev.fnRec fn.toNat).tdisp ≠ .locked ∨ s.dev.halted = true → Ignored .openWorld s

/-- R428, R429 and R432: the answers of the responder to attestation requests: its bodies, the certificates of the function's
key, a challenge and a key exchange signed by that key, the measurement slots and records by index; and a session that opens with
a key exchange and its FINISH, until it ends. The application cores' OS extends MS16 to MS31. That a function without a world
answers with world 0's key (log entry 36), how long a session lasts (log entry 39) and the opaque bodies (log entry 8) are the
model's choices. -/
def Obligations.AttestationAnswers : Prop :=
  (∀ s (fn : BitVec 7), fn.toNat ≤ 96 → s.dev.halted = false →
    (s.arg = .getVersion fn → AnswersDev .getVersion s (repliedWith s fn (Config.spdmBody 1 fn.toNat)))
    ∧ (s.arg = .getCapabilities fn → AnswersDev .getCapabilities s (repliedWith s fn (Config.spdmBody 2 fn.toNat)))
    ∧ (s.arg = .negotiateAlgorithms fn → AnswersDev .negotiateAlgorithms s (repliedWith s fn (Config.spdmBody 3 fn.toNat)))
    ∧ (s.arg = .getDigests fn → AnswersDev .getDigests s (repliedWith s fn (Config.sha3 (certificateOf s fn))))
    ∧ (s.arg = .getCertificate fn → AnswersDev .getCertificate s (repliedWith s fn (certificateOf s fn)))
    ∧ (∀ nonce, s.arg = .challenge fn nonce →
        let body := Config.sha3 s.dev.ms.flatten
        AnswersDev .challenge s (repliedWith s fn (body ++ signedBy s (keyFn s fn) (body ++ nonce)))))
  ∧ (∀ s (fn : BitVec 7) (k : BitVec 8), s.arg = .getMeasurements fn k → fn.toNat ≤ 96 → s.dev.halted = false →
    (1 ≤ k.toNat → k.toNat ≤ 32 → AnswersDev .getMeasurements s (repliedWith s fn (s.dev.ms.getD (k.toNat - 1) [])))
    ∧ (k = 0xF0 → let r := s.dev.fnRec fn.toNat
        AnswersDev .getMeasurements s (repliedWith s fn (Config.worldRecord r.tenant r.period
          (match r.world with | .none => 0 | .open => 1 | .closing => 2))))
    ∧ (k = 0xF1 → ∃ d, AnswersDev .getMeasurements s d ∧ (d.fnRec fn.toNat).reply.length = 8 * s.dev.boot.length)
    ∧ (k.toNat = 0 ∨ (32 < k.toNat ∧ k.toNat < 0xF0) ∨ 0xF1 < k.toNat → AnswersDev .getMeasurements s (repliedWith s fn [])))
  ∧ (∀ s (fn : BitVec 7), s.arg = .keyExchange fn → fn.toNat ≤ 96 → s.dev.halted = false →
    let body := Config.spdmBody 4 fn.toNat
    AnswersDev .keyExchange s (setRec s fn fun r =>
      { r with reply := body ++ signedBy s (keyFn s fn) body, keyExchange := true }))
  ∧ (∀ s (fn : BitVec 7), s.arg = .finish fn → fn.toNat ≤ 96 → s.dev.halted = false →
    ((s.dev.fnRec fn.toNat).keyExchange = true → AnswersDev .finish s (setRec s fn fun r =>
      { r with keyExchange := false, session := true, reply := Config.spdmBody 5 fn.toNat }))
    ∧ ((s.dev.fnRec fn.toNat).keyExchange = false → Ignored .finish s))
  ∧ (∀ s (fn : BitVec 7), s.arg = .endSession fn → fn.toNat ≤ 96 → s.dev.halted = false →
    ((s.dev.fnRec fn.toNat).session = true → AnswersDev .endSession s (setRec s fn fun r =>
      { r with session := false, reply := Config.spdmBody 6 fn.toNat }))
    ∧ ((s.dev.fnRec fn.toNat).session = false → Ignored .endSession s))
  ∧ (∀ s (fn : BitVec 7) i, s.dev.halted = true → fn.toNat ≤ 96 →
    (s.arg = .getVersion fn ∧ i = .getVersion) ∨ (s.arg = .getCertificate fn ∧ i = .getCertificate)
      ∨ (s.arg = .keyExchange fn ∧ i = .keyExchange) ∨ (s.arg = .finish fn ∧ i = .finish) → Ignored i s)
  ∧ ∀ s k v rest, s.agenda = .measure k v :: rest →
      (s.dev.appUp = true → 16 ≤ k.toNat →
        step s = .next { s with agenda := rest, dev := { s.dev with ms := extendedSlot s.dev.ms k.toNat v } })
      ∧ (s.dev.appUp = false ∨ k.toNat < 16 → step s = .next { s with agenda := rest })

/-- R417, R424 and R430: SEAL answers the tag of a compartment record or gate entry in the session of an open world alone. SCRUB
is accepted with good ranges, from the session or, out of RUN, from the PF; once the world is quiet its execution leaves zeros in
the ranges, destroys the period key and returns the receipt with the world's signature. That exceptions are whole lines of 128
bytes and that the world is quiet with its admitted launches are the model's choices (log entry 39). -/
def Obligations.SealsAndScrubs : Prop :=
  (∀ s (fn : BitVec 7) (ctx : BitVec 64) what, s.arg = .seal fn ctx what →
    (IsVf fn → (s.dev.fnRec fn.toNat).session = true → (s.dev.fnRec fn.toNat).world = .open → s.dev.halted = false →
      (∀ rec, what = .compartment rec → AnswersDev .seal s (repliedWith s fn (s.dev.compTag fn.toNat ctx.toNat rec.toNat)))
      ∧ ∀ g entry, what = .gate g entry → AnswersDev .seal s (repliedWith s fn (s.dev.gateTag fn.toNat ctx.toNat g.toNat entry.toNat)))
    ∧ ((s.dev.fnRec fn.toNat).session = false ∨ (s.dev.fnRec fn.toNat).world ≠ .open → Ignored .seal s))
  ∧ (∀ s (fn : BitVec 7) session ranges, s.arg = .scrub fn session ranges →
    (IsVf fn → ScrubRanges ranges → (s.dev.fnRec fn.toNat).scrub = none → s.dev.halted = false →
      (if session then (s.dev.fnRec fn.toNat).session = true else (s.dev.fnRec fn.toNat).tdisp ≠ .run) →
      AnswersDev .scrub s (setRec s fn fun r => { r with scrub := some (session, ranges) }))
    ∧ (¬ ScrubRanges ranges → Ignored .scrub s)
    ∧ (session = false → (s.dev.fnRec fn.toNat).tdisp = .run → Ignored .scrub s))
  ∧ (∀ s (fn : BitVec 7) bad, s.arg = .scrubExecute fn bad → s.m.worldQuiet fn.toNat = false → Ignored .scrubExecute s)
  ∧ (∀ s (fn : BitVec 7) bad ranges, s.arg = .scrubExecute fn bad → IsVf fn → (s.dev.fnRec fn.toNat).scrub = some (true, ranges) →
    s.m.worldQuiet fn.toNat = true → s.dev.halted = false →
    let r := s.dev.fnRec fn.toNat
    let body := receipt fn.toNat r.tenant r.period ranges (scrubExceptions s.dev ranges bad)
    let cleared := fun (a : Nat) => (∃ p ∈ ranges, p.1 ≤ a ∧ a < p.1 + p.2) ∧ a / (48 * 2 ^ 30) ∉ s.dev.retiredStacks
      ∧ ∀ b ∈ bad, a / 128 ≠ b / 128
    ∃ m, AnswersBoth .scrubExecute s (setRec s fn fun r =>
        { r with scrub := none, period := (r.period + 1) % 2 ^ 32, reply := body ++ signedBy s (keyFn s fn) body }) m
      ∧ (∀ a, cleared a → m.hbm.read a = 0) ∧ (∀ a, ¬ cleared a → m.hbm.read a = s.m.hbm.read a)
      ∧ m = { s.m with hbm := m.hbm })
  ∧ ∀ (m : Mach) fn, m.queues = [] → m.worldQuiet fn = true

namespace Sys2Proof.Claims

/-! ### Power, resets and the start -/

/-- A start is under way at a step whose word is `b`. -/
def AtStep (s : State) (k : Nat) (b : BootWord) : Prop :=
  s.dev.started = true ∧ s.dev.halted = false ∧ s.dev.bootStep = k ∧ 1 ≤ k ∧ k ≤ 6 ∧ s.dev.boot.length = 6
    ∧ s.dev.boot.getD (k - 1) .reset = b

/-- Whether a byte of P that no PFENCE covers is found again when the 8-byte words of `kept` are: one of a word, or of a whole name
of which a word is (R95, R140). -/
def Found (m : Mach) (kept : List Nat) (a : Nat) : Prop :=
  a / 8 ∈ kept ∨ (a / 16 * 16 ∈ m.pnames ∧ (a / 16 * 2 ∈ kept ∨ a / 16 * 2 + 1 ∈ kept))

end Sys2Proof.Claims

/-- R398, R399, R435 and R436: a port trains unless its node number is taken there or its X-die is out of service; the node number is
written in reset alone; the power cap is set up to 15000 W; cores withhold clocks while at the cap, and too hot a junction halves the
cap in force. That a higher cap is set to 15000 W is the model's choice (log entry 41), and so is where the ports stand (log entry
42). -/
def Sys2Proof.Claims.PortsAndPower : Prop :=
  (∀ s port dup, s.arg = .portLinkTraining port dup →
    AnswersDev .portLinkTraining s
      { s.dev with ports := s.dev.ports.set port.toNat (!dup && !s.dev.deadXDies.contains (port.toNat / 16)) })
  ∧ (∀ s node, s.arg = .nodeNumberWrite node →
    (s.dev.inReset = true → AnswersDev .nodeNumberWrite s { s.dev with nodeStore := node.toNat })
    ∧ (s.dev.inReset = false → Ignored .nodeNumberWrite s))
  ∧ (∀ s w, s.arg = .powerCapSet w → AnswersDev .powerCapSet s { s.dev with cap := min w.toNat 15000 })
  ∧ (∀ s, AnswersDev .powerCapReached s { s.dev with withholding := true })
  ∧ (∀ s, AnswersDev .powerBelowCap s { s.dev with withholding := false })
  ∧ (∀ s, ∃ d, AnswersDev .junctionOverLimit s d ∧ d = { s.dev with halvedCap := true } ∧ d.capInForce = s.dev.cap / 2)
  ∧ ∀ s, ∃ d, AnswersDev .junctionRecovered s d ∧ d = { s.dev with halvedCap := false } ∧ d.capInForce = s.dev.cap

/-- R140, R344, R345 and R434. FLR stops a virtual function's queues, unlocks it and closes its world. A failed part is out of service, and
no crew is left on a failed core. A loss of power, also by an overheated junction, leaves of the part's memories only what the
downstream devices made durable and what stood in 8-byte words that happened to be written, whole names with them; power on begins a start; a package
reset leaves the working state as power-on does. What a loss of power and a reset keep of the management state is the model's choice
(log entry 41), and so are the numbers of the dies (log entry 42) and that a launch whose written bytes a failed core held is
interrupted (log entry 79). -/
def Sys2Proof.Claims.ResetsAndFaults : Prop :=
  (∀ s fn, s.arg = .flr fn → ¬ IsVf fn → Ignored .flr s)
  ∧ (∀ s fn, s.arg = .flr fn → IsVf fn →
    ∃ d m, AnswersBoth .flr s d m ∧ (∀ q ∈ m.queues, q.fn = fn.toNat ∨ descFn (s.m.queueDesc s.dev q.q) = fn.toNat → q.enabled = false) ∧ (d.fnRec fn.toNat).tdisp = .unlocked
      ∧ (d.fnRec fn.toNat).session = false ∧ (d.fnRec fn.toNat).ideSecure = 0 ∧ (d.fnRec fn.toNat).world ≠ .open
      ∧ ∀ k, k ≠ fn.toNat → (d.fnRec k).tdisp = (s.dev.fnRec k).tdisp ∧ (d.fnRec k).session = (s.dev.fnRec k).session)
  ∧ (∀ s (n : BitVec 11), s.arg = .singlePartFault (.core n) → n.toNat < 1536 →
    (∃ d m, AnswersBoth .singlePartFault s d m ∧ n.toNat ∈ d.deadCores ∧ (∀ c ∈ m.crews, c.core ≠ n.toNat)
      ∧ (∀ q ∈ m.l1, q.unit ≠ n.toNat) ∧ d = { s.dev with deadCores := d.deadCores })
    ∧ ((∀ c ∈ s.m.crews, c.core ≠ n.toNat) → (∀ q ∈ s.m.l1, q.unit = n.toNat → q.dirty = false) → ∃ d m, AnswersBoth .singlePartFault s d m
      ∧ m = { s.m with l1 := s.m.l1.filter fun q => q.unit != n.toNat }))
  ∧ (∀ s n, s.arg = .singlePartFault (.die n) → 24 ≤ n.toNat → n.toNat < 28 →
    ∃ d m, AnswersBoth .singlePartFault s d m ∧ d.hostLinks.getD (n.toNat - 24) false = false
      ∧ d.downPorts.getD (n.toNat - 24) false = false ∧ (∀ i, i / 16 = n.toNat - 24 → d.ports.getD i false = false)
      ∧ m = { s.m with persist := m.persist })
  ∧ (∀ s (n : BitVec 6), s.arg = .singlePartFault (.stack n) → n.toNat < 48 →
    ∃ d m, AnswersBoth .singlePartFault s d m ∧ (∀ q, q / (48 * 2 ^ 30) = n.toNat → d.unreadable ⟨.hbm, q⟩ = true)
      ∧ d = { s.dev with retiredStacks := d.retiredStacks } ∧ ∀ k ∈ s.dev.retiredStacks, k ∈ d.retiredStacks)
  ∧ (∀ s n, s.arg = .singlePartFault (.fabricPort n) →
    AnswersDev .singlePartFault s { s.dev with ports := s.dev.ports.set n.toNat false })
  ∧ (∀ s n, s.arg = .singlePartFault (.hostLink n) →
    AnswersDev .singlePartFault s { s.dev with hostLinks := s.dev.hostLinks.set n.toNat false })
  ∧ (∀ s n, s.arg = .singlePartFault (.appCore n) →
    ∃ d, AnswersDev .singlePartFault s d ∧ n.toNat ∈ d.deadAppCores ∧ d = { s.dev with deadAppCores := d.deadAppCores })
  ∧ (∀ s kept i, (s.arg = .powerLoss kept ∧ i = .powerLoss) ∨ (s.arg = .junctionShutdown kept ∧ i = .junctionShutdown) →
    (s.dev.powered = false → Ignored i s)
    ∧ (s.dev.powered = true → s.m.memoriesWf = true →
      ∃ p h, AnswersBoth i s
          { Dev.reset with boot := s.dev.boot, nodeStore := s.dev.nodeStore, halvedCap := s.dev.halvedCap, powered := false }
          { Mach.reset with host := h, hostMaps := s.m.hostMaps, pmem := p, durable := p }
        ∧ (∀ a, ¬ Found s.m.writeBackAll kept a → p.read a = s.m.durable.read a)
        ∧ ∀ a, Found s.m.writeBackAll kept a → p.read a = s.m.writeBackAll.pmem.read a))
  ∧ (∀ s, s.dev.powered = true → Ignored .powerOn s)
  ∧ (∀ s, s.dev.powered = false → s.dev.started = false → s.dev.halted = false → s.dev.bootStep = 1 → s.dev.boot.length = 6 →
    ∃ d, AnswersDev .powerOn s d ∧ d.powered = true ∧ d.started = true ∧ d.inReset = false ∧ (d.boot.getD 0 .reset).attempting = true
      ∧ (d.boot.getD 0 .reset).done = false)
  ∧ ∀ s, AnswersBoth .packageReset s
      { Dev.reset with boot := s.dev.boot, nodeStore := s.dev.nodeStore, halvedCap := s.dev.halvedCap, inReset := true }
      { Mach.reset with host := s.m.host, hostMaps := s.m.hostMaps, pmem := s.m.pmem, durable := s.m.pmem }

/-- R398, R399, R435 and R436: a port trains unless its node number is taken there or its X-die is out of service; the node
number is written in reset alone; the power cap is set up to 15000 W; cores withhold clocks while at the cap, and too hot a
junction halves the cap in force. That a higher cap is set to 15000 W is the model's choice (log entry 41), and so is where the
ports stand (log entry 42). R140, R344, R345 and R434. FLR stops a virtual function's queues, unlocks it and closes its world. A
failed part is out of service, and no crew is left on a failed core. A loss of power, also by an overheated junction, leaves of
the part's memories only what the downstream devices made durable and what stood in 8-byte words that happened to be written,
whole names with them; power on begins a start; a package reset leaves the working state as power-on does. What a loss of power
and a reset keep of the management state is the model's choice (log entry 41), and so are the numbers of the dies (log entry 42)
and that a launch whose written bytes a failed core held is interrupted (log entry 79). -/
def Obligations.PowerAndResets : Prop := PortsAndPower ∧ ResetsAndFaults

/-- R399, R429 and R431 to R433. A step that ends is done in its word and the next begins, its word attempted; a step that fails,
unless on the way that skips it, halts the start; after the last every word counts a good start. The measurements of steps 2, 5
and 6, the node number and the dies left out of step 4, the stacks left out by skipping step 3. The way that a word takes at the
next start. That an interrupted step on a skipped or halted way keeps it (log entry 40) and the numbers of the dies (log entry
42) are the model's reading and choice. -/
def Obligations.BootSteps : Prop :=
  (∀ s found k b, s.arg = .bootStep false found → AtStep s k b → b.way ≠ 2 →
    AnswersDev .bootStep s { s.dev with halted := true, hostLinks := List.replicate 4 false })
  ∧ (∀ s ok found k b, s.arg = .bootStep ok found → AtStep s k b → ok = true ∨ b.way = 2 → k < 6 →
    ∃ d, AnswersDev .bootStep s d ∧ d.bootStep = k + 1 ∧ d.started = true ∧ d.boot.getD (k - 1) .reset = { b with done := true }
      ∧ d.boot.getD k .reset = { (s.dev.boot.getD k .reset).next (k + 1) with attempting := true, done := false }
      ∧ (d.halted = true ↔ ((s.dev.boot.getD k .reset).next (k + 1)).way = 3)
      ∧ d.ms = (if k = 2 then extendedSlot s.dev.ms 0 (Config.sha3 found.image)
          else if k = 5 then extendedSlot (extendedSlot s.dev.ms 1 (Config.sha3 found.image)) 3
            (Config.fuseValue ((s.dev.deadCores.map (· / 64)).dedup ++ s.dev.deadXDies.map (24 + ·))) else s.dev.ms)
      ∧ (k = 4 → b.way = 1 → ∀ c ∈ found.lostDies,
          (c.toNat < 24 → 2 * c.toNat ∈ d.retiredStacks ∧ 2 * c.toNat + 1 ∈ d.retiredStacks ∧ ∀ i < 64, 64 * c.toNat + i ∈ d.deadCores)
          ∧ (24 ≤ c.toNat → c.toNat < 28 → c.toNat - 24 ∈ d.deadXDies ∧ d.hostLinks.getD (c.toNat - 24) false = false))
      ∧ d.failedSteps = (if (s.dev.boot.getD k .reset).attempting = true ∧ (s.dev.boot.getD k .reset).done = false
          then (k + 1) :: s.dev.failedSteps else s.dev.failedSteps)
      ∧ d.node = (if k = 4 then s.dev.nodeStore else s.dev.node)
      ∧ (k = 3 → d.retiredStacks = if b.way = 2 then (found.badStacks.map BitVec.toNat).filter (fun n => decide (n < 48))
          else s.dev.retiredStacks))
  ∧ (∀ s ok found b, s.arg = .bootStep ok found → AtStep s 6 b → ok = true ∨ b.way = 2 →
    ∃ d, AnswersDev .bootStep s d ∧ d.bootStep = 7 ∧ d.started = false ∧ d.halted = false
      ∧ (∀ k < 6, (d.boot.getD k .reset).good
          = if s.dev.failedSteps.contains (k + 1) then 0 else min 255 ((s.dev.boot.getD k .reset).good + 1))
      ∧ (b.way ≠ 2 → d.ms = extendedSlot s.dev.ms 2 (Config.sha3 found.image)) ∧ (b.way = 2 → d.deadAppCores = List.range 16))
  ∧ (∀ (b : BootWord) step, b.attempting = true → b.done = false →
    (b.next step).fails = min 255 (b.fails + 1) ∧ (b.way = 0 → (b.next step).way = 1)
      ∧ (b.way = 1 → (b.next step).way = if step = 3 ∨ step = 6 then 2 else 3) ∧ (2 ≤ b.way → (b.next step).way = b.way))
  ∧ ∀ (b : BootWord) step, b.attempting = false ∨ b.done = true →
      (b.next step).way = (if (b.way = 1 ∨ b.way = 2) ∧ 16 ≤ b.good then 0 else b.way) ∧ (b.next step).fails = b.fails
        ∧ (b.next step).good = b.good

end Statements
end

