-- ==== Sys2Proof/Laws/Keys.lean ====
section
/-! SUPPORT. What encryption does to a unit (R420, R421): its length stays, and decryption under the same key and number gives it
back; and what an HBM line then reads as under its own key. -/

namespace Sys2Proof.Machine

theorem blockEncrypt_length (key : List Byte) (u j : Nat) (p : List Byte) : (blockEncrypt key u j p).length = p.length :=
  (Config.xts key u j p.length ⟨p, rfl⟩).2

theorem blockDecrypt_blockEncrypt (key : List Byte) (u j : Nat) (p : List Byte) : blockDecrypt key u j (blockEncrypt key u j p) = p := by
  have h : ∀ (n : Nat) (v : List.Vector Byte n), blockDecrypt key u j v.1 = ((Config.xts key u j n).symm v).1 := by
    rintro n ⟨l, rfl⟩; rfl
  exact (h _ _).trans (congrArg Subtype.val (Equiv.symm_apply_apply (Config.xts key u j p.length) ⟨p, rfl⟩))

theorem blocks_length (f : Nat → List Byte → List Byte) (hf : ∀ j l, (f j l).length = l.length) :
    ∀ (n j : Nat) (l : List Byte), l.length ≤ 16 * n → (blocks f n j l).length = l.length
  | 0, _, l, h => by simp at h; simp [blocks, h]
  | n + 1, j, l, h => by
    have := blocks_length f hf n (j + 1) (l.drop 16) (by rw [List.length_drop]; omega)
    simp only [blocks, List.length_append, hf, this, List.length_take, List.length_drop]
    omega

theorem blocks_blocks (f g : Nat → List Byte → List Byte) (hf : ∀ j l, (f j l).length = l.length) (hg : ∀ j l, g j (f j l) = l) :
    ∀ (n j : Nat) (l : List Byte), l.length ≤ 16 * n → blocks g n j (blocks f n j l) = l
  | 0, _, l, h => by simp at h; simp [blocks, h]
  | n + 1, j, l, h => by
    have hl := blocks_blocks f g hf hg n (j + 1) (l.drop 16) (by rw [List.length_drop]; omega)
    have h16 : (f j (l.take 16)).length = min 16 l.length := by rw [hf, List.length_take]
    rcases Nat.lt_or_ge l.length 16 with hs | hs
    · have hd : l.drop 16 = [] := List.drop_eq_nil_of_le (by omega)
      have hb : blocks f n (j + 1) [] = [] := List.length_eq_zero_iff.mp (by rw [blocks_length f hf _ _ _ (by simp)]; rfl)
      rw [hd, hb] at hl
      simp only [blocks, hd, hb, List.append_nil]
      rw [List.take_of_length_le (by omega), List.drop_eq_nil_of_le (by omega), hg, hl, List.append_nil,
        List.take_of_length_le (by omega)]
    · simp only [blocks]
      rw [List.take_left' (by omega), List.drop_left' (by omega), hg, hl, List.take_append_drop]

theorem unitEncrypt_length (key : List Byte) (u : Nat) (p : List Byte) : (unitEncrypt key u p).length = p.length :=
  blocks_length _ (blockEncrypt_length key u) _ _ _ (by omega)

theorem blockDecrypt_length (key : List Byte) (u j : Nat) (p : List Byte) : (blockDecrypt key u j p).length = p.length :=
  ((Config.xts key u j p.length).symm ⟨p, rfl⟩).2

theorem unitDecrypt_length (key : List Byte) (u : Nat) (p : List Byte) : (unitDecrypt key u p).length = p.length :=
  blocks_length _ (blockDecrypt_length key u) _ _ _ (by omega)

theorem unitDecrypt_unitEncrypt (key : List Byte) (u : Nat) (p : List Byte) : unitDecrypt key u (unitEncrypt key u p) = p := by
  unfold unitDecrypt
  rw [unitEncrypt_length]
  exact blocks_blocks _ _ (blockEncrypt_length key u) (blockDecrypt_blockEncrypt key u) _ _ _ (by omega)

end Sys2Proof.Machine
end

