-- ==== Sys2Proof/Laws/Memory.lean ====
section
/-! SUPPORT. Memory keeps its canonical form under every operation, a read after a write gives the byte written, and the
operations over caches and homes keep every memory of the machine canonical. -/

namespace Sys2Proof.Machine

/-! ### One memory -/

theorem Memory.above_mono {lo lo' : Nat} (h : lo' ≤ lo) : ∀ {m : Memory}, Memory.above lo m = true → Memory.above lo' m = true
  | [], _ => rfl
  | c :: t, hm => by
    simp only [Memory.above, Bool.and_eq_true, decide_eq_true_eq] at hm ⊢
    exact ⟨⟨by omega, hm.1.2⟩, hm.2⟩

theorem Memory.above_write {b : Byte} : ∀ {lo a : Nat} {m : Memory}, lo ≤ a → Memory.above lo m = true →
    Memory.above lo (m.write a b) = true
  | lo, a, [], ha, _ => by
    unfold Memory.write
    split
    · rfl
    · rename_i hb; simpa [Memory.above, ha] using hb
  | lo, a, c :: t, ha, hm => by
    simp only [Memory.above, Bool.and_eq_true, decide_eq_true_eq] at hm
    unfold Memory.write
    split
    · rename_i hlt
      split
      · simpa [Memory.above] using hm
      · rename_i hb
        simp only [Memory.above, Bool.and_eq_true, decide_eq_true_eq, bne_iff_ne, ne_eq]
        exact ⟨⟨ha, hb⟩, ⟨⟨by omega, by simpa using hm.1.2⟩, hm.2⟩⟩
    · split
      · rename_i hlt heq
        split
        · exact Memory.above_mono (by omega) hm.2
        · rename_i hb
          simp only [Memory.above, Bool.and_eq_true, decide_eq_true_eq, bne_iff_ne, ne_eq]
          exact ⟨⟨ha, hb⟩, by rw [heq]; exact hm.2⟩
      · simp only [Memory.above, Bool.and_eq_true, decide_eq_true_eq]
        exact ⟨hm.1, Memory.above_write (by omega) hm.2⟩

theorem Memory.wf_write {m : Memory} (h : m.wf = true) (a : Nat) (b : Byte) : (m.write a b).wf = true :=
  Memory.above_write (Nat.zero_le a) h

theorem Memory.wf_writeBytes : ∀ (l : List Byte) {m : Memory} (a : Nat), m.wf = true → (m.writeBytes a l).wf = true
  | [], _, _, h => h
  | b :: t, _, a, h => Memory.wf_writeBytes t (a + 1) (Memory.wf_write h a b)

theorem Memory.above_filter (p : Host.Cell → Bool) : ∀ {lo : Nat} {m : Memory}, Memory.above lo m = true →
    Memory.above lo (m.filter p) = true
  | _, [], _ => rfl
  | lo, c :: t, h => by
    simp only [Memory.above, Bool.and_eq_true, decide_eq_true_eq] at h
    rw [List.filter_cons]
    split
    · simp only [Memory.above, Bool.and_eq_true, decide_eq_true_eq]
      exact ⟨h.1, Memory.above_filter p h.2⟩
    · exact Memory.above_mono (by omega) (Memory.above_filter p h.2)

theorem Memory.wf_filter {m : Memory} (h : m.wf = true) (p : Host.Cell → Bool) : Memory.wf (m.filter p) = true :=
  Memory.above_filter p h

@[simp] theorem Memory.wf_nil : Memory.wf [] = true := rfl

theorem Memory.read_below : ∀ {lo a : Nat} {m : Memory}, a < lo → Memory.above lo m = true → m.read a = 0
  | _, _, [], _, _ => rfl
  | lo, a, c :: t, ha, h => by
    simp only [Memory.above, Bool.and_eq_true, decide_eq_true_eq] at h
    unfold Memory.read
    rw [if_neg (by omega)]
    exact Memory.read_below (by omega) h.2

theorem Memory.read_write {b : Byte} : ∀ {lo a : Nat} {m : Memory}, Memory.above lo m = true → (x : Nat) →
    (m.write a b).read x = if a = x then b else m.read x
  | lo, a, [], _, x => by
    unfold Memory.write
    split <;> by_cases hx : a = x <;> simp_all [Memory.read]
  | lo, a, c :: t, h, x => by
    simp only [Memory.above, Bool.and_eq_true, decide_eq_true_eq] at h
    unfold Memory.write
    split
    · rename_i hlt
      split
      · rename_i hb
        by_cases hx : a = x
        · subst hx
          rw [if_pos rfl, hb]
          unfold Memory.read
          rw [if_neg (by omega)]
          exact Memory.read_below (by omega) h.2
        · rw [if_neg hx]
      · by_cases hx : a = x
        · rw [if_pos hx]; unfold Memory.read; rw [if_pos hx]
        · rw [if_neg hx]; conv_lhs => unfold Memory.read
          rw [if_neg hx]
    · split
      · rename_i hlt heq
        split
        · rename_i hb
          by_cases hx : a = x
          · rw [if_pos hx, hb]; exact Memory.read_below (by omega) h.2
          · rw [if_neg hx]; conv_rhs => unfold Memory.read
            rw [if_neg (by omega)]
        · by_cases hx : a = x
          · rw [if_pos hx]; unfold Memory.read; rw [if_pos hx]
          · rw [if_neg hx]; unfold Memory.read
            rw [if_neg hx, if_neg (by omega)]
      · rename_i hlt hne
        unfold Memory.read
        split
        · rename_i hc
          rw [if_neg (by omega)]
        · exact Memory.read_write h.2 x

/-- A read after a write of the same byte. -/
theorem Memory.read_write_same {m : Memory} (h : m.wf = true) (a : Nat) (b : Byte) : (m.write a b).read a = b := by
  rw [Memory.read_write h, if_pos rfl]

/-- A write leaves every other byte alone. -/
theorem Memory.read_write_other {m : Memory} (h : m.wf = true) {a x : Nat} (b : Byte) (hx : a ≠ x) : (m.write a b).read x = m.read x := by
  rw [Memory.read_write h, if_neg hx]

/-- A byte read after several are written. -/
theorem Memory.read_writeBytes : ∀ (l : List Byte) {m : Memory} (a x : Nat), m.wf = true →
    (m.writeBytes a l).read x = if a ≤ x ∧ x < a + l.length then l.getD (x - a) 0 else m.read x
  | [], m, a, x, _ => by rw [if_neg (by simp only [List.length_nil]; omega)]; rfl
  | b :: t, m, a, x, h => by
    unfold Memory.writeBytes
    rw [Memory.read_writeBytes t (a + 1) x (Memory.wf_write h a b), Memory.read_write h]
    by_cases h1 : x = a
    · subst h1; simp [List.length_cons]
    · by_cases h2 : a + 1 ≤ x ∧ x < a + 1 + t.length
      · rw [if_pos h2, if_pos (by simp only [List.length_cons]; omega)]
        obtain ⟨k, rfl⟩ := Nat.exists_eq_add_of_le h2.1
        rw [show a + 1 + k - (a + 1) = k by omega, show a + 1 + k - a = k + 1 by omega, List.getD_cons_succ]
      · rw [if_neg h2, if_neg (by omega), if_neg (by simp only [List.length_cons]; omega)]

/-- The bytes just written, read back. -/
theorem Memory.bytes_writeBytes {m : Memory} (h : m.wf = true) (a : Nat) (l : List Byte) :
    (m.writeBytes a l).bytes a l.length = l := by
  refine List.ext_getElem (by simp [Memory.bytes]) fun i h1 h2 => ?_
  simp only [Memory.bytes, List.getElem_map, List.getElem_range]
  rw [Memory.read_writeBytes l a _ h, if_pos ⟨by omega, by omega⟩, Nat.add_sub_cancel_left, List.getD_eq_getElem _ _ h2]

/-- Two canonical memories that read alike are equal. -/
theorem Memory.ext_of_above : ∀ {lo : Nat} {m n : Memory}, Memory.above lo m = true → Memory.above lo n = true →
    (∀ a, m.read a = n.read a) → m = n
  | _, [], [], _, _, _ => rfl
  | lo, [], c :: t, _, hn, h => by
    simp only [Memory.above, Bool.and_eq_true, decide_eq_true_eq, bne_iff_ne, ne_eq] at hn
    have := h c.1
    simp only [Memory.read, if_true] at this
    exact absurd this.symm hn.1.2
  | lo, c :: t, [], hm, _, h => by
    simp only [Memory.above, Bool.and_eq_true, decide_eq_true_eq, bne_iff_ne, ne_eq] at hm
    have := h c.1
    simp only [Memory.read, if_true] at this
    exact absurd this hm.1.2
  | lo, c :: t, d :: u, hm, hn, h => by
    simp only [Memory.above, Bool.and_eq_true, decide_eq_true_eq, bne_iff_ne, ne_eq] at hm hn
    have hcd : c.1 = d.1 := by
      rcases Nat.lt_trichotomy c.1 d.1 with hlt | heq | hlt
      · have h1 := h c.1
        simp only [Memory.read, if_true] at h1
        rw [if_neg (by omega), Memory.read_below (by omega) hn.2] at h1
        exact absurd h1 hm.1.2
      · exact heq
      · have h1 := h d.1
        simp only [Memory.read, if_true] at h1
        rw [if_neg (by omega), Memory.read_below (by omega) hm.2] at h1
        exact absurd h1.symm hn.1.2
    have hv : c.2 = d.2 := by
      have h1 := h c.1
      simp only [Memory.read, if_true] at h1
      rwa [if_pos hcd.symm] at h1
    have ht : t = u := by
      refine Memory.ext_of_above hm.2 (by rw [hcd]; exact hn.2) fun a => ?_
      by_cases ha : a < c.1 + 1
      · rw [Memory.read_below ha hm.2, Memory.read_below (by omega) hn.2]
      · have h1 := h a
        simp only [Memory.read] at h1
        rwa [if_neg (by omega), if_neg (by omega)] at h1
    rw [ht, Prod.ext hcd hv]

theorem Memory.ext_read {m n : Memory} (hm : m.wf = true) (hn : n.wf = true) (h : ∀ a, m.read a = n.read a) : m = n :=
  Memory.ext_of_above hm hn h

/-! ### Accumulator words -/

theorem wordsAbove_mono {lo lo' : Nat} (h : lo' ≤ lo) : ∀ {l : List (Nat × Word)}, wordsAbove lo l = true → wordsAbove lo' l = true
  | [], _ => rfl
  | c :: t, hm => by
    simp only [wordsAbove, Bool.and_eq_true, decide_eq_true_eq] at hm ⊢
    exact ⟨⟨by omega, hm.1.2⟩, hm.2⟩

theorem wordsAbove_set {b : Word} : ∀ {lo a : Nat} {l : List (Nat × Word)}, lo ≤ a → wordsAbove lo l = true →
    wordsAbove lo (setWordAt l a b) = true
  | lo, a, [], ha, _ => by
    unfold setWordAt
    split
    · rfl
    · rename_i hb; simpa [wordsAbove, ha] using hb
  | lo, a, c :: t, ha, hm => by
    simp only [wordsAbove, Bool.and_eq_true, decide_eq_true_eq] at hm
    unfold setWordAt
    split
    · split
      · simpa [wordsAbove] using hm
      · rename_i hb
        simp only [wordsAbove, Bool.and_eq_true, decide_eq_true_eq, bne_iff_ne, ne_eq]
        exact ⟨⟨ha, hb⟩, ⟨⟨by omega, by simpa using hm.1.2⟩, hm.2⟩⟩
    · split
      · rename_i hlt heq
        split
        · exact wordsAbove_mono (by omega) hm.2
        · rename_i hb
          simp only [wordsAbove, Bool.and_eq_true, decide_eq_true_eq, bne_iff_ne, ne_eq]
          exact ⟨⟨ha, hb⟩, by rw [heq]; exact hm.2⟩
      · simp only [wordsAbove, Bool.and_eq_true, decide_eq_true_eq]
        exact ⟨hm.1, wordsAbove_set (by omega) hm.2⟩

theorem wordsAbove_filter (p : Nat × Word → Bool) : ∀ {lo : Nat} {l : List (Nat × Word)}, wordsAbove lo l = true →
    wordsAbove lo (l.filter p) = true
  | _, [], _ => rfl
  | lo, c :: t, h => by
    simp only [wordsAbove, Bool.and_eq_true, decide_eq_true_eq] at h
    rw [List.filter_cons]
    split
    · simp only [wordsAbove, Bool.and_eq_true, decide_eq_true_eq]
      exact ⟨h.1, wordsAbove_filter p h.2⟩
    · exact wordsAbove_mono (by omega) (wordsAbove_filter p h.2)

theorem wordAt_below : ∀ {lo a : Nat} {l : List (Nat × Word)}, a < lo → wordsAbove lo l = true → wordAt l a = 0
  | _, _, [], _, _ => rfl
  | lo, a, c :: t, ha, h => by
    simp only [wordsAbove, Bool.and_eq_true, decide_eq_true_eq] at h
    unfold wordAt
    rw [if_neg (by omega)]
    exact wordAt_below (by omega) h.2

/-- The word read after one is set. -/
theorem wordAt_set {b : Word} : ∀ {lo a : Nat} {l : List (Nat × Word)}, wordsAbove lo l = true → (x : Nat) →
    wordAt (setWordAt l a b) x = if a = x then b else wordAt l x
  | lo, a, [], _, x => by
    unfold setWordAt
    split <;> by_cases hx : a = x <;> simp_all [wordAt]
  | lo, a, c :: t, h, x => by
    simp only [wordsAbove, Bool.and_eq_true, decide_eq_true_eq] at h
    unfold setWordAt
    split
    · rename_i hlt
      split
      · rename_i hb
        by_cases hx : a = x
        · subst hx
          rw [if_pos rfl, hb]
          unfold wordAt
          rw [if_neg (by omega)]
          exact wordAt_below (by omega) h.2
        · rw [if_neg hx]
      · by_cases hx : a = x
        · rw [if_pos hx]; unfold wordAt; rw [if_pos hx]
        · rw [if_neg hx]; conv_lhs => unfold wordAt
          rw [if_neg hx]
    · split
      · rename_i hlt heq
        split
        · rename_i hb
          by_cases hx : a = x
          · rw [if_pos hx, hb]; exact wordAt_below (by omega) h.2
          · rw [if_neg hx]; conv_rhs => unfold wordAt
            rw [if_neg (by omega)]
        · by_cases hx : a = x
          · rw [if_pos hx]; unfold wordAt; rw [if_pos hx]
          · rw [if_neg hx]; unfold wordAt
            rw [if_neg hx, if_neg (by omega)]
      · rename_i hlt hne
        unfold wordAt
        split
        · rename_i hc
          rw [if_neg (by omega)]
        · exact wordAt_set h.2 x

end Sys2Proof.Machine
end

