-- ==== Sys2Proof/Laws/Caches.lean ====
section
/-! SUPPORT. The operations of Machine/Memory.lean keep every memory of the machine canonical. -/

namespace Sys2Proof.Machine

theorem Mach.memoriesWf_iff (m : Mach) : m.memoriesWf = true ↔
    m.hbm.wf = true ∧ m.host.wf = true ∧ m.pmem.wf = true ∧ m.durable.wf = true ∧ m.scratch.wf = true ∧ wordsAbove 0 m.accs = true := by
  simp [Mach.memoriesWf, and_assoc]

/-- A machine with the same memories. -/
theorem Mach.memoriesWf_of_eq {m n : Mach} (h : m.memoriesWf = true) (h1 : n.hbm = m.hbm := by rfl) (h2 : n.host = m.host := by rfl)
    (h3 : n.pmem = m.pmem := by rfl) (h4 : n.durable = m.durable := by rfl) (h5 : n.scratch = m.scratch := by rfl)
    (h6 : n.accs = m.accs := by rfl) : n.memoriesWf = true := by
  rw [Mach.memoriesWf_iff] at h ⊢
  rw [h1, h2, h3, h4, h5, h6]
  exact h

theorem Mach.memoriesWf_reset : Mach.reset.memoriesWf = true := rfl

theorem Mach.memoriesWf_foldl {α : Type} (f : Mach → α → Mach) (hf : ∀ m a, m.memoriesWf = true → (f m a).memoriesWf = true) :
    ∀ (l : List α) (m : Mach), m.memoriesWf = true → (l.foldl f m).memoriesWf = true
  | [], _, h => h
  | a :: t, m, h => Mach.memoriesWf_foldl f hf t (f m a) (hf m a h)

theorem Mach.memoriesWf_hbmWrite {m : Mach} (h : m.memoriesWf = true) (k : Key) (q : Nat) (b : Byte) :
    (m.hbmWrite k q b).memoriesWf = true := by
  unfold Mach.hbmWrite
  rw [Mach.memoriesWf_iff] at h
  split
  · exact (Mach.memoriesWf_iff _).mpr ⟨Memory.wf_write h.1 q b, h.2⟩
  · dsimp only
    generalize unitEncrypt _ _ _ = v
    exact (Mach.memoriesWf_iff _).mpr ⟨Memory.wf_writeBytes v _ h.1, h.2⟩

theorem Mach.memoriesWf_regWrite {m : Mach} (h : m.memoriesWf = true) (k : Key) (a : Nat) (b : Byte) :
    (m.regWrite k a b).memoriesWf = true := by
  unfold Mach.regWrite
  dsimp only
  split
  · exact Mach.memoriesWf_of_eq (Mach.memoriesWf_hbmWrite h k _ b)
  · exact Mach.memoriesWf_of_eq h

theorem Mach.memoriesWf_scratch {m : Mach} (h : m.memoriesWf = true) {p : Memory} (hp : p.wf = true) (g : List Nat) :
    ({ m with scratch := p, gauges := g } : Mach).memoriesWf = true := by
  rw [Mach.memoriesWf_iff] at h ⊢
  exact ⟨h.1, h.2.1, h.2.2.1, h.2.2.2.1, hp, h.2.2.2.2.2⟩

theorem Mach.scratch_wf {m : Mach} (h : m.memoriesWf = true) : m.scratch.wf = true := ((Mach.memoriesWf_iff m).mp h).2.2.2.2.1

theorem Mach.memoriesWf_scratchWrite {m : Mach} (h : m.memoriesWf = true) (a : Nat) (b : Byte) :
    (m.scratchWrite a b).memoriesWf = true := by
  unfold Mach.scratchWrite
  dsimp only
  split
  · split
    · exact Mach.memoriesWf_scratch h (Memory.wf_writeBytes _ _ (Mach.scratch_wf h)) _
    · exact Mach.memoriesWf_scratch h (Memory.wf_write (Mach.scratch_wf h) a _) m.gauges
  · exact Mach.memoriesWf_scratch h (Memory.wf_write (Mach.scratch_wf h) a b) m.gauges

theorem Mach.memoriesWf_homeWrite {m : Mach} (h : m.memoriesWf = true) (k : Key) (l : Loc) (b : Byte) :
    (m.homeWrite k l b).memoriesWf = true := by
  unfold Mach.homeWrite
  have hi := (Mach.memoriesWf_iff m).mp h
  split
  · exact Mach.memoriesWf_hbmWrite h k _ b
  · rw [Mach.memoriesWf_iff]; exact ⟨hi.1, Memory.wf_write hi.2.1 _ b, hi.2.2⟩
  · rw [Mach.memoriesWf_iff]; exact ⟨hi.1, hi.2.1, Memory.wf_write hi.2.2.1 _ b, hi.2.2.2⟩
  · exact Mach.memoriesWf_scratchWrite h _ b
  · rw [Mach.memoriesWf_iff]
    exact ⟨hi.1, hi.2.1, hi.2.2.1, hi.2.2.2.1, hi.2.2.2.2.1, wordsAbove_set (Nat.zero_le _) hi.2.2.2.2.2⟩
  · exact h
  · exact h
  · exact Mach.memoriesWf_regWrite h k _ b

theorem Mach.memoriesWf_spillL2 {m : Mach} (h : m.memoriesWf = true) (cl : Nat) (l : Loc) : (m.spillL2 cl l).memoriesWf = true := by
  unfold Mach.spillL2
  split
  · exact h
  · dsimp only
    split
    · exact Mach.memoriesWf_homeWrite (Mach.memoriesWf_of_eq h) _ l _
    · exact Mach.memoriesWf_of_eq h

theorem Mach.memoriesWf_spillLine2 {m : Mach} (h : m.memoriesWf = true) (cl : Nat) (l : Loc) :
    (m.spillLine2 cl l).memoriesWf = true := Mach.memoriesWf_foldl _ (fun _ l h => Mach.memoriesWf_spillL2 h cl l) _ m h

theorem Mach.memoriesWf_ownL2 {m : Mach} (h : m.memoriesWf = true) (cl : Nat) (k : Key) (l : Loc) :
    (m.ownL2 cl k l).memoriesWf = true := by
  unfold Mach.ownL2
  split
  · exact Mach.memoriesWf_spillLine2 h cl l
  · exact h

theorem Mach.memoriesWf_putL2 {m : Mach} (h : m.memoriesWf = true) (c : Copy) : (m.putL2 c).memoriesWf = true :=
  Mach.memoriesWf_of_eq (Mach.memoriesWf_ownL2 h c.unit c.key c.loc)

theorem Mach.memoriesWf_spillL1 {m : Mach} (h : m.memoriesWf = true) (core : Nat) (l : Loc) : (m.spillL1 core l).memoriesWf = true := by
  unfold Mach.spillL1
  split
  · exact h
  · dsimp only
    split
    · exact Mach.memoriesWf_putL2 (Mach.memoriesWf_of_eq h) _
    · exact Mach.memoriesWf_of_eq h

theorem Mach.memoriesWf_spillLine1 {m : Mach} (h : m.memoriesWf = true) (core : Nat) (l : Loc) :
    (m.spillLine1 core l).memoriesWf = true := Mach.memoriesWf_foldl _ (fun _ l h => Mach.memoriesWf_spillL1 h core l) _ m h

theorem Mach.memoriesWf_ownL1 {m : Mach} (h : m.memoriesWf = true) (core : Nat) (k : Key) (l : Loc) :
    (m.ownL1 core k l).memoriesWf = true := by
  unfold Mach.ownL1
  split
  · exact Mach.memoriesWf_spillLine1 h core l
  · exact h

theorem Mach.memoriesWf_putL1 {m : Mach} (h : m.memoriesWf = true) (c : Copy) : (m.putL1 c).memoriesWf = true :=
  Mach.memoriesWf_of_eq (Mach.memoriesWf_ownL1 h c.unit c.key c.loc)

theorem Mach.memoriesWf_raise {m : Mach} (h : m.memoriesWf = true) (core pt : Nat) (l : Loc) : (m.raise core pt l).memoriesWf = true := by
  unfold Mach.raise
  split
  · exact h
  · dsimp only
    split
    · exact Mach.memoriesWf_spillLine1 h core l
    · exact Mach.memoriesWf_spillLine2 (Mach.memoriesWf_spillLine1 h core l) _ l

theorem Mach.memoriesWf_reclass {m : Mach} (h : m.memoriesWf = true) (core : Nat) (cls : Cls) (ls : List Loc) :
    (m.reclass core cls ls).memoriesWf = true := Mach.memoriesWf_of_eq h

theorem Mach.memoriesWf_raiseAll {m : Mach} (h : m.memoriesWf = true) (core scope : Nat) (cls : Cls) (ls : List Loc) :
    (m.raiseAll core scope cls ls).memoriesWf = true := by
  unfold Mach.raiseAll
  split
  · exact h
  · refine Mach.memoriesWf_reclass ?_ core cls ls
    split
    · exact h
    · exact Mach.memoriesWf_foldl _ (fun _ _ h => Mach.memoriesWf_raise h core _ _) ls m h

theorem Mach.memoriesWf_performByte {m : Mach} (h : m.memoriesWf = true) (core scope : Nat) (cls : Cls) (k : Key) (l : Loc) (b : Byte) :
    (m.performByte core scope cls k l b).memoriesWf = true := by
  unfold Mach.performByte
  split
  · exact Mach.memoriesWf_homeWrite h k l b
  · split
    · exact Mach.memoriesWf_putL1 h _
    · exact Mach.memoriesWf_putL2 (Mach.memoriesWf_raise h core 2 l) _
    · exact Mach.memoriesWf_homeWrite (Mach.memoriesWf_raise h core 3 l) k l b

theorem Mach.memoriesWf_writeBack {m : Mach} (h : m.memoriesWf = true) (core scope : Nat) : (m.writeBack core scope).memoriesWf = true := by
  unfold Mach.writeBack
  split
  · exact h
  · dsimp only
    have h1 := Mach.memoriesWf_foldl _ (fun _ l h => Mach.memoriesWf_spillLine1 h core l)
      ((m.l1.filter fun c => c.unit == core && c.dirty).map (·.loc)) m h
    split
    · exact h1
    · exact Mach.memoriesWf_foldl _ (fun _ l h => Mach.memoriesWf_spillLine2 h _ l) _ _ h1

theorem Mach.memoriesWf_discard {m : Mach} (h : m.memoriesWf = true) (core scope stor : Nat) :
    (m.discard core scope stor).memoriesWf = true := by
  refine Mach.memoriesWf_of_eq (m := if storHas stor .f && 2 ≤ scope then m.noFill (core / 4) fun _ => true else m) ?_
  split
  · exact Mach.memoriesWf_of_eq h
  · exact h

theorem Mach.memoriesWf_partWrite {m : Mach} (h : m.memoriesWf = true) (k : Key) (l : Loc) (b : Byte) :
    (m.partWrite k l b).memoriesWf = true := Mach.memoriesWf_homeWrite (Mach.memoriesWf_of_eq h) k l b

theorem Mach.memoriesWf_partWriteBytes (k : Key) (sp : Space) : ∀ (l : List Byte) {m : Mach} (a : Nat), m.memoriesWf = true →
    (m.partWriteBytes k sp a l).memoriesWf = true
  | [], _, _, h => h
  | b :: t, _, a, h => Mach.memoriesWf_partWriteBytes k sp t (a + 1) (Mach.memoriesWf_partWrite h k ⟨sp, a⟩ b)

theorem Mach.memoriesWf_writeBackAll {m : Mach} (h : m.memoriesWf = true) : m.writeBackAll.memoriesWf = true :=
  Mach.memoriesWf_foldl _ (fun _ p h => Mach.memoriesWf_spillLine2 h p.1 p.2) _ _
    (Mach.memoriesWf_foldl _ (fun _ p h => Mach.memoriesWf_spillLine1 h p.1 p.2) _ m h)

/-! ### Keys of HBM (R420) -/

theorem Mach.plainLine_length (m : Mach) (k : Key) (line : Nat) : (m.plainLine k line).length = 128 := by
  unfold Mach.plainLine
  split <;> simp [unitDecrypt_length, Mach.stackLine, Memory.bytes]

/-- The plaintext of a line after a byte of it is written under the same key. -/
theorem Mach.plainLine_hbmWrite {m : Mach} (h : m.memoriesWf = true) {k : Key} (hk : k.world ≠ 0) (q : Nat) (b : Byte) :
    (m.hbmWrite k q b).plainLine k (q / 128) = (m.plainLine k (q / 128)).set (q % 128) b := by
  have hl : (unitEncrypt k.memory (128 * (q / 128) / 16) ((m.plainLine k (q / 128)).set (q % 128) b)).length = 128 := by
    rw [unitEncrypt_length, List.length_set, Mach.plainLine_length]
  have hw := Memory.bytes_writeBytes ((Mach.memoriesWf_iff m).mp h).1 (128 * (q / 128))
    (unitEncrypt k.memory (128 * (q / 128) / 16) ((m.plainLine k (q / 128)).set (q % 128) b))
  rw [hl] at hw
  conv_lhs => unfold Mach.plainLine
  rw [if_neg hk]
  unfold Mach.stackLine Mach.hbmWrite
  rw [if_neg hk]
  dsimp only
  rw [hw, unitDecrypt_unitEncrypt]

/-- A byte of HBM read under the key that it was just written under. -/
theorem Mach.hbmRead_hbmWrite {m : Mach} (h : m.memoriesWf = true) (k : Key) (q : Nat) (b : Byte) :
    (m.hbmWrite k q b).hbmRead k q = b := by
  by_cases hk : k.world = 0
  · unfold Mach.hbmRead Mach.hbmWrite
    rw [if_pos hk, if_pos hk]
    exact Memory.read_write_same ((Mach.memoriesWf_iff m).mp h).1 q b
  · unfold Mach.hbmRead
    rw [if_neg hk, Mach.plainLine_hbmWrite h hk, List.getD_eq_getElem _ _ (by
      rw [List.length_set, Mach.plainLine_length]; exact Nat.mod_lt _ (by decide)), List.getElem_set_self]

end Sys2Proof.Machine
end

