-- ==== Sys2Proof/Laws/State.lean ====
section
/-! SUPPORT. One lemma for each field and each named update of the state: the field that the update changes, and every other one
unchanged. -/

namespace Sys2Proof.Machine

set_option Elab.async false

/-! ### Mach.updCrew -/

@[simp] theorem Mach.updCrew_hbm (m : Mach) (id : Nat) (h : Crew → Crew) : (m.updCrew id h).hbm = m.hbm := rfl
@[simp] theorem Mach.updCrew_notices (m : Mach) (id : Nat) (h : Crew → Crew) : (m.updCrew id h).notices = m.notices := rfl
@[simp] theorem Mach.updCrew_host (m : Mach) (id : Nat) (h : Crew → Crew) : (m.updCrew id h).host = m.host := rfl
@[simp] theorem Mach.updCrew_pmem (m : Mach) (id : Nat) (h : Crew → Crew) : (m.updCrew id h).pmem = m.pmem := rfl
@[simp] theorem Mach.updCrew_durable (m : Mach) (id : Nat) (h : Crew → Crew) : (m.updCrew id h).durable = m.durable := rfl
@[simp] theorem Mach.updCrew_pnames (m : Mach) (id : Nat) (h : Crew → Crew) : (m.updCrew id h).pnames = m.pnames := rfl
@[simp] theorem Mach.updCrew_scratch (m : Mach) (id : Nat) (h : Crew → Crew) : (m.updCrew id h).scratch = m.scratch := rfl
@[simp] theorem Mach.updCrew_scratchCtx (m : Mach) (id : Nat) (h : Crew → Crew) : (m.updCrew id h).scratchCtx = m.scratchCtx := rfl
@[simp] theorem Mach.updCrew_gauges (m : Mach) (id : Nat) (h : Crew → Crew) : (m.updCrew id h).gauges = m.gauges := rfl
@[simp] theorem Mach.updCrew_accs (m : Mach) (id : Nat) (h : Crew → Crew) : (m.updCrew id h).accs = m.accs := rfl
@[simp] theorem Mach.updCrew_l1 (m : Mach) (id : Nat) (h : Crew → Crew) : (m.updCrew id h).l1 = m.l1 := rfl
@[simp] theorem Mach.updCrew_l2 (m : Mach) (id : Nat) (h : Crew → Crew) : (m.updCrew id h).l2 = m.l2 := rfl
@[simp] theorem Mach.updCrew_tiles (m : Mach) (id : Nat) (h : Crew → Crew) : (m.updCrew id h).tiles = m.tiles := rfl
@[simp] theorem Mach.updCrew_sslots (m : Mach) (id : Nat) (h : Crew → Crew) : (m.updCrew id h).sslots = m.sslots := rfl
@[simp] theorem Mach.updCrew_posts (m : Mach) (id : Nat) (h : Crew → Crew) : (m.updCrew id h).posts = m.posts := rfl
@[simp] theorem Mach.updCrew_crews (m : Mach) (id : Nat) (h : Crew → Crew) : (m.updCrew id h).crews = m.crews.map fun c => if c.id == id then h c else c := rfl
@[simp] theorem Mach.updCrew_ctxs (m : Mach) (id : Nat) (h : Crew → Crew) : (m.updCrew id h).ctxs = m.ctxs := rfl
@[simp] theorem Mach.updCrew_tlb (m : Mach) (id : Nat) (h : Crew → Crew) : (m.updCrew id h).tlb = m.tlb := rfl
@[simp] theorem Mach.updCrew_hostMaps (m : Mach) (id : Nat) (h : Crew → Crew) : (m.updCrew id h).hostMaps = m.hostMaps := rfl
@[simp] theorem Mach.updCrew_ats (m : Mach) (id : Nat) (h : Crew → Crew) : (m.updCrew id h).ats = m.ats := rfl
@[simp] theorem Mach.updCrew_faults (m : Mach) (id : Nat) (h : Crew → Crew) : (m.updCrew id h).faults = m.faults := rfl
@[simp] theorem Mach.updCrew_rings (m : Mach) (id : Nat) (h : Crew → Crew) : (m.updCrew id h).rings = m.rings := rfl
@[simp] theorem Mach.updCrew_invals (m : Mach) (id : Nat) (h : Crew → Crew) : (m.updCrew id h).invals = m.invals := rfl
@[simp] theorem Mach.updCrew_queues (m : Mach) (id : Nat) (h : Crew → Crew) : (m.updCrew id h).queues = m.queues := rfl
@[simp] theorem Mach.updCrew_launches (m : Mach) (id : Nat) (h : Crew → Crew) : (m.updCrew id h).launches = m.launches := rfl
@[simp] theorem Mach.updCrew_fabOut (m : Mach) (id : Nat) (h : Crew → Crew) : (m.updCrew id h).fabOut = m.fabOut := rfl
@[simp] theorem Mach.updCrew_inMsgs (m : Mach) (id : Nat) (h : Crew → Crew) : (m.updCrew id h).inMsgs = m.inMsgs := rfl
@[simp] theorem Mach.updCrew_tokens (m : Mach) (id : Nat) (h : Crew → Crew) : (m.updCrew id h).tokens = m.tokens := rfl
@[simp] theorem Mach.updCrew_peers (m : Mach) (id : Nat) (h : Crew → Crew) : (m.updCrew id h).peers = m.peers := rfl
@[simp] theorem Mach.updCrew_missed (m : Mach) (id : Nat) (h : Crew → Crew) : (m.updCrew id h).missed = m.missed := rfl
@[simp] theorem Mach.updCrew_persist (m : Mach) (id : Nat) (h : Crew → Crew) : (m.updCrew id h).persist = m.persist := rfl
@[simp] theorem Mach.updCrew_irqs (m : Mach) (id : Nat) (h : Crew → Crew) : (m.updCrew id h).irqs = m.irqs := rfl
@[simp] theorem Mach.updCrew_clocks (m : Mach) (id : Nat) (h : Crew → Crew) : (m.updCrew id h).clocks = m.clocks := rfl
@[simp] theorem Mach.updCrew_dclock (m : Mach) (id : Nat) (h : Crew → Crew) : (m.updCrew id h).dclock = m.dclock := rfl
@[simp] theorem Mach.updCrew_afresh (m : Mach) (id : Nat) (h : Crew → Crew) : (m.updCrew id h).afresh = m.afresh := rfl
@[simp] theorem Mach.updCrew_closed (m : Mach) (id : Nat) (h : Crew → Crew) : (m.updCrew id h).closed = m.closed := rfl
@[simp] theorem Mach.updCrew_zeroWords (m : Mach) (id : Nat) (h : Crew → Crew) : (m.updCrew id h).zeroWords = m.zeroWords := rfl
@[simp] theorem Mach.updCrew_shares (m : Mach) (id : Nat) (h : Crew → Crew) : (m.updCrew id h).shares = m.shares := rfl
@[simp] theorem Mach.updCrew_hostRead (m : Mach) (id : Nat) (h : Crew → Crew) : (m.updCrew id h).hostRead = m.hostRead := rfl
@[simp] theorem Mach.updCrew_lastServed (m : Mach) (id : Nat) (h : Crew → Crew) : (m.updCrew id h).lastServed = m.lastServed := rfl
@[simp] theorem Mach.updCrew_lastQueue (m : Mach) (id : Nat) (h : Crew → Crew) : (m.updCrew id h).lastQueue = m.lastQueue := rfl
@[simp] theorem Mach.updCrew_nextToken (m : Mach) (id : Nat) (h : Crew → Crew) : (m.updCrew id h).nextToken = m.nextToken := rfl
@[simp] theorem Mach.updCrew_nextId (m : Mach) (id : Nat) (h : Crew → Crew) : (m.updCrew id h).nextId = m.nextId := rfl

/-! ### Mach.updGang -/

@[simp] theorem Mach.updGang_hbm (m : Mach) (crew id : Nat) (h : Gang → Gang) : (m.updGang crew id h).hbm = m.hbm := rfl
@[simp] theorem Mach.updGang_notices (m : Mach) (crew id : Nat) (h : Gang → Gang) : (m.updGang crew id h).notices = m.notices := rfl
@[simp] theorem Mach.updGang_host (m : Mach) (crew id : Nat) (h : Gang → Gang) : (m.updGang crew id h).host = m.host := rfl
@[simp] theorem Mach.updGang_pmem (m : Mach) (crew id : Nat) (h : Gang → Gang) : (m.updGang crew id h).pmem = m.pmem := rfl
@[simp] theorem Mach.updGang_durable (m : Mach) (crew id : Nat) (h : Gang → Gang) : (m.updGang crew id h).durable = m.durable := rfl
@[simp] theorem Mach.updGang_pnames (m : Mach) (crew id : Nat) (h : Gang → Gang) : (m.updGang crew id h).pnames = m.pnames := rfl
@[simp] theorem Mach.updGang_scratch (m : Mach) (crew id : Nat) (h : Gang → Gang) : (m.updGang crew id h).scratch = m.scratch := rfl
@[simp] theorem Mach.updGang_scratchCtx (m : Mach) (crew id : Nat) (h : Gang → Gang) : (m.updGang crew id h).scratchCtx = m.scratchCtx := rfl
@[simp] theorem Mach.updGang_gauges (m : Mach) (crew id : Nat) (h : Gang → Gang) : (m.updGang crew id h).gauges = m.gauges := rfl
@[simp] theorem Mach.updGang_accs (m : Mach) (crew id : Nat) (h : Gang → Gang) : (m.updGang crew id h).accs = m.accs := rfl
@[simp] theorem Mach.updGang_l1 (m : Mach) (crew id : Nat) (h : Gang → Gang) : (m.updGang crew id h).l1 = m.l1 := rfl
@[simp] theorem Mach.updGang_l2 (m : Mach) (crew id : Nat) (h : Gang → Gang) : (m.updGang crew id h).l2 = m.l2 := rfl
@[simp] theorem Mach.updGang_tiles (m : Mach) (crew id : Nat) (h : Gang → Gang) : (m.updGang crew id h).tiles = m.tiles := rfl
@[simp] theorem Mach.updGang_sslots (m : Mach) (crew id : Nat) (h : Gang → Gang) : (m.updGang crew id h).sslots = m.sslots := rfl
@[simp] theorem Mach.updGang_posts (m : Mach) (crew id : Nat) (h : Gang → Gang) : (m.updGang crew id h).posts = m.posts := rfl
@[simp] theorem Mach.updGang_crews (m : Mach) (crew id : Nat) (h : Gang → Gang) : (m.updGang crew id h).crews = m.crews.map fun c => if c.id == crew then c.updGang id h else c := rfl
@[simp] theorem Mach.updGang_ctxs (m : Mach) (crew id : Nat) (h : Gang → Gang) : (m.updGang crew id h).ctxs = m.ctxs := rfl
@[simp] theorem Mach.updGang_tlb (m : Mach) (crew id : Nat) (h : Gang → Gang) : (m.updGang crew id h).tlb = m.tlb := rfl
@[simp] theorem Mach.updGang_hostMaps (m : Mach) (crew id : Nat) (h : Gang → Gang) : (m.updGang crew id h).hostMaps = m.hostMaps := rfl
@[simp] theorem Mach.updGang_ats (m : Mach) (crew id : Nat) (h : Gang → Gang) : (m.updGang crew id h).ats = m.ats := rfl
@[simp] theorem Mach.updGang_faults (m : Mach) (crew id : Nat) (h : Gang → Gang) : (m.updGang crew id h).faults = m.faults := rfl
@[simp] theorem Mach.updGang_rings (m : Mach) (crew id : Nat) (h : Gang → Gang) : (m.updGang crew id h).rings = m.rings := rfl
@[simp] theorem Mach.updGang_invals (m : Mach) (crew id : Nat) (h : Gang → Gang) : (m.updGang crew id h).invals = m.invals := rfl
@[simp] theorem Mach.updGang_queues (m : Mach) (crew id : Nat) (h : Gang → Gang) : (m.updGang crew id h).queues = m.queues := rfl
@[simp] theorem Mach.updGang_launches (m : Mach) (crew id : Nat) (h : Gang → Gang) : (m.updGang crew id h).launches = m.launches := rfl
@[simp] theorem Mach.updGang_fabOut (m : Mach) (crew id : Nat) (h : Gang → Gang) : (m.updGang crew id h).fabOut = m.fabOut := rfl
@[simp] theorem Mach.updGang_inMsgs (m : Mach) (crew id : Nat) (h : Gang → Gang) : (m.updGang crew id h).inMsgs = m.inMsgs := rfl
@[simp] theorem Mach.updGang_tokens (m : Mach) (crew id : Nat) (h : Gang → Gang) : (m.updGang crew id h).tokens = m.tokens := rfl
@[simp] theorem Mach.updGang_peers (m : Mach) (crew id : Nat) (h : Gang → Gang) : (m.updGang crew id h).peers = m.peers := rfl
@[simp] theorem Mach.updGang_missed (m : Mach) (crew id : Nat) (h : Gang → Gang) : (m.updGang crew id h).missed = m.missed := rfl
@[simp] theorem Mach.updGang_persist (m : Mach) (crew id : Nat) (h : Gang → Gang) : (m.updGang crew id h).persist = m.persist := rfl
@[simp] theorem Mach.updGang_irqs (m : Mach) (crew id : Nat) (h : Gang → Gang) : (m.updGang crew id h).irqs = m.irqs := rfl
@[simp] theorem Mach.updGang_clocks (m : Mach) (crew id : Nat) (h : Gang → Gang) : (m.updGang crew id h).clocks = m.clocks := rfl
@[simp] theorem Mach.updGang_dclock (m : Mach) (crew id : Nat) (h : Gang → Gang) : (m.updGang crew id h).dclock = m.dclock := rfl
@[simp] theorem Mach.updGang_afresh (m : Mach) (crew id : Nat) (h : Gang → Gang) : (m.updGang crew id h).afresh = m.afresh := rfl
@[simp] theorem Mach.updGang_closed (m : Mach) (crew id : Nat) (h : Gang → Gang) : (m.updGang crew id h).closed = m.closed := rfl
@[simp] theorem Mach.updGang_zeroWords (m : Mach) (crew id : Nat) (h : Gang → Gang) : (m.updGang crew id h).zeroWords = m.zeroWords := rfl
@[simp] theorem Mach.updGang_shares (m : Mach) (crew id : Nat) (h : Gang → Gang) : (m.updGang crew id h).shares = m.shares := rfl
@[simp] theorem Mach.updGang_hostRead (m : Mach) (crew id : Nat) (h : Gang → Gang) : (m.updGang crew id h).hostRead = m.hostRead := rfl
@[simp] theorem Mach.updGang_lastServed (m : Mach) (crew id : Nat) (h : Gang → Gang) : (m.updGang crew id h).lastServed = m.lastServed := rfl
@[simp] theorem Mach.updGang_lastQueue (m : Mach) (crew id : Nat) (h : Gang → Gang) : (m.updGang crew id h).lastQueue = m.lastQueue := rfl
@[simp] theorem Mach.updGang_nextToken (m : Mach) (crew id : Nat) (h : Gang → Gang) : (m.updGang crew id h).nextToken = m.nextToken := rfl
@[simp] theorem Mach.updGang_nextId (m : Mach) (crew id : Nat) (h : Gang → Gang) : (m.updGang crew id h).nextId = m.nextId := rfl

/-! ### Mach.updFibre -/

@[simp] theorem Mach.updFibre_hbm (m : Mach) (crew slot : Nat) (h : Fibre → Fibre) : (m.updFibre crew slot h).hbm = m.hbm := rfl
@[simp] theorem Mach.updFibre_notices (m : Mach) (crew slot : Nat) (h : Fibre → Fibre) : (m.updFibre crew slot h).notices = m.notices := rfl
@[simp] theorem Mach.updFibre_host (m : Mach) (crew slot : Nat) (h : Fibre → Fibre) : (m.updFibre crew slot h).host = m.host := rfl
@[simp] theorem Mach.updFibre_pmem (m : Mach) (crew slot : Nat) (h : Fibre → Fibre) : (m.updFibre crew slot h).pmem = m.pmem := rfl
@[simp] theorem Mach.updFibre_durable (m : Mach) (crew slot : Nat) (h : Fibre → Fibre) : (m.updFibre crew slot h).durable = m.durable := rfl
@[simp] theorem Mach.updFibre_pnames (m : Mach) (crew slot : Nat) (h : Fibre → Fibre) : (m.updFibre crew slot h).pnames = m.pnames := rfl
@[simp] theorem Mach.updFibre_scratch (m : Mach) (crew slot : Nat) (h : Fibre → Fibre) : (m.updFibre crew slot h).scratch = m.scratch := rfl
@[simp] theorem Mach.updFibre_scratchCtx (m : Mach) (crew slot : Nat) (h : Fibre → Fibre) : (m.updFibre crew slot h).scratchCtx = m.scratchCtx := rfl
@[simp] theorem Mach.updFibre_gauges (m : Mach) (crew slot : Nat) (h : Fibre → Fibre) : (m.updFibre crew slot h).gauges = m.gauges := rfl
@[simp] theorem Mach.updFibre_accs (m : Mach) (crew slot : Nat) (h : Fibre → Fibre) : (m.updFibre crew slot h).accs = m.accs := rfl
@[simp] theorem Mach.updFibre_l1 (m : Mach) (crew slot : Nat) (h : Fibre → Fibre) : (m.updFibre crew slot h).l1 = m.l1 := rfl
@[simp] theorem Mach.updFibre_l2 (m : Mach) (crew slot : Nat) (h : Fibre → Fibre) : (m.updFibre crew slot h).l2 = m.l2 := rfl
@[simp] theorem Mach.updFibre_tiles (m : Mach) (crew slot : Nat) (h : Fibre → Fibre) : (m.updFibre crew slot h).tiles = m.tiles := rfl
@[simp] theorem Mach.updFibre_sslots (m : Mach) (crew slot : Nat) (h : Fibre → Fibre) : (m.updFibre crew slot h).sslots = m.sslots := rfl
@[simp] theorem Mach.updFibre_posts (m : Mach) (crew slot : Nat) (h : Fibre → Fibre) : (m.updFibre crew slot h).posts = m.posts := rfl
@[simp] theorem Mach.updFibre_crews (m : Mach) (crew slot : Nat) (h : Fibre → Fibre) : (m.updFibre crew slot h).crews = m.crews.map fun c => if c.id == crew then c.updFibre slot h else c := rfl
@[simp] theorem Mach.updFibre_ctxs (m : Mach) (crew slot : Nat) (h : Fibre → Fibre) : (m.updFibre crew slot h).ctxs = m.ctxs := rfl
@[simp] theorem Mach.updFibre_tlb (m : Mach) (crew slot : Nat) (h : Fibre → Fibre) : (m.updFibre crew slot h).tlb = m.tlb := rfl
@[simp] theorem Mach.updFibre_hostMaps (m : Mach) (crew slot : Nat) (h : Fibre → Fibre) : (m.updFibre crew slot h).hostMaps = m.hostMaps := rfl
@[simp] theorem Mach.updFibre_ats (m : Mach) (crew slot : Nat) (h : Fibre → Fibre) : (m.updFibre crew slot h).ats = m.ats := rfl
@[simp] theorem Mach.updFibre_faults (m : Mach) (crew slot : Nat) (h : Fibre → Fibre) : (m.updFibre crew slot h).faults = m.faults := rfl
@[simp] theorem Mach.updFibre_rings (m : Mach) (crew slot : Nat) (h : Fibre → Fibre) : (m.updFibre crew slot h).rings = m.rings := rfl
@[simp] theorem Mach.updFibre_invals (m : Mach) (crew slot : Nat) (h : Fibre → Fibre) : (m.updFibre crew slot h).invals = m.invals := rfl
@[simp] theorem Mach.updFibre_queues (m : Mach) (crew slot : Nat) (h : Fibre → Fibre) : (m.updFibre crew slot h).queues = m.queues := rfl
@[simp] theorem Mach.updFibre_launches (m : Mach) (crew slot : Nat) (h : Fibre → Fibre) : (m.updFibre crew slot h).launches = m.launches := rfl
@[simp] theorem Mach.updFibre_fabOut (m : Mach) (crew slot : Nat) (h : Fibre → Fibre) : (m.updFibre crew slot h).fabOut = m.fabOut := rfl
@[simp] theorem Mach.updFibre_inMsgs (m : Mach) (crew slot : Nat) (h : Fibre → Fibre) : (m.updFibre crew slot h).inMsgs = m.inMsgs := rfl
@[simp] theorem Mach.updFibre_tokens (m : Mach) (crew slot : Nat) (h : Fibre → Fibre) : (m.updFibre crew slot h).tokens = m.tokens := rfl
@[simp] theorem Mach.updFibre_peers (m : Mach) (crew slot : Nat) (h : Fibre → Fibre) : (m.updFibre crew slot h).peers = m.peers := rfl
@[simp] theorem Mach.updFibre_missed (m : Mach) (crew slot : Nat) (h : Fibre → Fibre) : (m.updFibre crew slot h).missed = m.missed := rfl
@[simp] theorem Mach.updFibre_persist (m : Mach) (crew slot : Nat) (h : Fibre → Fibre) : (m.updFibre crew slot h).persist = m.persist := rfl
@[simp] theorem Mach.updFibre_irqs (m : Mach) (crew slot : Nat) (h : Fibre → Fibre) : (m.updFibre crew slot h).irqs = m.irqs := rfl
@[simp] theorem Mach.updFibre_clocks (m : Mach) (crew slot : Nat) (h : Fibre → Fibre) : (m.updFibre crew slot h).clocks = m.clocks := rfl
@[simp] theorem Mach.updFibre_dclock (m : Mach) (crew slot : Nat) (h : Fibre → Fibre) : (m.updFibre crew slot h).dclock = m.dclock := rfl
@[simp] theorem Mach.updFibre_afresh (m : Mach) (crew slot : Nat) (h : Fibre → Fibre) : (m.updFibre crew slot h).afresh = m.afresh := rfl
@[simp] theorem Mach.updFibre_closed (m : Mach) (crew slot : Nat) (h : Fibre → Fibre) : (m.updFibre crew slot h).closed = m.closed := rfl
@[simp] theorem Mach.updFibre_zeroWords (m : Mach) (crew slot : Nat) (h : Fibre → Fibre) : (m.updFibre crew slot h).zeroWords = m.zeroWords := rfl
@[simp] theorem Mach.updFibre_shares (m : Mach) (crew slot : Nat) (h : Fibre → Fibre) : (m.updFibre crew slot h).shares = m.shares := rfl
@[simp] theorem Mach.updFibre_hostRead (m : Mach) (crew slot : Nat) (h : Fibre → Fibre) : (m.updFibre crew slot h).hostRead = m.hostRead := rfl
@[simp] theorem Mach.updFibre_lastServed (m : Mach) (crew slot : Nat) (h : Fibre → Fibre) : (m.updFibre crew slot h).lastServed = m.lastServed := rfl
@[simp] theorem Mach.updFibre_lastQueue (m : Mach) (crew slot : Nat) (h : Fibre → Fibre) : (m.updFibre crew slot h).lastQueue = m.lastQueue := rfl
@[simp] theorem Mach.updFibre_nextToken (m : Mach) (crew slot : Nat) (h : Fibre → Fibre) : (m.updFibre crew slot h).nextToken = m.nextToken := rfl
@[simp] theorem Mach.updFibre_nextId (m : Mach) (crew slot : Nat) (h : Fibre → Fibre) : (m.updFibre crew slot h).nextId = m.nextId := rfl

/-! ### Mach.setCtx -/

@[simp] theorem Mach.setCtx_hbm (m : Mach) (x : Ctx) : (m.setCtx x).hbm = m.hbm := rfl
@[simp] theorem Mach.setCtx_notices (m : Mach) (x : Ctx) : (m.setCtx x).notices = m.notices := rfl
@[simp] theorem Mach.setCtx_host (m : Mach) (x : Ctx) : (m.setCtx x).host = m.host := rfl
@[simp] theorem Mach.setCtx_pmem (m : Mach) (x : Ctx) : (m.setCtx x).pmem = m.pmem := rfl
@[simp] theorem Mach.setCtx_durable (m : Mach) (x : Ctx) : (m.setCtx x).durable = m.durable := rfl
@[simp] theorem Mach.setCtx_pnames (m : Mach) (x : Ctx) : (m.setCtx x).pnames = m.pnames := rfl
@[simp] theorem Mach.setCtx_scratch (m : Mach) (x : Ctx) : (m.setCtx x).scratch = m.scratch := rfl
@[simp] theorem Mach.setCtx_scratchCtx (m : Mach) (x : Ctx) : (m.setCtx x).scratchCtx = m.scratchCtx := rfl
@[simp] theorem Mach.setCtx_gauges (m : Mach) (x : Ctx) : (m.setCtx x).gauges = m.gauges := rfl
@[simp] theorem Mach.setCtx_accs (m : Mach) (x : Ctx) : (m.setCtx x).accs = m.accs := rfl
@[simp] theorem Mach.setCtx_l1 (m : Mach) (x : Ctx) : (m.setCtx x).l1 = m.l1 := rfl
@[simp] theorem Mach.setCtx_l2 (m : Mach) (x : Ctx) : (m.setCtx x).l2 = m.l2 := rfl
@[simp] theorem Mach.setCtx_tiles (m : Mach) (x : Ctx) : (m.setCtx x).tiles = m.tiles := rfl
@[simp] theorem Mach.setCtx_sslots (m : Mach) (x : Ctx) : (m.setCtx x).sslots = m.sslots := rfl
@[simp] theorem Mach.setCtx_posts (m : Mach) (x : Ctx) : (m.setCtx x).posts = m.posts := rfl
@[simp] theorem Mach.setCtx_crews (m : Mach) (x : Ctx) : (m.setCtx x).crews = m.crews := rfl
@[simp] theorem Mach.setCtx_ctxs (m : Mach) (x : Ctx) : (m.setCtx x).ctxs = putBy (fun y => y.addr == x.addr) x m.ctxs := rfl
@[simp] theorem Mach.setCtx_tlb (m : Mach) (x : Ctx) : (m.setCtx x).tlb = m.tlb := rfl
@[simp] theorem Mach.setCtx_hostMaps (m : Mach) (x : Ctx) : (m.setCtx x).hostMaps = m.hostMaps := rfl
@[simp] theorem Mach.setCtx_ats (m : Mach) (x : Ctx) : (m.setCtx x).ats = m.ats := rfl
@[simp] theorem Mach.setCtx_faults (m : Mach) (x : Ctx) : (m.setCtx x).faults = m.faults := rfl
@[simp] theorem Mach.setCtx_rings (m : Mach) (x : Ctx) : (m.setCtx x).rings = m.rings := rfl
@[simp] theorem Mach.setCtx_invals (m : Mach) (x : Ctx) : (m.setCtx x).invals = m.invals := rfl
@[simp] theorem Mach.setCtx_queues (m : Mach) (x : Ctx) : (m.setCtx x).queues = m.queues := rfl
@[simp] theorem Mach.setCtx_launches (m : Mach) (x : Ctx) : (m.setCtx x).launches = m.launches := rfl
@[simp] theorem Mach.setCtx_fabOut (m : Mach) (x : Ctx) : (m.setCtx x).fabOut = m.fabOut := rfl
@[simp] theorem Mach.setCtx_inMsgs (m : Mach) (x : Ctx) : (m.setCtx x).inMsgs = m.inMsgs := rfl
@[simp] theorem Mach.setCtx_tokens (m : Mach) (x : Ctx) : (m.setCtx x).tokens = m.tokens := rfl
@[simp] theorem Mach.setCtx_peers (m : Mach) (x : Ctx) : (m.setCtx x).peers = m.peers := rfl
@[simp] theorem Mach.setCtx_missed (m : Mach) (x : Ctx) : (m.setCtx x).missed = m.missed := rfl
@[simp] theorem Mach.setCtx_persist (m : Mach) (x : Ctx) : (m.setCtx x).persist = m.persist := rfl
@[simp] theorem Mach.setCtx_irqs (m : Mach) (x : Ctx) : (m.setCtx x).irqs = m.irqs := rfl
@[simp] theorem Mach.setCtx_clocks (m : Mach) (x : Ctx) : (m.setCtx x).clocks = m.clocks := rfl
@[simp] theorem Mach.setCtx_dclock (m : Mach) (x : Ctx) : (m.setCtx x).dclock = m.dclock := rfl
@[simp] theorem Mach.setCtx_afresh (m : Mach) (x : Ctx) : (m.setCtx x).afresh = m.afresh := rfl
@[simp] theorem Mach.setCtx_closed (m : Mach) (x : Ctx) : (m.setCtx x).closed = m.closed := rfl
@[simp] theorem Mach.setCtx_zeroWords (m : Mach) (x : Ctx) : (m.setCtx x).zeroWords = m.zeroWords := rfl
@[simp] theorem Mach.setCtx_shares (m : Mach) (x : Ctx) : (m.setCtx x).shares = m.shares := rfl
@[simp] theorem Mach.setCtx_hostRead (m : Mach) (x : Ctx) : (m.setCtx x).hostRead = m.hostRead := rfl
@[simp] theorem Mach.setCtx_lastServed (m : Mach) (x : Ctx) : (m.setCtx x).lastServed = m.lastServed := rfl
@[simp] theorem Mach.setCtx_lastQueue (m : Mach) (x : Ctx) : (m.setCtx x).lastQueue = m.lastQueue := rfl
@[simp] theorem Mach.setCtx_nextToken (m : Mach) (x : Ctx) : (m.setCtx x).nextToken = m.nextToken := rfl
@[simp] theorem Mach.setCtx_nextId (m : Mach) (x : Ctx) : (m.setCtx x).nextId = m.nextId := rfl

/-! ### Mach.setTile -/

@[simp] theorem Mach.setTile_hbm (m : Mach) (t : Tile) : (m.setTile t).hbm = m.hbm := rfl
@[simp] theorem Mach.setTile_notices (m : Mach) (t : Tile) : (m.setTile t).notices = m.notices := rfl
@[simp] theorem Mach.setTile_host (m : Mach) (t : Tile) : (m.setTile t).host = m.host := rfl
@[simp] theorem Mach.setTile_pmem (m : Mach) (t : Tile) : (m.setTile t).pmem = m.pmem := rfl
@[simp] theorem Mach.setTile_durable (m : Mach) (t : Tile) : (m.setTile t).durable = m.durable := rfl
@[simp] theorem Mach.setTile_pnames (m : Mach) (t : Tile) : (m.setTile t).pnames = m.pnames := rfl
@[simp] theorem Mach.setTile_scratch (m : Mach) (t : Tile) : (m.setTile t).scratch = m.scratch := rfl
@[simp] theorem Mach.setTile_scratchCtx (m : Mach) (t : Tile) : (m.setTile t).scratchCtx = m.scratchCtx := rfl
@[simp] theorem Mach.setTile_gauges (m : Mach) (t : Tile) : (m.setTile t).gauges = m.gauges := rfl
@[simp] theorem Mach.setTile_accs (m : Mach) (t : Tile) : (m.setTile t).accs = m.accs := rfl
@[simp] theorem Mach.setTile_l1 (m : Mach) (t : Tile) : (m.setTile t).l1 = m.l1 := rfl
@[simp] theorem Mach.setTile_l2 (m : Mach) (t : Tile) : (m.setTile t).l2 = m.l2 := rfl
@[simp] theorem Mach.setTile_tiles (m : Mach) (t : Tile) : (m.setTile t).tiles = putBy (fun u => u.core == t.core && u.n == t.n) t m.tiles := rfl
@[simp] theorem Mach.setTile_sslots (m : Mach) (t : Tile) : (m.setTile t).sslots = m.sslots := rfl
@[simp] theorem Mach.setTile_posts (m : Mach) (t : Tile) : (m.setTile t).posts = m.posts := rfl
@[simp] theorem Mach.setTile_crews (m : Mach) (t : Tile) : (m.setTile t).crews = m.crews := rfl
@[simp] theorem Mach.setTile_ctxs (m : Mach) (t : Tile) : (m.setTile t).ctxs = m.ctxs := rfl
@[simp] theorem Mach.setTile_tlb (m : Mach) (t : Tile) : (m.setTile t).tlb = m.tlb := rfl
@[simp] theorem Mach.setTile_hostMaps (m : Mach) (t : Tile) : (m.setTile t).hostMaps = m.hostMaps := rfl
@[simp] theorem Mach.setTile_ats (m : Mach) (t : Tile) : (m.setTile t).ats = m.ats := rfl
@[simp] theorem Mach.setTile_faults (m : Mach) (t : Tile) : (m.setTile t).faults = m.faults := rfl
@[simp] theorem Mach.setTile_rings (m : Mach) (t : Tile) : (m.setTile t).rings = m.rings := rfl
@[simp] theorem Mach.setTile_invals (m : Mach) (t : Tile) : (m.setTile t).invals = m.invals := rfl
@[simp] theorem Mach.setTile_queues (m : Mach) (t : Tile) : (m.setTile t).queues = m.queues := rfl
@[simp] theorem Mach.setTile_launches (m : Mach) (t : Tile) : (m.setTile t).launches = m.launches := rfl
@[simp] theorem Mach.setTile_fabOut (m : Mach) (t : Tile) : (m.setTile t).fabOut = m.fabOut := rfl
@[simp] theorem Mach.setTile_inMsgs (m : Mach) (t : Tile) : (m.setTile t).inMsgs = m.inMsgs := rfl
@[simp] theorem Mach.setTile_tokens (m : Mach) (t : Tile) : (m.setTile t).tokens = m.tokens := rfl
@[simp] theorem Mach.setTile_peers (m : Mach) (t : Tile) : (m.setTile t).peers = m.peers := rfl
@[simp] theorem Mach.setTile_missed (m : Mach) (t : Tile) : (m.setTile t).missed = m.missed := rfl
@[simp] theorem Mach.setTile_persist (m : Mach) (t : Tile) : (m.setTile t).persist = m.persist := rfl
@[simp] theorem Mach.setTile_irqs (m : Mach) (t : Tile) : (m.setTile t).irqs = m.irqs := rfl
@[simp] theorem Mach.setTile_clocks (m : Mach) (t : Tile) : (m.setTile t).clocks = m.clocks := rfl
@[simp] theorem Mach.setTile_dclock (m : Mach) (t : Tile) : (m.setTile t).dclock = m.dclock := rfl
@[simp] theorem Mach.setTile_afresh (m : Mach) (t : Tile) : (m.setTile t).afresh = m.afresh := rfl
@[simp] theorem Mach.setTile_closed (m : Mach) (t : Tile) : (m.setTile t).closed = m.closed := rfl
@[simp] theorem Mach.setTile_zeroWords (m : Mach) (t : Tile) : (m.setTile t).zeroWords = m.zeroWords := rfl
@[simp] theorem Mach.setTile_shares (m : Mach) (t : Tile) : (m.setTile t).shares = m.shares := rfl
@[simp] theorem Mach.setTile_hostRead (m : Mach) (t : Tile) : (m.setTile t).hostRead = m.hostRead := rfl
@[simp] theorem Mach.setTile_lastServed (m : Mach) (t : Tile) : (m.setTile t).lastServed = m.lastServed := rfl
@[simp] theorem Mach.setTile_lastQueue (m : Mach) (t : Tile) : (m.setTile t).lastQueue = m.lastQueue := rfl
@[simp] theorem Mach.setTile_nextToken (m : Mach) (t : Tile) : (m.setTile t).nextToken = m.nextToken := rfl
@[simp] theorem Mach.setTile_nextId (m : Mach) (t : Tile) : (m.setTile t).nextId = m.nextId := rfl

/-! ### Mach.advance -/

@[simp] theorem Mach.advance_hbm (m : Mach) (E : Env) (e : Enc) : (m.advance E e).hbm = m.hbm := rfl
@[simp] theorem Mach.advance_notices (m : Mach) (E : Env) (e : Enc) : (m.advance E e).notices = m.notices := rfl
@[simp] theorem Mach.advance_host (m : Mach) (E : Env) (e : Enc) : (m.advance E e).host = m.host := rfl
@[simp] theorem Mach.advance_pmem (m : Mach) (E : Env) (e : Enc) : (m.advance E e).pmem = m.pmem := rfl
@[simp] theorem Mach.advance_durable (m : Mach) (E : Env) (e : Enc) : (m.advance E e).durable = m.durable := rfl
@[simp] theorem Mach.advance_pnames (m : Mach) (E : Env) (e : Enc) : (m.advance E e).pnames = m.pnames := rfl
@[simp] theorem Mach.advance_scratch (m : Mach) (E : Env) (e : Enc) : (m.advance E e).scratch = m.scratch := rfl
@[simp] theorem Mach.advance_scratchCtx (m : Mach) (E : Env) (e : Enc) : (m.advance E e).scratchCtx = m.scratchCtx := rfl
@[simp] theorem Mach.advance_gauges (m : Mach) (E : Env) (e : Enc) : (m.advance E e).gauges = m.gauges := rfl
@[simp] theorem Mach.advance_accs (m : Mach) (E : Env) (e : Enc) : (m.advance E e).accs = m.accs := rfl
@[simp] theorem Mach.advance_l1 (m : Mach) (E : Env) (e : Enc) : (m.advance E e).l1 = m.l1 := rfl
@[simp] theorem Mach.advance_l2 (m : Mach) (E : Env) (e : Enc) : (m.advance E e).l2 = m.l2 := rfl
@[simp] theorem Mach.advance_tiles (m : Mach) (E : Env) (e : Enc) : (m.advance E e).tiles = m.tiles := rfl
@[simp] theorem Mach.advance_sslots (m : Mach) (E : Env) (e : Enc) : (m.advance E e).sslots = m.sslots := rfl
@[simp] theorem Mach.advance_posts (m : Mach) (E : Env) (e : Enc) : (m.advance E e).posts = m.posts := rfl
@[simp] theorem Mach.advance_ctxs (m : Mach) (E : Env) (e : Enc) : (m.advance E e).ctxs = m.ctxs := rfl
@[simp] theorem Mach.advance_tlb (m : Mach) (E : Env) (e : Enc) : (m.advance E e).tlb = m.tlb := rfl
@[simp] theorem Mach.advance_hostMaps (m : Mach) (E : Env) (e : Enc) : (m.advance E e).hostMaps = m.hostMaps := rfl
@[simp] theorem Mach.advance_ats (m : Mach) (E : Env) (e : Enc) : (m.advance E e).ats = m.ats := rfl
@[simp] theorem Mach.advance_faults (m : Mach) (E : Env) (e : Enc) : (m.advance E e).faults = m.faults := rfl
@[simp] theorem Mach.advance_rings (m : Mach) (E : Env) (e : Enc) : (m.advance E e).rings = m.rings := rfl
@[simp] theorem Mach.advance_invals (m : Mach) (E : Env) (e : Enc) : (m.advance E e).invals = m.invals := rfl
@[simp] theorem Mach.advance_queues (m : Mach) (E : Env) (e : Enc) : (m.advance E e).queues = m.queues := rfl
@[simp] theorem Mach.advance_launches (m : Mach) (E : Env) (e : Enc) : (m.advance E e).launches = m.launches := rfl
@[simp] theorem Mach.advance_fabOut (m : Mach) (E : Env) (e : Enc) : (m.advance E e).fabOut = m.fabOut := rfl
@[simp] theorem Mach.advance_inMsgs (m : Mach) (E : Env) (e : Enc) : (m.advance E e).inMsgs = m.inMsgs := rfl
@[simp] theorem Mach.advance_tokens (m : Mach) (E : Env) (e : Enc) : (m.advance E e).tokens = m.tokens := rfl
@[simp] theorem Mach.advance_peers (m : Mach) (E : Env) (e : Enc) : (m.advance E e).peers = m.peers := rfl
@[simp] theorem Mach.advance_missed (m : Mach) (E : Env) (e : Enc) : (m.advance E e).missed = m.missed := rfl
@[simp] theorem Mach.advance_persist (m : Mach) (E : Env) (e : Enc) : (m.advance E e).persist = m.persist := rfl
@[simp] theorem Mach.advance_irqs (m : Mach) (E : Env) (e : Enc) : (m.advance E e).irqs = m.irqs := rfl
@[simp] theorem Mach.advance_clocks (m : Mach) (E : Env) (e : Enc) : (m.advance E e).clocks = m.clocks := rfl
@[simp] theorem Mach.advance_dclock (m : Mach) (E : Env) (e : Enc) : (m.advance E e).dclock = m.dclock := rfl
@[simp] theorem Mach.advance_afresh (m : Mach) (E : Env) (e : Enc) : (m.advance E e).afresh = m.afresh := rfl
@[simp] theorem Mach.advance_closed (m : Mach) (E : Env) (e : Enc) : (m.advance E e).closed = m.closed := rfl
@[simp] theorem Mach.advance_zeroWords (m : Mach) (E : Env) (e : Enc) : (m.advance E e).zeroWords = m.zeroWords := rfl
@[simp] theorem Mach.advance_shares (m : Mach) (E : Env) (e : Enc) : (m.advance E e).shares = m.shares := rfl
@[simp] theorem Mach.advance_hostRead (m : Mach) (E : Env) (e : Enc) : (m.advance E e).hostRead = m.hostRead := rfl
@[simp] theorem Mach.advance_lastServed (m : Mach) (E : Env) (e : Enc) : (m.advance E e).lastServed = m.lastServed := rfl
@[simp] theorem Mach.advance_lastQueue (m : Mach) (E : Env) (e : Enc) : (m.advance E e).lastQueue = m.lastQueue := rfl
@[simp] theorem Mach.advance_nextToken (m : Mach) (E : Env) (e : Enc) : (m.advance E e).nextToken = m.nextToken := rfl
@[simp] theorem Mach.advance_nextId (m : Mach) (E : Env) (e : Enc) : (m.advance E e).nextId = m.nextId := rfl

/-! ### Mach.hold -/

@[simp] theorem Mach.hold_hbm (m : Mach) (crew gang : Nat) (own : Bool) : (m.hold crew gang own).hbm = m.hbm := rfl
@[simp] theorem Mach.hold_notices (m : Mach) (crew gang : Nat) (own : Bool) : (m.hold crew gang own).notices = m.notices := rfl
@[simp] theorem Mach.hold_host (m : Mach) (crew gang : Nat) (own : Bool) : (m.hold crew gang own).host = m.host := rfl
@[simp] theorem Mach.hold_pmem (m : Mach) (crew gang : Nat) (own : Bool) : (m.hold crew gang own).pmem = m.pmem := rfl
@[simp] theorem Mach.hold_durable (m : Mach) (crew gang : Nat) (own : Bool) : (m.hold crew gang own).durable = m.durable := rfl
@[simp] theorem Mach.hold_pnames (m : Mach) (crew gang : Nat) (own : Bool) : (m.hold crew gang own).pnames = m.pnames := rfl
@[simp] theorem Mach.hold_scratch (m : Mach) (crew gang : Nat) (own : Bool) : (m.hold crew gang own).scratch = m.scratch := rfl
@[simp] theorem Mach.hold_scratchCtx (m : Mach) (crew gang : Nat) (own : Bool) : (m.hold crew gang own).scratchCtx = m.scratchCtx := rfl
@[simp] theorem Mach.hold_gauges (m : Mach) (crew gang : Nat) (own : Bool) : (m.hold crew gang own).gauges = m.gauges := rfl
@[simp] theorem Mach.hold_accs (m : Mach) (crew gang : Nat) (own : Bool) : (m.hold crew gang own).accs = m.accs := rfl
@[simp] theorem Mach.hold_l1 (m : Mach) (crew gang : Nat) (own : Bool) : (m.hold crew gang own).l1 = m.l1 := rfl
@[simp] theorem Mach.hold_l2 (m : Mach) (crew gang : Nat) (own : Bool) : (m.hold crew gang own).l2 = m.l2 := rfl
@[simp] theorem Mach.hold_tiles (m : Mach) (crew gang : Nat) (own : Bool) : (m.hold crew gang own).tiles = m.tiles := rfl
@[simp] theorem Mach.hold_sslots (m : Mach) (crew gang : Nat) (own : Bool) : (m.hold crew gang own).sslots = m.sslots := rfl
@[simp] theorem Mach.hold_posts (m : Mach) (crew gang : Nat) (own : Bool) : (m.hold crew gang own).posts = m.posts := rfl
@[simp] theorem Mach.hold_ctxs (m : Mach) (crew gang : Nat) (own : Bool) : (m.hold crew gang own).ctxs = m.ctxs := rfl
@[simp] theorem Mach.hold_tlb (m : Mach) (crew gang : Nat) (own : Bool) : (m.hold crew gang own).tlb = m.tlb := rfl
@[simp] theorem Mach.hold_hostMaps (m : Mach) (crew gang : Nat) (own : Bool) : (m.hold crew gang own).hostMaps = m.hostMaps := rfl
@[simp] theorem Mach.hold_ats (m : Mach) (crew gang : Nat) (own : Bool) : (m.hold crew gang own).ats = m.ats := rfl
@[simp] theorem Mach.hold_faults (m : Mach) (crew gang : Nat) (own : Bool) : (m.hold crew gang own).faults = m.faults := rfl
@[simp] theorem Mach.hold_rings (m : Mach) (crew gang : Nat) (own : Bool) : (m.hold crew gang own).rings = m.rings := rfl
@[simp] theorem Mach.hold_invals (m : Mach) (crew gang : Nat) (own : Bool) : (m.hold crew gang own).invals = m.invals := rfl
@[simp] theorem Mach.hold_queues (m : Mach) (crew gang : Nat) (own : Bool) : (m.hold crew gang own).queues = m.queues := rfl
@[simp] theorem Mach.hold_launches (m : Mach) (crew gang : Nat) (own : Bool) : (m.hold crew gang own).launches = m.launches := rfl
@[simp] theorem Mach.hold_fabOut (m : Mach) (crew gang : Nat) (own : Bool) : (m.hold crew gang own).fabOut = m.fabOut := rfl
@[simp] theorem Mach.hold_inMsgs (m : Mach) (crew gang : Nat) (own : Bool) : (m.hold crew gang own).inMsgs = m.inMsgs := rfl
@[simp] theorem Mach.hold_tokens (m : Mach) (crew gang : Nat) (own : Bool) : (m.hold crew gang own).tokens = m.tokens := rfl
@[simp] theorem Mach.hold_peers (m : Mach) (crew gang : Nat) (own : Bool) : (m.hold crew gang own).peers = m.peers := rfl
@[simp] theorem Mach.hold_missed (m : Mach) (crew gang : Nat) (own : Bool) : (m.hold crew gang own).missed = m.missed := rfl
@[simp] theorem Mach.hold_persist (m : Mach) (crew gang : Nat) (own : Bool) : (m.hold crew gang own).persist = m.persist := rfl
@[simp] theorem Mach.hold_irqs (m : Mach) (crew gang : Nat) (own : Bool) : (m.hold crew gang own).irqs = m.irqs := rfl
@[simp] theorem Mach.hold_clocks (m : Mach) (crew gang : Nat) (own : Bool) : (m.hold crew gang own).clocks = m.clocks := rfl
@[simp] theorem Mach.hold_dclock (m : Mach) (crew gang : Nat) (own : Bool) : (m.hold crew gang own).dclock = m.dclock := rfl
@[simp] theorem Mach.hold_afresh (m : Mach) (crew gang : Nat) (own : Bool) : (m.hold crew gang own).afresh = m.afresh := rfl
@[simp] theorem Mach.hold_closed (m : Mach) (crew gang : Nat) (own : Bool) : (m.hold crew gang own).closed = m.closed := rfl
@[simp] theorem Mach.hold_zeroWords (m : Mach) (crew gang : Nat) (own : Bool) : (m.hold crew gang own).zeroWords = m.zeroWords := rfl
@[simp] theorem Mach.hold_shares (m : Mach) (crew gang : Nat) (own : Bool) : (m.hold crew gang own).shares = m.shares := rfl
@[simp] theorem Mach.hold_hostRead (m : Mach) (crew gang : Nat) (own : Bool) : (m.hold crew gang own).hostRead = m.hostRead := rfl
@[simp] theorem Mach.hold_lastServed (m : Mach) (crew gang : Nat) (own : Bool) : (m.hold crew gang own).lastServed = m.lastServed := rfl
@[simp] theorem Mach.hold_lastQueue (m : Mach) (crew gang : Nat) (own : Bool) : (m.hold crew gang own).lastQueue = m.lastQueue := rfl
@[simp] theorem Mach.hold_nextToken (m : Mach) (crew gang : Nat) (own : Bool) : (m.hold crew gang own).nextToken = m.nextToken := rfl
@[simp] theorem Mach.hold_nextId (m : Mach) (crew gang : Nat) (own : Bool) : (m.hold crew gang own).nextId = m.nextId := rfl

/-! ### Mach.parkGang -/

@[simp] theorem Mach.parkGang_hbm (m : Mach) (crew gang : Nat) (r : ParkReason) (w : Wake) : (m.parkGang crew gang r w).hbm = m.hbm := rfl
@[simp] theorem Mach.parkGang_notices (m : Mach) (crew gang : Nat) (r : ParkReason) (w : Wake) : (m.parkGang crew gang r w).notices = m.notices := rfl
@[simp] theorem Mach.parkGang_host (m : Mach) (crew gang : Nat) (r : ParkReason) (w : Wake) : (m.parkGang crew gang r w).host = m.host := rfl
@[simp] theorem Mach.parkGang_pmem (m : Mach) (crew gang : Nat) (r : ParkReason) (w : Wake) : (m.parkGang crew gang r w).pmem = m.pmem := rfl
@[simp] theorem Mach.parkGang_durable (m : Mach) (crew gang : Nat) (r : ParkReason) (w : Wake) : (m.parkGang crew gang r w).durable = m.durable := rfl
@[simp] theorem Mach.parkGang_pnames (m : Mach) (crew gang : Nat) (r : ParkReason) (w : Wake) : (m.parkGang crew gang r w).pnames = m.pnames := rfl
@[simp] theorem Mach.parkGang_scratch (m : Mach) (crew gang : Nat) (r : ParkReason) (w : Wake) : (m.parkGang crew gang r w).scratch = m.scratch := rfl
@[simp] theorem Mach.parkGang_scratchCtx (m : Mach) (crew gang : Nat) (r : ParkReason) (w : Wake) : (m.parkGang crew gang r w).scratchCtx = m.scratchCtx := rfl
@[simp] theorem Mach.parkGang_gauges (m : Mach) (crew gang : Nat) (r : ParkReason) (w : Wake) : (m.parkGang crew gang r w).gauges = m.gauges := rfl
@[simp] theorem Mach.parkGang_accs (m : Mach) (crew gang : Nat) (r : ParkReason) (w : Wake) : (m.parkGang crew gang r w).accs = m.accs := rfl
@[simp] theorem Mach.parkGang_l1 (m : Mach) (crew gang : Nat) (r : ParkReason) (w : Wake) : (m.parkGang crew gang r w).l1 = m.l1 := rfl
@[simp] theorem Mach.parkGang_l2 (m : Mach) (crew gang : Nat) (r : ParkReason) (w : Wake) : (m.parkGang crew gang r w).l2 = m.l2 := rfl
@[simp] theorem Mach.parkGang_tiles (m : Mach) (crew gang : Nat) (r : ParkReason) (w : Wake) : (m.parkGang crew gang r w).tiles = m.tiles := rfl
@[simp] theorem Mach.parkGang_sslots (m : Mach) (crew gang : Nat) (r : ParkReason) (w : Wake) : (m.parkGang crew gang r w).sslots = m.sslots := rfl
@[simp] theorem Mach.parkGang_posts (m : Mach) (crew gang : Nat) (r : ParkReason) (w : Wake) : (m.parkGang crew gang r w).posts = m.posts := rfl
@[simp] theorem Mach.parkGang_ctxs (m : Mach) (crew gang : Nat) (r : ParkReason) (w : Wake) : (m.parkGang crew gang r w).ctxs = m.ctxs := rfl
@[simp] theorem Mach.parkGang_tlb (m : Mach) (crew gang : Nat) (r : ParkReason) (w : Wake) : (m.parkGang crew gang r w).tlb = m.tlb := rfl
@[simp] theorem Mach.parkGang_hostMaps (m : Mach) (crew gang : Nat) (r : ParkReason) (w : Wake) : (m.parkGang crew gang r w).hostMaps = m.hostMaps := rfl
@[simp] theorem Mach.parkGang_ats (m : Mach) (crew gang : Nat) (r : ParkReason) (w : Wake) : (m.parkGang crew gang r w).ats = m.ats := rfl
@[simp] theorem Mach.parkGang_faults (m : Mach) (crew gang : Nat) (r : ParkReason) (w : Wake) : (m.parkGang crew gang r w).faults = m.faults := rfl
@[simp] theorem Mach.parkGang_rings (m : Mach) (crew gang : Nat) (r : ParkReason) (w : Wake) : (m.parkGang crew gang r w).rings = m.rings := rfl
@[simp] theorem Mach.parkGang_invals (m : Mach) (crew gang : Nat) (r : ParkReason) (w : Wake) : (m.parkGang crew gang r w).invals = m.invals := rfl
@[simp] theorem Mach.parkGang_queues (m : Mach) (crew gang : Nat) (r : ParkReason) (w : Wake) : (m.parkGang crew gang r w).queues = m.queues := rfl
@[simp] theorem Mach.parkGang_launches (m : Mach) (crew gang : Nat) (r : ParkReason) (w : Wake) : (m.parkGang crew gang r w).launches = m.launches := rfl
@[simp] theorem Mach.parkGang_fabOut (m : Mach) (crew gang : Nat) (r : ParkReason) (w : Wake) : (m.parkGang crew gang r w).fabOut = m.fabOut := rfl
@[simp] theorem Mach.parkGang_inMsgs (m : Mach) (crew gang : Nat) (r : ParkReason) (w : Wake) : (m.parkGang crew gang r w).inMsgs = m.inMsgs := rfl
@[simp] theorem Mach.parkGang_tokens (m : Mach) (crew gang : Nat) (r : ParkReason) (w : Wake) : (m.parkGang crew gang r w).tokens = m.tokens := rfl
@[simp] theorem Mach.parkGang_peers (m : Mach) (crew gang : Nat) (r : ParkReason) (w : Wake) : (m.parkGang crew gang r w).peers = m.peers := rfl
@[simp] theorem Mach.parkGang_missed (m : Mach) (crew gang : Nat) (r : ParkReason) (w : Wake) : (m.parkGang crew gang r w).missed = m.missed := rfl
@[simp] theorem Mach.parkGang_persist (m : Mach) (crew gang : Nat) (r : ParkReason) (w : Wake) : (m.parkGang crew gang r w).persist = m.persist := rfl
@[simp] theorem Mach.parkGang_irqs (m : Mach) (crew gang : Nat) (r : ParkReason) (w : Wake) : (m.parkGang crew gang r w).irqs = m.irqs := rfl
@[simp] theorem Mach.parkGang_clocks (m : Mach) (crew gang : Nat) (r : ParkReason) (w : Wake) : (m.parkGang crew gang r w).clocks = m.clocks := rfl
@[simp] theorem Mach.parkGang_dclock (m : Mach) (crew gang : Nat) (r : ParkReason) (w : Wake) : (m.parkGang crew gang r w).dclock = m.dclock := rfl
@[simp] theorem Mach.parkGang_afresh (m : Mach) (crew gang : Nat) (r : ParkReason) (w : Wake) : (m.parkGang crew gang r w).afresh = m.afresh := rfl
@[simp] theorem Mach.parkGang_closed (m : Mach) (crew gang : Nat) (r : ParkReason) (w : Wake) : (m.parkGang crew gang r w).closed = m.closed := rfl
@[simp] theorem Mach.parkGang_zeroWords (m : Mach) (crew gang : Nat) (r : ParkReason) (w : Wake) : (m.parkGang crew gang r w).zeroWords = m.zeroWords := rfl
@[simp] theorem Mach.parkGang_shares (m : Mach) (crew gang : Nat) (r : ParkReason) (w : Wake) : (m.parkGang crew gang r w).shares = m.shares := rfl
@[simp] theorem Mach.parkGang_hostRead (m : Mach) (crew gang : Nat) (r : ParkReason) (w : Wake) : (m.parkGang crew gang r w).hostRead = m.hostRead := rfl
@[simp] theorem Mach.parkGang_lastServed (m : Mach) (crew gang : Nat) (r : ParkReason) (w : Wake) : (m.parkGang crew gang r w).lastServed = m.lastServed := rfl
@[simp] theorem Mach.parkGang_lastQueue (m : Mach) (crew gang : Nat) (r : ParkReason) (w : Wake) : (m.parkGang crew gang r w).lastQueue = m.lastQueue := rfl
@[simp] theorem Mach.parkGang_nextToken (m : Mach) (crew gang : Nat) (r : ParkReason) (w : Wake) : (m.parkGang crew gang r w).nextToken = m.nextToken := rfl
@[simp] theorem Mach.parkGang_nextId (m : Mach) (crew gang : Nat) (r : ParkReason) (w : Wake) : (m.parkGang crew gang r w).nextId = m.nextId := rfl

/-! ### Mach.tick -/

@[simp] theorem Mach.tick_hbm (m : Mach) (core n : Nat) : (m.tick core n).hbm = m.hbm := by unfold Mach.tick; split <;> rfl
@[simp] theorem Mach.tick_notices (m : Mach) (core n : Nat) : (m.tick core n).notices = m.notices := by unfold Mach.tick; split <;> rfl
@[simp] theorem Mach.tick_host (m : Mach) (core n : Nat) : (m.tick core n).host = m.host := by unfold Mach.tick; split <;> rfl
@[simp] theorem Mach.tick_pmem (m : Mach) (core n : Nat) : (m.tick core n).pmem = m.pmem := by unfold Mach.tick; split <;> rfl
@[simp] theorem Mach.tick_durable (m : Mach) (core n : Nat) : (m.tick core n).durable = m.durable := by unfold Mach.tick; split <;> rfl
@[simp] theorem Mach.tick_pnames (m : Mach) (core n : Nat) : (m.tick core n).pnames = m.pnames := by unfold Mach.tick; split <;> rfl
@[simp] theorem Mach.tick_scratch (m : Mach) (core n : Nat) : (m.tick core n).scratch = m.scratch := by unfold Mach.tick; split <;> rfl
@[simp] theorem Mach.tick_scratchCtx (m : Mach) (core n : Nat) : (m.tick core n).scratchCtx = m.scratchCtx := by unfold Mach.tick; split <;> rfl
@[simp] theorem Mach.tick_gauges (m : Mach) (core n : Nat) : (m.tick core n).gauges = m.gauges := by unfold Mach.tick; split <;> rfl
@[simp] theorem Mach.tick_accs (m : Mach) (core n : Nat) : (m.tick core n).accs = m.accs := by unfold Mach.tick; split <;> rfl
@[simp] theorem Mach.tick_l1 (m : Mach) (core n : Nat) : (m.tick core n).l1 = m.l1 := by unfold Mach.tick; split <;> rfl
@[simp] theorem Mach.tick_l2 (m : Mach) (core n : Nat) : (m.tick core n).l2 = m.l2 := by unfold Mach.tick; split <;> rfl
@[simp] theorem Mach.tick_tiles (m : Mach) (core n : Nat) : (m.tick core n).tiles = m.tiles := by unfold Mach.tick; split <;> rfl
@[simp] theorem Mach.tick_sslots (m : Mach) (core n : Nat) : (m.tick core n).sslots = m.sslots := by unfold Mach.tick; split <;> rfl
@[simp] theorem Mach.tick_posts (m : Mach) (core n : Nat) : (m.tick core n).posts = m.posts := by unfold Mach.tick; split <;> rfl
@[simp] theorem Mach.tick_crews (m : Mach) (core n : Nat) : (m.tick core n).crews = m.crews := by unfold Mach.tick; split <;> rfl
@[simp] theorem Mach.tick_ctxs (m : Mach) (core n : Nat) : (m.tick core n).ctxs = m.ctxs := by unfold Mach.tick; split <;> rfl
@[simp] theorem Mach.tick_tlb (m : Mach) (core n : Nat) : (m.tick core n).tlb = m.tlb := by unfold Mach.tick; split <;> rfl
@[simp] theorem Mach.tick_hostMaps (m : Mach) (core n : Nat) : (m.tick core n).hostMaps = m.hostMaps := by unfold Mach.tick; split <;> rfl
@[simp] theorem Mach.tick_ats (m : Mach) (core n : Nat) : (m.tick core n).ats = m.ats := by unfold Mach.tick; split <;> rfl
@[simp] theorem Mach.tick_faults (m : Mach) (core n : Nat) : (m.tick core n).faults = m.faults := by unfold Mach.tick; split <;> rfl
@[simp] theorem Mach.tick_rings (m : Mach) (core n : Nat) : (m.tick core n).rings = m.rings := by unfold Mach.tick; split <;> rfl
@[simp] theorem Mach.tick_invals (m : Mach) (core n : Nat) : (m.tick core n).invals = m.invals := by unfold Mach.tick; split <;> rfl
@[simp] theorem Mach.tick_queues (m : Mach) (core n : Nat) : (m.tick core n).queues = m.queues := by unfold Mach.tick; split <;> rfl
@[simp] theorem Mach.tick_launches (m : Mach) (core n : Nat) : (m.tick core n).launches = m.launches := by unfold Mach.tick; split <;> rfl
@[simp] theorem Mach.tick_fabOut (m : Mach) (core n : Nat) : (m.tick core n).fabOut = m.fabOut := by unfold Mach.tick; split <;> rfl
@[simp] theorem Mach.tick_inMsgs (m : Mach) (core n : Nat) : (m.tick core n).inMsgs = m.inMsgs := by unfold Mach.tick; split <;> rfl
@[simp] theorem Mach.tick_tokens (m : Mach) (core n : Nat) : (m.tick core n).tokens = m.tokens := by unfold Mach.tick; split <;> rfl
@[simp] theorem Mach.tick_peers (m : Mach) (core n : Nat) : (m.tick core n).peers = m.peers := by unfold Mach.tick; split <;> rfl
@[simp] theorem Mach.tick_missed (m : Mach) (core n : Nat) : (m.tick core n).missed = m.missed := by unfold Mach.tick; split <;> rfl
@[simp] theorem Mach.tick_persist (m : Mach) (core n : Nat) : (m.tick core n).persist = m.persist := by unfold Mach.tick; split <;> rfl
@[simp] theorem Mach.tick_irqs (m : Mach) (core n : Nat) : (m.tick core n).irqs = m.irqs := by unfold Mach.tick; split <;> rfl
@[simp] theorem Mach.tick_dclock (m : Mach) (core n : Nat) : (m.tick core n).dclock = m.dclock := by unfold Mach.tick; split <;> rfl
@[simp] theorem Mach.tick_afresh (m : Mach) (core n : Nat) : (m.tick core n).afresh = m.afresh := by unfold Mach.tick; split <;> rfl
@[simp] theorem Mach.tick_closed (m : Mach) (core n : Nat) : (m.tick core n).closed = m.closed := by unfold Mach.tick; split <;> rfl
@[simp] theorem Mach.tick_zeroWords (m : Mach) (core n : Nat) : (m.tick core n).zeroWords = m.zeroWords := by unfold Mach.tick; split <;> rfl
@[simp] theorem Mach.tick_shares (m : Mach) (core n : Nat) : (m.tick core n).shares = m.shares := by unfold Mach.tick; split <;> rfl
@[simp] theorem Mach.tick_hostRead (m : Mach) (core n : Nat) : (m.tick core n).hostRead = m.hostRead := by unfold Mach.tick; split <;> rfl
@[simp] theorem Mach.tick_lastServed (m : Mach) (core n : Nat) : (m.tick core n).lastServed = m.lastServed := by unfold Mach.tick; split <;> rfl
@[simp] theorem Mach.tick_lastQueue (m : Mach) (core n : Nat) : (m.tick core n).lastQueue = m.lastQueue := by unfold Mach.tick; split <;> rfl
@[simp] theorem Mach.tick_nextToken (m : Mach) (core n : Nat) : (m.tick core n).nextToken = m.nextToken := by unfold Mach.tick; split <;> rfl
@[simp] theorem Mach.tick_nextId (m : Mach) (core n : Nat) : (m.tick core n).nextId = m.nextId := by unfold Mach.tick; split <;> rfl

/-! ### Crew.updGang -/

@[simp] theorem Crew.updGang_id (c : Crew) (id : Nat) (h : Gang → Gang) : (c.updGang id h).id = c.id := rfl
@[simp] theorem Crew.updGang_launch (c : Crew) (id : Nat) (h : Gang → Gang) : (c.updGang id h).launch = c.launch := rfl
@[simp] theorem Crew.updGang_ctx (c : Crew) (id : Nat) (h : Gang → Gang) : (c.updGang id h).ctx = c.ctx := rfl
@[simp] theorem Crew.updGang_idx (c : Crew) (id : Nat) (h : Gang → Gang) : (c.updGang id h).idx = c.idx := rfl
@[simp] theorem Crew.updGang_core (c : Crew) (id : Nat) (h : Gang → Gang) : (c.updGang id h).core = c.core := rfl
@[simp] theorem Crew.updGang_slotBase (c : Crew) (id : Nat) (h : Gang → Gang) : (c.updGang id h).slotBase = c.slotBase := rfl
@[simp] theorem Crew.updGang_limit (c : Crew) (id : Nat) (h : Gang → Gang) : (c.updGang id h).limit = c.limit := rfl
@[simp] theorem Crew.updGang_nregs (c : Crew) (id : Nat) (h : Gang → Gang) : (c.updGang id h).nregs = c.nregs := rfl
@[simp] theorem Crew.updGang_scrBase (c : Crew) (id : Nat) (h : Gang → Gang) : (c.updGang id h).scrBase = c.scrBase := rfl
@[simp] theorem Crew.updGang_scrSize (c : Crew) (id : Nat) (h : Gang → Gang) : (c.updGang id h).scrSize = c.scrSize := rfl
@[simp] theorem Crew.updGang_image (c : Crew) (id : Nat) (h : Gang → Gang) : (c.updGang id h).image = c.image := rfl
@[simp] theorem Crew.updGang_fibres (c : Crew) (id : Nat) (h : Gang → Gang) : (c.updGang id h).fibres = c.fibres := rfl
@[simp] theorem Crew.updGang_gangs (c : Crew) (id : Nat) (h : Gang → Gang) : (c.updGang id h).gangs = c.gangs.map fun g => if g.id == id then h g else g := rfl
@[simp] theorem Crew.updGang_bins (c : Crew) (id : Nat) (h : Gang → Gang) : (c.updGang id h).bins = c.bins := rfl
@[simp] theorem Crew.updGang_spawned (c : Crew) (id : Nat) (h : Gang → Gang) : (c.updGang id h).spawned = c.spawned := rfl
@[simp] theorem Crew.updGang_cursors (c : Crew) (id : Nat) (h : Gang → Gang) : (c.updGang id h).cursors = c.cursors := rfl
@[simp] theorem Crew.updGang_channels (c : Crew) (id : Nat) (h : Gang → Gang) : (c.updGang id h).channels = c.channels := rfl
@[simp] theorem Crew.updGang_binning (c : Crew) (id : Nat) (h : Gang → Gang) : (c.updGang id h).binning = c.binning := rfl
@[simp] theorem Crew.updGang_copies (c : Crew) (id : Nat) (h : Gang → Gang) : (c.updGang id h).copies = c.copies := rfl
@[simp] theorem Crew.updGang_gpasses (c : Crew) (id : Nat) (h : Gang → Gang) : (c.updGang id h).gpasses = c.gpasses := rfl
@[simp] theorem Crew.updGang_preempt (c : Crew) (id : Nat) (h : Gang → Gang) : (c.updGang id h).preempt = c.preempt := rfl
@[simp] theorem Crew.updGang_preempted (c : Crew) (id : Nat) (h : Gang → Gang) : (c.updGang id h).preempted = c.preempted := rfl
@[simp] theorem Crew.updGang_stopAll (c : Crew) (id : Nat) (h : Gang → Gang) : (c.updGang id h).stopAll = c.stopAll := rfl
@[simp] theorem Crew.updGang_stopped (c : Crew) (id : Nat) (h : Gang → Gang) : (c.updGang id h).stopped = c.stopped := rfl

/-! ### Crew.updFibre -/

@[simp] theorem Crew.updFibre_id (c : Crew) (slot : Nat) (h : Fibre → Fibre) : (c.updFibre slot h).id = c.id := rfl
@[simp] theorem Crew.updFibre_launch (c : Crew) (slot : Nat) (h : Fibre → Fibre) : (c.updFibre slot h).launch = c.launch := rfl
@[simp] theorem Crew.updFibre_ctx (c : Crew) (slot : Nat) (h : Fibre → Fibre) : (c.updFibre slot h).ctx = c.ctx := rfl
@[simp] theorem Crew.updFibre_idx (c : Crew) (slot : Nat) (h : Fibre → Fibre) : (c.updFibre slot h).idx = c.idx := rfl
@[simp] theorem Crew.updFibre_core (c : Crew) (slot : Nat) (h : Fibre → Fibre) : (c.updFibre slot h).core = c.core := rfl
@[simp] theorem Crew.updFibre_slotBase (c : Crew) (slot : Nat) (h : Fibre → Fibre) : (c.updFibre slot h).slotBase = c.slotBase := rfl
@[simp] theorem Crew.updFibre_limit (c : Crew) (slot : Nat) (h : Fibre → Fibre) : (c.updFibre slot h).limit = c.limit := rfl
@[simp] theorem Crew.updFibre_nregs (c : Crew) (slot : Nat) (h : Fibre → Fibre) : (c.updFibre slot h).nregs = c.nregs := rfl
@[simp] theorem Crew.updFibre_scrBase (c : Crew) (slot : Nat) (h : Fibre → Fibre) : (c.updFibre slot h).scrBase = c.scrBase := rfl
@[simp] theorem Crew.updFibre_scrSize (c : Crew) (slot : Nat) (h : Fibre → Fibre) : (c.updFibre slot h).scrSize = c.scrSize := rfl
@[simp] theorem Crew.updFibre_image (c : Crew) (slot : Nat) (h : Fibre → Fibre) : (c.updFibre slot h).image = c.image := rfl
@[simp] theorem Crew.updFibre_fibres (c : Crew) (slot : Nat) (h : Fibre → Fibre) : (c.updFibre slot h).fibres = c.fibres.map fun f => if f.slot == slot && !f.exited then h f else f := rfl
@[simp] theorem Crew.updFibre_gangs (c : Crew) (slot : Nat) (h : Fibre → Fibre) : (c.updFibre slot h).gangs = c.gangs := rfl
@[simp] theorem Crew.updFibre_bins (c : Crew) (slot : Nat) (h : Fibre → Fibre) : (c.updFibre slot h).bins = c.bins := rfl
@[simp] theorem Crew.updFibre_spawned (c : Crew) (slot : Nat) (h : Fibre → Fibre) : (c.updFibre slot h).spawned = c.spawned := rfl
@[simp] theorem Crew.updFibre_cursors (c : Crew) (slot : Nat) (h : Fibre → Fibre) : (c.updFibre slot h).cursors = c.cursors := rfl
@[simp] theorem Crew.updFibre_channels (c : Crew) (slot : Nat) (h : Fibre → Fibre) : (c.updFibre slot h).channels = c.channels := rfl
@[simp] theorem Crew.updFibre_binning (c : Crew) (slot : Nat) (h : Fibre → Fibre) : (c.updFibre slot h).binning = c.binning := rfl
@[simp] theorem Crew.updFibre_copies (c : Crew) (slot : Nat) (h : Fibre → Fibre) : (c.updFibre slot h).copies = c.copies := rfl
@[simp] theorem Crew.updFibre_gpasses (c : Crew) (slot : Nat) (h : Fibre → Fibre) : (c.updFibre slot h).gpasses = c.gpasses := rfl
@[simp] theorem Crew.updFibre_preempt (c : Crew) (slot : Nat) (h : Fibre → Fibre) : (c.updFibre slot h).preempt = c.preempt := rfl
@[simp] theorem Crew.updFibre_preempted (c : Crew) (slot : Nat) (h : Fibre → Fibre) : (c.updFibre slot h).preempted = c.preempted := rfl
@[simp] theorem Crew.updFibre_stopAll (c : Crew) (slot : Nat) (h : Fibre → Fibre) : (c.updFibre slot h).stopAll = c.stopAll := rfl
@[simp] theorem Crew.updFibre_stopped (c : Crew) (slot : Nat) (h : Fibre → Fibre) : (c.updFibre slot h).stopped = c.stopped := rfl

/-! ### Crew.mapLanes -/

@[simp] theorem Crew.mapLanes_id (c : Crew) (course : Nat) (mask : BitVec 32) (h : Fibre → Fibre) : (c.mapLanes course mask h).id = c.id := rfl
@[simp] theorem Crew.mapLanes_launch (c : Crew) (course : Nat) (mask : BitVec 32) (h : Fibre → Fibre) : (c.mapLanes course mask h).launch = c.launch := rfl
@[simp] theorem Crew.mapLanes_ctx (c : Crew) (course : Nat) (mask : BitVec 32) (h : Fibre → Fibre) : (c.mapLanes course mask h).ctx = c.ctx := rfl
@[simp] theorem Crew.mapLanes_idx (c : Crew) (course : Nat) (mask : BitVec 32) (h : Fibre → Fibre) : (c.mapLanes course mask h).idx = c.idx := rfl
@[simp] theorem Crew.mapLanes_core (c : Crew) (course : Nat) (mask : BitVec 32) (h : Fibre → Fibre) : (c.mapLanes course mask h).core = c.core := rfl
@[simp] theorem Crew.mapLanes_slotBase (c : Crew) (course : Nat) (mask : BitVec 32) (h : Fibre → Fibre) : (c.mapLanes course mask h).slotBase = c.slotBase := rfl
@[simp] theorem Crew.mapLanes_limit (c : Crew) (course : Nat) (mask : BitVec 32) (h : Fibre → Fibre) : (c.mapLanes course mask h).limit = c.limit := rfl
@[simp] theorem Crew.mapLanes_nregs (c : Crew) (course : Nat) (mask : BitVec 32) (h : Fibre → Fibre) : (c.mapLanes course mask h).nregs = c.nregs := rfl
@[simp] theorem Crew.mapLanes_scrBase (c : Crew) (course : Nat) (mask : BitVec 32) (h : Fibre → Fibre) : (c.mapLanes course mask h).scrBase = c.scrBase := rfl
@[simp] theorem Crew.mapLanes_scrSize (c : Crew) (course : Nat) (mask : BitVec 32) (h : Fibre → Fibre) : (c.mapLanes course mask h).scrSize = c.scrSize := rfl
@[simp] theorem Crew.mapLanes_image (c : Crew) (course : Nat) (mask : BitVec 32) (h : Fibre → Fibre) : (c.mapLanes course mask h).image = c.image := rfl
@[simp] theorem Crew.mapLanes_fibres (c : Crew) (course : Nat) (mask : BitVec 32) (h : Fibre → Fibre) : (c.mapLanes course mask h).fibres = c.fibres.map fun f => if !f.exited && f.course == course && inMask mask f then h f else f := rfl
@[simp] theorem Crew.mapLanes_gangs (c : Crew) (course : Nat) (mask : BitVec 32) (h : Fibre → Fibre) : (c.mapLanes course mask h).gangs = c.gangs := rfl
@[simp] theorem Crew.mapLanes_bins (c : Crew) (course : Nat) (mask : BitVec 32) (h : Fibre → Fibre) : (c.mapLanes course mask h).bins = c.bins := rfl
@[simp] theorem Crew.mapLanes_spawned (c : Crew) (course : Nat) (mask : BitVec 32) (h : Fibre → Fibre) : (c.mapLanes course mask h).spawned = c.spawned := rfl
@[simp] theorem Crew.mapLanes_cursors (c : Crew) (course : Nat) (mask : BitVec 32) (h : Fibre → Fibre) : (c.mapLanes course mask h).cursors = c.cursors := rfl
@[simp] theorem Crew.mapLanes_channels (c : Crew) (course : Nat) (mask : BitVec 32) (h : Fibre → Fibre) : (c.mapLanes course mask h).channels = c.channels := rfl
@[simp] theorem Crew.mapLanes_binning (c : Crew) (course : Nat) (mask : BitVec 32) (h : Fibre → Fibre) : (c.mapLanes course mask h).binning = c.binning := rfl
@[simp] theorem Crew.mapLanes_copies (c : Crew) (course : Nat) (mask : BitVec 32) (h : Fibre → Fibre) : (c.mapLanes course mask h).copies = c.copies := rfl
@[simp] theorem Crew.mapLanes_gpasses (c : Crew) (course : Nat) (mask : BitVec 32) (h : Fibre → Fibre) : (c.mapLanes course mask h).gpasses = c.gpasses := rfl
@[simp] theorem Crew.mapLanes_preempt (c : Crew) (course : Nat) (mask : BitVec 32) (h : Fibre → Fibre) : (c.mapLanes course mask h).preempt = c.preempt := rfl
@[simp] theorem Crew.mapLanes_preempted (c : Crew) (course : Nat) (mask : BitVec 32) (h : Fibre → Fibre) : (c.mapLanes course mask h).preempted = c.preempted := rfl
@[simp] theorem Crew.mapLanes_stopAll (c : Crew) (course : Nat) (mask : BitVec 32) (h : Fibre → Fibre) : (c.mapLanes course mask h).stopAll = c.stopAll := rfl
@[simp] theorem Crew.mapLanes_stopped (c : Crew) (course : Nat) (mask : BitVec 32) (h : Fibre → Fibre) : (c.mapLanes course mask h).stopped = c.stopped := rfl

/-! ### Gang.jump -/

@[simp] theorem Gang.jump_id (g : Gang) (a : Nat) : (g.jump a).id = g.id := rfl
@[simp] theorem Gang.jump_course (g : Gang) (a : Nat) : (g.jump a).course = g.course := rfl
@[simp] theorem Gang.jump_mask (g : Gang) (a : Nat) : (g.jump a).mask = g.mask := rfl
@[simp] theorem Gang.jump_hdr (g : Gang) (a : Nat) : (g.jump a).hdr = a := rfl
@[simp] theorem Gang.jump_idx (g : Gang) (a : Nat) : (g.jump a).idx = 0 := rfl
@[simp] theorem Gang.jump_begun (g : Gang) (a : Nat) : (g.jump a).begun = false := rfl
@[simp] theorem Gang.jump_header (g : Gang) (a : Nat) : (g.jump a).header = 0 := rfl
@[simp] theorem Gang.jump_state (g : Gang) (a : Nat) : (g.jump a).state = g.state := rfl
@[simp] theorem Gang.jump_place (g : Gang) (a : Nat) : (g.jump a).place = g.place := rfl
@[simp] theorem Gang.jump_wake (g : Gang) (a : Nat) : (g.jump a).wake = g.wake := rfl
@[simp] theorem Gang.jump_waited (g : Gang) (a : Nat) : (g.jump a).waited = g.waited := rfl
@[simp] theorem Gang.jump_issued (g : Gang) (a : Nat) : (g.jump a).issued = g.issued := rfl
@[simp] theorem Gang.jump_readySince (g : Gang) (a : Nat) : (g.jump a).readySince = g.readySince := rfl
@[simp] theorem Gang.jump_passedOver (g : Gang) (a : Nat) : (g.jump a).passedOver = g.passedOver := rfl
@[simp] theorem Gang.jump_ringWait (g : Gang) (a : Nat) : (g.jump a).ringWait = g.ringWait := rfl
@[simp] theorem Gang.jump_ringAt (g : Gang) (a : Nat) : (g.jump a).ringAt = g.ringAt := rfl
@[simp] theorem Gang.jump_sPark (g : Gang) (a : Nat) : (g.jump a).sPark = g.sPark := rfl
@[simp] theorem Gang.jump_fetchError (g : Gang) (a : Nat) : (g.jump a).fetchError = g.fetchError := rfl
@[simp] theorem Gang.jump_kept (g : Gang) (a : Nat) : (g.jump a).kept = g.kept := rfl

/-! ### Fibre.setReg -/

@[simp] theorem Fibre.setReg_slot (f : Fibre) (k v : Nat) : (f.setReg k v).slot = f.slot := rfl
@[simp] theorem Fibre.setReg_regs (f : Fibre) (k v : Nat) : (f.setReg k v).regs = f.regs.set k (BitVec.ofNat 32 v) := rfl
@[simp] theorem Fibre.setReg_preds (f : Fibre) (k v : Nat) : (f.setReg k v).preds = f.preds := rfl
@[simp] theorem Fibre.setReg_stream (f : Fibre) (k v : Nat) : (f.setReg k v).stream = f.stream := rfl
@[simp] theorem Fibre.setReg_stores (f : Fibre) (k v : Nat) : (f.setReg k v).stores = f.stores := rfl
@[simp] theorem Fibre.setReg_pend (f : Fibre) (k v : Nat) : (f.setReg k v).pend = f.pend := rfl
@[simp] theorem Fibre.setReg_nextBatch (f : Fibre) (k v : Nat) : (f.setReg k v).nextBatch = f.nextBatch := rfl
@[simp] theorem Fibre.setReg_copyErrs (f : Fibre) (k v : Nat) : (f.setReg k v).copyErrs = f.copyErrs := rfl
@[simp] theorem Fibre.setReg_moreBatches (f : Fibre) (k v : Nat) : (f.setReg k v).moreBatches = f.moreBatches := rfl
@[simp] theorem Fibre.setReg_moreOpen (f : Fibre) (k v : Nat) : (f.setReg k v).moreOpen = f.moreOpen := rfl
@[simp] theorem Fibre.setReg_fabErrs (f : Fibre) (k v : Nat) : (f.setReg k v).fabErrs = f.fabErrs := rfl
@[simp] theorem Fibre.setReg_fabNode (f : Fibre) (k v : Nat) : (f.setReg k v).fabNode = f.fabNode := rfl
@[simp] theorem Fibre.setReg_masked (f : Fibre) (k v : Nat) : (f.setReg k v).masked = f.masked := rfl
@[simp] theorem Fibre.setReg_inHandler (f : Fibre) (k v : Nat) : (f.setReg k v).inHandler = f.inHandler := rfl
@[simp] theorem Fibre.setReg_tinfo (f : Fibre) (k v : Nat) : (f.setReg k v).tinfo = f.tinfo := rfl
@[simp] theorem Fibre.setReg_brk (f : Fibre) (k v : Nat) : (f.setReg k v).brk = f.brk := rfl
@[simp] theorem Fibre.setReg_latched (f : Fibre) (k v : Nat) : (f.setReg k v).latched = f.latched := rfl
@[simp] theorem Fibre.setReg_carry (f : Fibre) (k v : Nat) : (f.setReg k v).carry = f.carry := rfl
@[simp] theorem Fibre.setReg_exited (f : Fibre) (k v : Nat) : (f.setReg k v).exited = f.exited := rfl
@[simp] theorem Fibre.setReg_ghost (f : Fibre) (k v : Nat) : (f.setReg k v).ghost = f.ghost := rfl

/-! ### Fibre.setPred -/

@[simp] theorem Fibre.setPred_slot (f : Fibre) (p : Nat) (v : Bool) : (f.setPred p v).slot = f.slot := rfl
@[simp] theorem Fibre.setPred_regs (f : Fibre) (p : Nat) (v : Bool) : (f.setPred p v).regs = f.regs := rfl
@[simp] theorem Fibre.setPred_stream (f : Fibre) (p : Nat) (v : Bool) : (f.setPred p v).stream = f.stream := rfl
@[simp] theorem Fibre.setPred_stores (f : Fibre) (p : Nat) (v : Bool) : (f.setPred p v).stores = f.stores := rfl
@[simp] theorem Fibre.setPred_pend (f : Fibre) (p : Nat) (v : Bool) : (f.setPred p v).pend = f.pend := rfl
@[simp] theorem Fibre.setPred_nextBatch (f : Fibre) (p : Nat) (v : Bool) : (f.setPred p v).nextBatch = f.nextBatch := rfl
@[simp] theorem Fibre.setPred_copyErrs (f : Fibre) (p : Nat) (v : Bool) : (f.setPred p v).copyErrs = f.copyErrs := rfl
@[simp] theorem Fibre.setPred_moreBatches (f : Fibre) (p : Nat) (v : Bool) : (f.setPred p v).moreBatches = f.moreBatches := rfl
@[simp] theorem Fibre.setPred_moreOpen (f : Fibre) (p : Nat) (v : Bool) : (f.setPred p v).moreOpen = f.moreOpen := rfl
@[simp] theorem Fibre.setPred_fabErrs (f : Fibre) (p : Nat) (v : Bool) : (f.setPred p v).fabErrs = f.fabErrs := rfl
@[simp] theorem Fibre.setPred_fabNode (f : Fibre) (p : Nat) (v : Bool) : (f.setPred p v).fabNode = f.fabNode := rfl
@[simp] theorem Fibre.setPred_masked (f : Fibre) (p : Nat) (v : Bool) : (f.setPred p v).masked = f.masked := rfl
@[simp] theorem Fibre.setPred_inHandler (f : Fibre) (p : Nat) (v : Bool) : (f.setPred p v).inHandler = f.inHandler := rfl
@[simp] theorem Fibre.setPred_tinfo (f : Fibre) (p : Nat) (v : Bool) : (f.setPred p v).tinfo = f.tinfo := rfl
@[simp] theorem Fibre.setPred_brk (f : Fibre) (p : Nat) (v : Bool) : (f.setPred p v).brk = f.brk := rfl
@[simp] theorem Fibre.setPred_latched (f : Fibre) (p : Nat) (v : Bool) : (f.setPred p v).latched = f.latched := rfl
@[simp] theorem Fibre.setPred_carry (f : Fibre) (p : Nat) (v : Bool) : (f.setPred p v).carry = f.carry := rfl
@[simp] theorem Fibre.setPred_exited (f : Fibre) (p : Nat) (v : Bool) : (f.setPred p v).exited = f.exited := rfl
@[simp] theorem Fibre.setPred_ghost (f : Fibre) (p : Nat) (v : Bool) : (f.setPred p v).ghost = f.ghost := rfl

/-! ### Registers and predicates read after they are written -/

/-- A register written within the window reads back. -/
theorem Fibre.reg_setReg_same (f : Fibre) {k : Nat} (v : Nat) (hk : k < f.regs.length) : (f.setReg k v).reg k = v % 2 ^ 32 := by
  simp [Fibre.reg, hk]

/-- A register write leaves the others. -/
theorem Fibre.reg_setReg_other (f : Fibre) {k j : Nat} (v : Nat) (hj : k ≠ j) : (f.setReg k v).reg j = f.reg j := by
  simp [Fibre.reg, hj]

/-- p15 reads 1 (R20). -/
@[simp] theorem Fibre.pred_15 (f : Fibre) : f.pred 15 = true := rfl

/-- A crew found by its number has it. -/
theorem Mach.crew_id {m : Mach} {id : Nat} {c : Crew} (h : m.crew id = some c) : c.id = id := by
  simpa using List.find?_some h

theorem Crew.gang_id {c : Crew} {id : Nat} {g : Gang} (h : c.gang id = some g) : g.id = id := by
  simpa using List.find?_some h

/-- The crew found after an update that keeps its number. -/
theorem Mach.crew_updCrew_same {m : Mach} {id : Nat} {c : Crew} (h : m.crew id = some c) (f : Crew → Crew) (hf : ∀ c, (f c).id = c.id) :
    (m.updCrew id f).crew id = some (f c) := by
  have key : ∀ l : List Crew, l.find? (fun c => c.id == id) = some c →
      (l.map fun c => if c.id == id then f c else c).find? (fun c => c.id == id) = some (f c) := by
    intro l
    induction l with
    | nil => intro h; cases h
    | cons d t ih =>
      intro h
      by_cases hd : d.id = id
      · have : d = c := by simpa [List.find?_cons, hd] using h
        subst this
        simp [hd, hf]
      · have h' : t.find? (fun c => c.id == id) = some c := by simpa [List.find?_cons, hd] using h
        simpa [List.find?_cons, hd] using ih h'
  exact key m.crews h

/-- Another crew is found as before. -/
theorem Mach.crew_updCrew_other {m : Mach} {id k : Nat} (f : Crew → Crew) (hf : ∀ c, (f c).id = c.id) (hk : k ≠ id) :
    (m.updCrew id f).crew k = m.crew k := by
  have key : ∀ l : List Crew, (l.map fun c => if c.id == id then f c else c).find? (fun c => c.id == k) = l.find? (fun c => c.id == k) := by
    intro l
    induction l with
    | nil => rfl
    | cons d t ih =>
      rw [List.map_cons, List.find?_cons, List.find?_cons, ih]
      by_cases hd : d.id = id
      · have : (id == k) = false := beq_false_of_ne fun h => hk h.symm
        simp [hd, hf, this]
      · simp [hd]
  exact key m.crews

end Sys2Proof.Machine
end

