-- ==== Sys2Proof/Laws/Wf.lean ====
section
/-! SUPPORT. Fault records, slots, store queues, releases and traps keep every memory of the machine canonical. -/

namespace Sys2Proof.Machine

/-! ### Crews, gangs and lanes -/

theorem Mach.memoriesWf_updCrew {m : Mach} (h : m.memoriesWf = true) (id : Nat) (f : Crew → Crew) : (m.updCrew id f).memoriesWf = true :=
  Mach.memoriesWf_of_eq h

theorem Mach.memoriesWf_updGang {m : Mach} (h : m.memoriesWf = true) (crew id : Nat) (f : Gang → Gang) :
    (m.updGang crew id f).memoriesWf = true := Mach.memoriesWf_of_eq h

theorem Mach.memoriesWf_updFibre {m : Mach} (h : m.memoriesWf = true) (crew slot : Nat) (f : Fibre → Fibre) :
    (m.updFibre crew slot f).memoriesWf = true := Mach.memoriesWf_of_eq h

theorem Mach.memoriesWf_tick {m : Mach} (h : m.memoriesWf = true) (core n : Nat) : (m.tick core n).memoriesWf = true :=
  Mach.memoriesWf_of_eq h (by simp) (by simp) (by simp) (by simp) (by simp) (by simp)

theorem Mach.memoriesWf_advance {m : Mach} (h : m.memoriesWf = true) (E : Env) (e : Enc) : (m.advance E e).memoriesWf = true :=
  Mach.memoriesWf_of_eq h

theorem Mach.memoriesWf_hold {m : Mach} (h : m.memoriesWf = true) (crew gang : Nat) (own : Bool) :
    (m.hold crew gang own).memoriesWf = true := Mach.memoriesWf_of_eq h

theorem Mach.memoriesWf_askRing {m : Mach} (h : m.memoriesWf = true) (crew gang : Nat) (req : Nat × Nat × Nat) :
    (m.askRing crew gang req).memoriesWf = true := Mach.memoriesWf_of_eq h

theorem Mach.memoriesWf_setCtx {m : Mach} (h : m.memoriesWf = true) (x : Ctx) : (m.setCtx x).memoriesWf = true :=
  Mach.memoriesWf_of_eq h

theorem Mach.memoriesWf_splitOff {m : Mach} (h : m.memoriesWf = true) (crew gang : Nat) (mask : BitVec 32) :
    (m.splitOff crew gang mask).1.memoriesWf = true := by
  unfold Mach.splitOff
  split
  · exact h
  · split
    · exact h
    · dsimp only
      split
      · exact h
      · exact Mach.memoriesWf_of_eq h

theorem Mach.memoriesWf_parkGang {m : Mach} (h : m.memoriesWf = true) (crew gang : Nat) (r : ParkReason) (w : Wake) :
    (m.parkGang crew gang r w).memoriesWf = true := Mach.memoriesWf_of_eq h

theorem Mach.memoriesWf_parkLanes {m : Mach} (h : m.memoriesWf = true) (crew gang : Nat) (mask : BitVec 32) (r : ParkReason) (w : Wake) :
    (m.parkLanes crew gang mask r w).memoriesWf = true := Mach.memoriesWf_parkGang (Mach.memoriesWf_splitOff h _ _ _) _ _ _ _

theorem Mach.memoriesWf_wakeGang {m : Mach} (h : m.memoriesWf = true) (crew gang : Nat) : (m.wakeGang crew gang).memoriesWf = true := by
  unfold Mach.wakeGang
  split
  · exact h
  · exact Mach.memoriesWf_of_eq h

theorem Mach.memoriesWf_raiseIrq {m : Mach} (h : m.memoriesWf = true) (fn vec : Nat) : (m.raiseIrq fn vec).memoriesWf = true := by
  unfold Mach.raiseIrq
  split
  · exact h
  · exact Mach.memoriesWf_of_eq h

/-! ### Physical and translated writes by the part -/

theorem Mach.memoriesWf_physWrite (k : Key) : ∀ (l : List Byte) {m : Mach} (a : Nat), m.memoriesWf = true →
    (m.physWrite k a l).memoriesWf = true
  | [], _, _, h => h
  | b :: t, m, a, h => by
    unfold Mach.physWrite
    refine Mach.memoriesWf_physWrite k t (a + 1) ?_
    split
    · exact Mach.memoriesWf_partWrite h k _ b
    · exact h

theorem Mach.memoriesWf_host {m : Mach} (h : m.memoriesWf = true) (a : Nat) (l : List Byte) :
    ({ m with host := m.host.writeBytes a l } : Mach).memoriesWf = true := by
  rw [Mach.memoriesWf_iff] at h ⊢
  exact ⟨h.1, Memory.wf_writeBytes l a h.2.1, h.2.2⟩

theorem Mach.memoriesWf_faultQueueWrite {m : Mach} (h : m.memoriesWf = true) (d : Dev) (fn : Nat) (host : Bool) (a : Nat) (l : List Byte) :
    (m.faultQueueWrite d fn host a l).memoriesWf = true := by
  unfold Mach.faultQueueWrite
  split
  · split
    · exact Mach.memoriesWf_host h _ l
    · exact h
  · exact Mach.memoriesWf_physWrite _ l a h

theorem Mach.memoriesWf_writeFault {m : Mach} (h : m.memoriesWf = true) (d : Dev) (fn : Nat) : (m.writeFault d fn).memoriesWf = true := by
  unfold Mach.writeFault
  split
  · exact h
  · dsimp only
    split
    · exact h
    · refine Mach.memoriesWf_raiseIrq (Mach.memoriesWf_of_eq (Mach.memoriesWf_physWrite (d.fnKey 0) _ (d.faultDesc fn + 16)
        (Mach.memoriesWf_faultQueueWrite h d fn _ _ _))) fn 0

theorem Mach.memoriesWf_raiseFault {m : Mach} (h : m.memoriesWf = true) (d : Dev) (x : Ctx) (core : Nat) (req : Requester)
    (va cause level access : Nat) : (m.raiseFault d x core req va cause level access).1.memoriesWf = true := by
  unfold Mach.raiseFault
  split
  · exact Mach.memoriesWf_of_eq h
  · exact Mach.memoriesWf_writeFault (Mach.memoriesWf_of_eq h) d x.fn

theorem Mach.memoriesWf_vaWrite {m : Mach} (h : m.memoriesWf = true) (d : Dev) (x : Ctx) (va : Nat) (l : List Byte) :
    (m.vaWrite d x va l).memoriesWf = true := by
  unfold Mach.vaWrite
  split
  · exact Mach.memoriesWf_foldl _ (fun _ p h => Mach.memoriesWf_partWrite h _ p.1 p.2) _ m h
  · exact h

/-! ### Slots -/

theorem Mach.memoriesWf_setSlot {m : Mach} (h : m.memoriesWf = true) (d : Dev) (ctx : Nat) (s : Slot) :
    (m.setSlot d ctx s).memoriesWf = true := by
  unfold Mach.setSlot
  dsimp only
  split
  · exact Mach.memoriesWf_vaWrite (Mach.memoriesWf_setCtx h _) d _ _ _
  · exact Mach.memoriesWf_setCtx h _

theorem Mach.memoriesWf_waitSlot {m : Mach} (h : m.memoriesWf = true) (d : Dev) (ctx slot extent : Nat) (who : List (Nat × Nat)) :
    (m.waitSlot d ctx slot extent who).memoriesWf = true := by
  unfold Mach.waitSlot
  split
  · exact h
  · exact Mach.memoriesWf_setSlot h d ctx _

theorem Mach.memoriesWf_waitSize {m : Mach} (h : m.memoriesWf = true) (d : Dev) (ctx slot : Nat) (who : Nat × Nat) :
    (m.waitSize d ctx slot who).memoriesWf = true := by
  unfold Mach.waitSize
  split
  · exact h
  · exact Mach.memoriesWf_setSlot h d ctx _

theorem Mach.memoriesWf_wakeObject {m : Mach} (h : m.memoriesWf = true) (ctx slot : Nat) (sizeOnly : Bool) :
    (m.wakeObject ctx slot sizeOnly).memoriesWf = true :=
  Mach.memoriesWf_foldl _ (fun _ p h => Mach.memoriesWf_wakeGang h p.1 p.2) _ m h

theorem Mach.memoriesWf_unpin {m : Mach} (h : m.memoriesWf = true) (d : Dev) (ctx crew : Nat) (slots : List Nat) :
    (m.unpin d ctx crew slots).memoriesWf = true :=
  Mach.memoriesWf_foldl _ (fun _ _ h => Mach.memoriesWf_setSlot h d ctx _) _ m h

theorem Mach.memoriesWf_noteWritten {m : Mach} (h : m.memoriesWf = true) (d : Dev) (ctx slot off len : Nat) :
    (m.noteWritten d ctx slot off len).memoriesWf = true := by
  unfold Mach.noteWritten
  split
  · exact h
  · split
    · exact h
    · exact Mach.memoriesWf_setSlot h d ctx _

/-! ### Releases and store queues -/

theorem Mach.memoriesWf_sendFab {m : Mach} (h : m.memoriesWf = true) (d : Dev) (crew gang slot node rkey off : Nat) (data : List Byte) (len : Nat)
    (k : OutKind) : (m.sendFab d crew gang slot node rkey off data len k).memoriesWf = true := Mach.memoriesWf_of_eq h

theorem Mach.memoriesWf_fabPut {m : Mach} (h : m.memoriesWf = true) (core level : Nat) (k : Key) (cells : List (Loc × Byte)) :
    (m.fabPut core level k cells).memoriesWf = true := by
  refine Mach.memoriesWf_foldl _ (fun m p h => ?_) cells m h
  dsimp only
  split
  · exact Mach.memoriesWf_putL1 (Mach.memoriesWf_putL2 h _) _
  · exact Mach.memoriesWf_putL2 h _

theorem Mach.memoriesWf_fabStore {m : Mach} (h : m.memoriesWf = true) (d : Dev) (c : Crew) (slot node rkey off : Nat) (k : Key) (data : List Byte) :
    (m.fabStore d c slot node rkey off k data).memoriesWf = true := by
  refine Mach.memoriesWf_sendFab (Mach.memoriesWf_fabPut ?_ _ _ _ _) d _ _ _ _ _ _ _ _ _
  exact Mach.memoriesWf_of_eq h

theorem Mach.memoriesWf_awaitPage {m : Mach} (h : m.memoriesWf = true) (d : Dev) (ctx : Nat) (s : Slot) (va cause level access : Nat) :
    (m.awaitPage d ctx s va cause level access).1.memoriesWf = true := by
  unfold Mach.awaitPage
  split
  · exact h
  · split
    · exact h
    · exact Mach.memoriesWf_setSlot (Mach.memoriesWf_raiseFault h d _ 0 _ _ _ _ access) d ctx _

theorem Mach.memoriesWf_writeBackSlot {m : Mach} (h : m.memoriesWf = true) (d : Dev) (ctx n : Nat) (who : Nat × Nat) :
    (m.writeBackSlot d ctx n who).1.memoriesWf = true := by
  unfold Mach.writeBackSlot
  dsimp only
  split
  · exact h
  · split
    · exact h
    · split
      · exact Mach.memoriesWf_awaitPage h d ctx _ _ _ _ _
      · split
        · split
          · exact Mach.memoriesWf_awaitPage h d ctx _ _ _ _ _
          · exact Mach.memoriesWf_setSlot (Mach.memoriesWf_foldl _ (fun _ p h => Mach.memoriesWf_vaWrite h d _ _ p.2) _ m h) d ctx _
        · split
          · exact h
          · exact h
          · exact Mach.memoriesWf_awaitPage h d ctx _ _ _ _ _
          · exact Mach.memoriesWf_setSlot (Mach.memoriesWf_foldl _ (fun _ p h => Mach.memoriesWf_sendFab h d _ _ _ _ _ _ _ _ _) _ m h) d ctx _

theorem Mach.memoriesWf_homeSlots {m : Mach} (h : m.memoriesWf = true) (d : Dev) (l : List (Nat × Nat)) (who : Nat × Nat) :
    (m.homeSlots d l who).1.memoriesWf = true := by
  have key : ∀ (l : List (Nat × Nat)) (p : Mach × Bool), p.1.memoriesWf = true →
      (l.foldl (fun (p : Mach × Bool) n =>
        ((p.1.writeBackSlot d n.1 n.2 who).1, p.2 && (p.1.writeBackSlot d n.1 n.2 who).2)) p).1.memoriesWf = true := by
    intro l
    induction l with
    | nil => exact fun _ h => h
    | cons n t ih => exact fun p h => ih _ (Mach.memoriesWf_writeBackSlot h d n.1 n.2 who)
  unfold Mach.homeSlots
  split
  · exact key _ _ (Mach.memoriesWf_writeBackAll h)
  · exact h

theorem Mach.memoriesWf_homeObjects {m : Mach} (h : m.memoriesWf = true) (d : Dev) (fn : Nat) (who : Nat × Nat) :
    (m.homeObjects d fn who).1.memoriesWf = true := Mach.memoriesWf_homeSlots h d _ who

theorem Mach.memoriesWf_release {m : Mach} (h : m.memoriesWf = true) (d : Dev) (ctx core scope stor : Nat) (who : Nat × Nat) :
    (m.release d ctx core scope stor who).1.memoriesWf = true := by
  unfold Mach.release
  dsimp only
  have h1 := Mach.memoriesWf_writeBack h core scope
  split
  · exact Mach.memoriesWf_homeObjects h1 d _ who
  · exact h1

theorem Mach.memoriesWf_noteName {m : Mach} (h : m.memoriesWf = true) (name : Bool) (cells : List (Loc × Byte)) :
    (m.noteName name cells).memoriesWf = true := by
  unfold Mach.noteName
  split
  · split
    · exact Mach.memoriesWf_of_eq h
    · exact h
  · exact h

theorem Mach.memoriesWf_pollGauges {m : Mach} (h : m.memoriesWf = true) : m.pollGauges.memoriesWf = true := Mach.memoriesWf_of_eq h

theorem Mach.memoriesWf_performStore {m : Mach} (h : m.memoriesWf = true) (d : Dev) (c : Crew) (slot : Nat) (e : StoreEntry) :
    (m.performStore d c slot e).1.memoriesWf = true := by
  unfold Mach.performStore
  split
  · rename_i cells _
    have h0 := Mach.memoriesWf_noteName (Mach.memoriesWf_foldl (fun (m : Mach) (p : Loc × Byte) => m.performByte c.core e.scope e.cls e.key p.1 p.2)
      (fun _ p h => Mach.memoriesWf_performByte h c.core e.scope e.cls e.key p.1 p.2) cells m h) e.name cells
    generalize Mach.noteName _ e.name cells = m0 at h0
    have h1 : (if cells.any fun p => p.1.space == .scr then m0.pollGauges else m0).memoriesWf = true := by
      split
      · exact Mach.memoriesWf_pollGauges h0
      · exact h0
    dsimp only
    generalize (if cells.any fun p => p.1.space == .scr then m0.pollGauges else m0) = m1 at h1 ⊢
    split
    · exact h
    · split
      · exact h
      · split
        · exact h
        · split
          · exact Mach.memoriesWf_noteWritten h1 d _ _ _ _
          · exact h1
  · split
    · exact h
    · exact Mach.memoriesWf_fabStore h d c slot _ _ _ _ _

theorem Mach.memoriesWf_drainEntry {m : Mach} (h : m.memoriesWf = true) (d : Dev) (c : Crew) (slot : Nat) (e : StoreEntry) :
    (m.drainEntry d c slot e).1.memoriesWf = true := by
  unfold Mach.drainEntry
  split
  · exact h
  · split
    · exact Mach.memoriesWf_performStore h d c slot e
    · dsimp only
      split
      · exact Mach.memoriesWf_performStore (Mach.memoriesWf_release h d _ _ _ _ _) d c slot e
      · exact Mach.memoriesWf_release h d _ _ _ _ _

theorem Mach.memoriesWf_drainOne {m : Mach} (h : m.memoriesWf = true) (d : Dev) (crew slot : Nat) :
    (m.drainOne d crew slot).1.memoriesWf = true := by
  unfold Mach.drainOne
  split
  · exact h
  · split
    · exact h
    · split
      · exact h
      · have key : ∀ (r : Mach × Bool) (g : Crew → Crew), r.1.memoriesWf = true →
            (if r.2 then (r.1.updCrew crew g, true) else r : Mach × Bool).1.memoriesWf = true := by
          intro r g hr
          split
          · exact Mach.memoriesWf_updCrew hr crew g
          · exact hr
        exact key _ _ (Mach.memoriesWf_drainEntry h d _ _ _)

theorem Mach.memoriesWf_drainSome (d : Dev) (crew slot : Nat) : ∀ (n : Nat) {m : Mach}, m.memoriesWf = true →
    (m.drainSome d crew slot n).memoriesWf = true
  | 0, _, h => h
  | n + 1, m, h => by
    unfold Mach.drainSome
    dsimp only
    split
    · exact Mach.memoriesWf_drainSome d crew slot n (Mach.memoriesWf_drainOne h d crew slot)
    · exact Mach.memoriesWf_drainOne h d crew slot

theorem Mach.memoriesWf_drainAll {m : Mach} (h : m.memoriesWf = true) (d : Dev) (crew : Nat) (fs : List Fibre) :
    (m.drainAll d crew fs).memoriesWf = true :=
  Mach.memoriesWf_foldl _ (fun _ f h => Mach.memoriesWf_drainSome d crew f.slot _ h) fs m h

theorem Mach.memoriesWf_releaseNow {m : Mach} (h : m.memoriesWf = true) (d : Dev) (c : Crew) (fs : List Fibre) (scope stor : Nat) :
    (m.releaseNow d c fs scope stor).1.memoriesWf = true := by
  unfold Mach.releaseNow
  dsimp only
  split
  · exact Mach.memoriesWf_drainAll h d _ fs
  · exact Mach.memoriesWf_release (Mach.memoriesWf_drainAll h d _ fs) d _ _ _ _ _

end Sys2Proof.Machine
end

