-- ==== Sys2Proof/Laws/Ops.lean ====
section
/-! SUPPORT. What the operations that every instruction goes through can do: running a form for the gang that issues, the check of
its operands, a trap, and the moves of a step. -/

namespace Sys2Proof.Machine

/-! ### Running a form -/

/-- A form run for a gang that issues answers the state its effect gives. -/
theorem isa_of_env (F : Env → Mach → Mach) (s : State) {r : GangRef} {E : Env} (h : s.cur = some r) (hE : s.m.env s.dev r = some E) :
    isa F s = .next { s with m := F E s.m } := by
  simp only [isa, h, hE]

/-- Every answer of a form: the effect for the gang that issues, or the refusal that no gang does. -/
theorem isa_cases (F : Env → Mach → Mach) (s : State) :
    (∃ r E, s.cur = some r ∧ s.m.env s.dev r = some E ∧ isa F s = .next { s with m := F E s.m })
    ∨ isa F s = .refused .noIssuingGang := by
  rcases hc : s.cur with _ | r
  · exact .inr (by simp only [isa, hc])
  · rcases hE : s.m.env s.dev r with _ | E
    · exact .inr (by simp only [isa, hc, hE])
    · exact .inl ⟨r, E, rfl, hE, by rw [← hc]; exact isa_of_env F s hc hE⟩

/-- A next state of a form. -/
theorem isa_next {F : Env → Mach → Mach} {s t : State} (h : isa F s = .next t) :
    ∃ r E, s.cur = some r ∧ s.m.env s.dev r = some E ∧ t = { s with m := F E s.m } := by
  rcases isa_cases F s with ⟨r, E, hr, hE, hn⟩ | hn
  · rw [hn] at h
    exact ⟨r, E, hr, hE, (Host.Outcome.next.inj h).symm⟩
  · rw [hn] at h; cases h

/-- No form changes the management state, the agenda, or who issues. -/
theorem isa_keeps {F : Env → Mach → Mach} {s t : State} (h : isa F s = .next t) :
    t.dev = s.dev ∧ t.agenda = s.agenda ∧ t.cur = s.cur ∧ t.arg = s.arg ∧ t.turn = s.turn := by
  obtain ⟨_, _, _, _, rfl⟩ := isa_next h
  exact ⟨rfl, rfl, rfl, rfl, rfl⟩

/-- Who issues, part by part. -/
theorem Mach.env_some {m : Mach} {d : Dev} {r : GangRef} {E : Env} (h : m.env d r = some E) :
    E.d = d ∧ m.crew r.crew = some E.c ∧ E.c.gang r.gang = some E.g ∧ E.x = m.ctx E.c.ctx ∧ E.l = m.launch E.c.launch := by
  unfold Mach.env at h
  split at h
  · cases h
  · rename_i c hc
    split at h
    · cases h
    · rename_i g hg
      cases h
      exact ⟨rfl, hc, hg, rfl, rfl⟩

theorem checked_fits {e : Enc} {sh : Shape} (F : Env → Mach → Mach) {E : Env} (h : sh.fits e E.c.nregs = true) (m : Mach) :
    checked e sh F E m = F E m := by
  simp only [checked, h, if_true]

theorem checked_unfit {e : Enc} {sh : Shape} (F : Env → Mach → Mach) {E : Env} (h : sh.fits e E.c.nregs = false) (m : Mach) :
    checked e sh F E m = trapAll E m 2 e.parcel := by
  simp [checked, h]

/-! ### Traps keep the memories -/

theorem Mach.memoriesWf_imageWrite {m : Mach} (h : m.memoriesWf = true) (k : Key) (c : Crew) (off : Nat) (l : List Byte) :
    (m.imageWrite k c off l).memoriesWf = true := Mach.memoriesWf_partWriteBytes k .hbm l _ h

theorem Mach.memoriesWf_enterLane {m : Mach} (h : m.memoriesWf = true) (k : Key) (c : Crew) (f : Fibre) (hdr idx code : Nat)
    (mask : BitVec 32) (info : Nat) (brk : Option (Nat × Nat)) : (m.enterLane k c f hdr idx code mask info brk).memoriesWf = true :=
  Mach.memoriesWf_updFibre (Mach.memoriesWf_imageWrite h k c _ _) c.id f.slot _

theorem memoriesWf_takeTrap (E : Env) {m : Mach} (h : m.memoriesWf = true) (mask : BitVec 32) (code : Nat) (info : Fibre → Nat) :
    (takeTrap E m mask code info).memoriesWf = true := by
  unfold takeTrap
  split
  · exact h
  · split
    · exact h
    · rename_i c0 _ _ g0 _
      dsimp only
      generalize hm3 : Mach.drainAll _ _ _ _ = m3
      have h3 : m3.memoriesWf = true := by
        rw [← hm3]
        refine Mach.memoriesWf_drainAll (Mach.memoriesWf_unpin ?_ _ _ _ _) _ _ _
        split
        · exact Mach.memoriesWf_updCrew h _ _
        · exact Mach.memoriesWf_updGang (Mach.memoriesWf_splitOff (Mach.memoriesWf_updCrew h _ _) _ _ _) _ _ _
      clear hm3
      split
      · exact h3
      · split
        · exact Mach.memoriesWf_askRing (Mach.memoriesWf_parkGang (Mach.memoriesWf_updCrew h3 _ _) _ _ _ _) _ _ _
        · exact Mach.memoriesWf_updGang (Mach.memoriesWf_foldl _ (fun _ f h => Mach.memoriesWf_enterLane h _ _ f _ _ _ _ _ _) _ _
            (Mach.memoriesWf_updCrew h3 _ _)) _ _ _

theorem memoriesWf_trapAll (E : Env) {m : Mach} (h : m.memoriesWf = true) (code info : Nat) : (trapAll E m code info).memoriesWf = true :=
  memoriesWf_takeTrap E h _ code _

theorem memoriesWf_trapLanes (E : Env) {m : Mach} (h : m.memoriesWf = true) (e : Enc) (code : Nat) (l : List Fibre) :
    (trapLanes E m e code l).memoriesWf = true := memoriesWf_takeTrap E h _ code _

/-- A checked form keeps the memories canonical when its own effect does. -/
theorem memoriesWf_checked {e : Enc} {sh : Shape} {F : Env → Mach → Mach} (hF : ∀ E m, m.memoriesWf = true → (F E m).memoriesWf = true)
    (E : Env) {m : Mach} (h : m.memoriesWf = true) : (checked e sh F E m).memoriesWf = true := by
  unfold checked
  split
  · exact hF E m h
  · exact memoriesWf_trapAll E h 2 _

/-- A form keeps the memories canonical when its effect does. -/
theorem memoriesWf_isa {F : Env → Mach → Mach} (hF : ∀ E m, m.memoriesWf = true → (F E m).memoriesWf = true) {s t : State}
    (hs : s.m.memoriesWf = true) (h : isa F s = .next t) : t.m.memoriesWf = true := by
  obtain ⟨_, E, _, _, rfl⟩ := isa_next h
  exact hF E s.m hs

/-! ### Steps -/

theorem onNext_next {o : Host.Outcome State Fault Refusal} {f : State → State} {t : State} (h : onNext o f = .next t) :
    ∃ u, o = .next u ∧ t = f u := by
  cases o with
  | next u => exact ⟨u, rfl, (Host.Outcome.next.inj h).symm⟩
  | fault e => cases h
  | refused e => cases h

/-- A step with a move on the agenda makes it. -/
theorem step_agenda {s : State} {mv : Move} {rest : List Move} (h : s.agenda = mv :: rest) :
    step s = runMove mv { s with agenda := rest } := by
  simp only [step, h]

/-- Where the first effective move comes from: one of the list, or the passing of a clock. -/
theorem firstEffective_next : ∀ {s t : State} {l : List Move}, firstEffective s l = .next t →
    (∃ mv ∈ l, runMove mv s = .next t) ∨ runMove (.time 1) s = .next t
  | s, t, [], h => .inr h
  | s, t, mv :: l, h => by
    unfold firstEffective at h
    split at h
    · rename_i u hu
      split at h
      · rcases firstEffective_next h with ⟨mv', hm, hr⟩ | hr
        · exact .inl ⟨mv', List.mem_cons_of_mem _ hm, hr⟩
        · exact .inr hr
      · cases h
        exact .inl ⟨mv, List.mem_cons_self, hu⟩
    · rcases firstEffective_next h with ⟨mv', hm, hr⟩ | hr
      · exact .inl ⟨mv', List.mem_cons_of_mem _ hm, hr⟩
      · exact .inr hr

/-- Every next state of a step is that of one move, of the agenda's head or with an empty agenda. -/
theorem step_next {s t : State} (h : step s = .next t) :
    (∃ mv rest, s.agenda = mv :: rest ∧ runMove mv { s with agenda := rest } = .next t)
    ∨ (s.agenda = [] ∧ ∃ mv, runMove mv s = .next t) := by
  cases ha : s.agenda with
  | cons mv rest => exact .inl ⟨mv, rest, rfl, by rw [← step_agenda ha]; exact h⟩
  | nil =>
    refine .inr ⟨rfl, ?_⟩
    unfold step at h
    rw [ha] at h
    dsimp only at h
    split at h
    · cases h
    · split at h
      · cases h
      · rcases firstEffective_next h with ⟨mv, _, hr⟩ | hr
        · exact ⟨mv, hr⟩
        · exact ⟨_, hr⟩

end Sys2Proof.Machine
end

