-- ==== Sys2Proof/Laws/Claims.lean ====
section
/-! SUPPORT. The shared operations in the words of the statements: one lemma turns a register instruction's meaning into what its
statement says of it. -/

namespace Sys2Proof.Claims
open Sys2Proof Sys2Proof.Machine

/-- The active lanes as the claims say them are those whose guard passes (R152). -/
theorem active_eq (E : Env) (e : Enc) (f : Fibre) :
    active E e f = ((!f.exited && f.course == E.g.course && inMask E.g.mask f) && guardOn e f) := by
  simp only [active, guardOn, inMask, Fibre.lane, Fibre.pred]

/-- An operation on registers is what the claims call the lanes done. -/
theorem regOp_done (s : State) (E : Env) (e : Enc) (cost : Nat) (h : Env → Fibre → Fibre) (h' : Fibre → Fibre)
    (hh : ∀ f, h E f = h' f) : regOp e cost h E s.m = lanesDone s E e cost h' := by
  unfold regOp lanesDone Crew.mapActive Crew.mapLanes
  congr 2
  funext c
  congr 2
  congr 1
  funext f
  rw [active_eq]
  by_cases h1 : (!f.exited && f.course == E.g.course && inMask E.g.mask f) = true <;> simp [h1, hh]

/-- A legal form answers the state that its effect gives. -/
theorem answers_isa (i : Instr) (s : State) (E : Env) (e : Enc) (F : Env → Mach → Mach) (m : Mach)
    (hx : exec i s = isa (checked e (shapeOf e) F) s) (hi : Issues s E) (hl : Legal E e) (hm : F E s.m = m) :
    Answers i s m := by
  obtain ⟨r, h1, h2⟩ := hi
  unfold Answers Legal at *
  rw [hx, isa, h1]; simp only [h2, checked, hl, if_true, hm]

/-- A register instruction computes what its lane function does. -/
theorem computes_of (i : Instr) (e : Enc) (he : i.enc = some e) (cost : Enc → Nat) (h : Enc → Env → Fibre → Fibre) (g : Env → Fibre → Fibre)
    (hx : ∀ s, exec i s = isa (checked e (shapeOf e) (regOp e (cost e) g)) s)
    (hh : ∀ E, Legal E e → ∀ f, g E f = h e E f) : Computes cost h i := by
  intro s E e' he' hi hl
  rw [he] at he'; cases he'
  exact answers_isa i s E e _ _ (hx s) hi hl (regOp_done s E e (cost e) g (h e E) (hh E hl))

end Sys2Proof.Claims
end

