-- ==== Sys2Proof/Laws/PerInstr.lean ====
section
/-! SUPPORT. Encoding instruction by instruction: the bits of an instruction decode to it, and its length is that of its form. -/

namespace Sys2Proof.Laws

set_option Elab.async false

/-! ### The fields of the three forms come back -/

theorem cForm_back (op : Nat) (f : CForm) : CForm.ofNum (f.toNum op) = f := by
  obtain ⟨va, vd, g, s⟩ := f
  have h1 := va.isLt
  have h2 := vd.isLt
  have h3 := g.isLt
  have hs : b2n s ≤ 1 := by cases s <;> decide
  simp only [CForm.ofNum, CForm.toNum, CForm.mk.injEq]
  refine ⟨BitVec.eq_of_toNat_eq ?_, BitVec.eq_of_toNat_eq ?_, BitVec.eq_of_toNat_eq ?_, ?_⟩
  · rw [BitVec.toNat_ofNat]; omega
  · rw [BitVec.toNat_ofNat]; omega
  · rw [BitVec.toNat_ofNat]; omega
  · cases s <;> simp only [b2n, Bool.false_eq_true, if_false, if_true, beq_iff_eq, beq_eq_false_iff_ne, ne_eq] <;> omega

theorem wForm_back (op : Nat) (f : WForm) : WForm.ofNum (f.toNum op) = f := by
  obtain ⟨ib, mods, vc, vb, va, vd, neg, g, s⟩ := f
  have h1 := mods.isLt
  have h2 := vc.isLt
  have h3 := vb.isLt
  have h4 := va.isLt
  have h5 := vd.isLt
  have h6 := g.isLt
  have hs : b2n s ≤ 1 := by cases s <;> decide
  have hn : b2n neg ≤ 1 := by cases neg <;> decide
  have hi : b2n ib ≤ 1 := by cases ib <;> decide
  simp only [WForm.ofNum, WForm.toNum, WForm.mk.injEq]
  refine ⟨?_, BitVec.eq_of_toNat_eq ?_, BitVec.eq_of_toNat_eq ?_, BitVec.eq_of_toNat_eq ?_, BitVec.eq_of_toNat_eq ?_,
    BitVec.eq_of_toNat_eq ?_, ?_, BitVec.eq_of_toNat_eq ?_, ?_⟩
  · cases ib <;> simp only [b2n, Bool.false_eq_true, if_false, if_true, beq_iff_eq, beq_eq_false_iff_ne, ne_eq] at hs hn ⊢ <;> omega
  · rw [BitVec.toNat_ofNat]; omega
  · rw [BitVec.toNat_ofNat]; omega
  · rw [BitVec.toNat_ofNat]; omega
  · rw [BitVec.toNat_ofNat]; omega
  · rw [BitVec.toNat_ofNat]; omega
  · cases neg <;> simp only [b2n, Bool.false_eq_true, if_false, if_true, beq_iff_eq, beq_eq_false_iff_ne, ne_eq] at hs hi ⊢ <;> omega
  · rw [BitVec.toNat_ofNat]; omega
  · cases s <;> simp only [b2n, Bool.false_eq_true, if_false, if_true, beq_iff_eq, beq_eq_false_iff_ne, ne_eq] at hn hi ⊢ <;> omega

theorem lForm_back (op : Nat) (f : LForm) : LForm.ofNum (f.toNum op) = f := by
  obtain ⟨lit, top, mods, vc, xmod, va, vd, neg, g, s⟩ := f
  have h0 := lit.isLt
  have h1 := mods.isLt
  have h2 := vc.isLt
  have h3 := xmod.isLt
  have h4 := va.isLt
  have h5 := vd.isLt
  have h6 := g.isLt
  have hs : b2n s ≤ 1 := by cases s <;> decide
  have hn : b2n neg ≤ 1 := by cases neg <;> decide
  have hi : b2n top ≤ 1 := by cases top <;> decide
  simp only [LForm.ofNum, LForm.toNum, LForm.mk.injEq]
  refine ⟨BitVec.eq_of_toNat_eq ?_, ?_, BitVec.eq_of_toNat_eq ?_, BitVec.eq_of_toNat_eq ?_, BitVec.eq_of_toNat_eq ?_,
    BitVec.eq_of_toNat_eq ?_, BitVec.eq_of_toNat_eq ?_, ?_, BitVec.eq_of_toNat_eq ?_, ?_⟩
  · rw [BitVec.toNat_ofNat]; omega
  · cases top <;> simp only [b2n, Bool.false_eq_true, if_false, if_true, beq_iff_eq, beq_eq_false_iff_ne, ne_eq] at hs hn ⊢ <;> omega
  · rw [BitVec.toNat_ofNat]; omega
  · rw [BitVec.toNat_ofNat]; omega
  · rw [BitVec.toNat_ofNat]; omega
  · rw [BitVec.toNat_ofNat]; omega
  · rw [BitVec.toNat_ofNat]; omega
  · cases neg <;> simp only [b2n, Bool.false_eq_true, if_false, if_true, beq_iff_eq, beq_eq_false_iff_ne, ne_eq] at hs hi ⊢ <;> omega
  · rw [BitVec.toNat_ofNat]; omega
  · cases s <;> simp only [b2n, Bool.false_eq_true, if_false, if_true, beq_iff_eq, beq_eq_false_iff_ne, ne_eq] at hn hi ⊢ <;> omega

/-! ### Form bits, opcode and size -/

theorem cForm_bits (op : Nat) (f : CForm) : f.toNum op % 4 = 0 ∧ opcodeOf (f.toNum op) = op % 512 ∧ f.toNum op < 2 ^ 32 := by
  have h1 := f.va.isLt
  have h2 := f.vd.isLt
  have h3 := f.guard.isLt
  have hs : b2n f.s ≤ 1 := by cases f.s <;> decide
  simp only [CForm.toNum, opcodeOf]
  omega

theorem wForm_bits (op : Nat) (f : WForm) : f.toNum op % 4 = 1 ∧ opcodeOf (f.toNum op) = op % 512 ∧ f.toNum op < 2 ^ 64 := by
  have h1 := f.mods.isLt
  have h2 := f.vc.isLt
  have h3 := f.vb.isLt
  have h4 := f.va.isLt
  have h5 := f.vd.isLt
  have h6 := f.guard.isLt
  have hs : b2n f.s ≤ 1 := by cases f.s <;> decide
  have hn : b2n f.neg ≤ 1 := by cases f.neg <;> decide
  have hi : b2n f.ib ≤ 1 := by cases f.ib <;> decide
  simp only [WForm.toNum, opcodeOf]
  omega

theorem lForm_bits (op : Nat) (f : LForm) : f.toNum op % 4 = 2 ∧ opcodeOf (f.toNum op) = op % 512 ∧ f.toNum op < 2 ^ 96 := by
  have h0 := f.lit.isLt
  have h1 := f.mods.isLt
  have h2 := f.vc.isLt
  have h3 := f.xmod.isLt
  have h4 := f.va.isLt
  have h5 := f.vd.isLt
  have h6 := f.guard.isLt
  have hs : b2n f.s ≤ 1 := by cases f.s <;> decide
  have hn : b2n f.neg ≤ 1 := by cases f.neg <;> decide
  have hi : b2n f.top ≤ 1 := by cases f.top <;> decide
  simp only [LForm.toNum, opcodeOf]
  omega

namespace Codec

/-- What an instruction's bits are: of the length of its form, and read back as it. -/
def Statement (i : Instr) : Prop :=
  ∀ bits n, encodeNum i = some (bits, n) → n < 2 ^ bits ∧ formBytes n = bits / 8 ∧ decodeNum n = .ok (i, bits / 8)

theorem ofC {i : Instr} {op : Nat} {f : CForm} (he : encodeNum i = some (32, f.toNum op)) (hp : pick cTable (op % 512) f = some i) :
    Statement i := by
  intro bits n h
  rw [he] at h
  cases h
  obtain ⟨h1, h2, h3⟩ := cForm_bits op f
  refine ⟨h3, by simp only [formBytes, h1, if_true], ?_⟩
  simp only [decodeNum, h1, h2, cForm_back, if_true, hp]

theorem ofW {i : Instr} {op : Nat} {f : WForm} (he : encodeNum i = some (64, f.toNum op)) (hp : pick wTable (op % 512) f = some i) :
    Statement i := by
  intro bits n h
  rw [he] at h
  cases h
  obtain ⟨h1, h2, h3⟩ := wForm_bits op f
  refine ⟨h3, by simp [formBytes, h1], ?_⟩
  simp [decodeNum, h1, h2, wForm_back, hp]

theorem ofL {i : Instr} {op : Nat} {f : LForm} (he : encodeNum i = some (96, f.toNum op)) (hp : pick lTable (op % 512) f = some i) :
    Statement i := by
  intro bits n h
  rw [he] at h
  cases h
  obtain ⟨h1, h2, h3⟩ := lForm_bits op f
  refine ⟨h3, by simp [formBytes, h1], ?_⟩
  simp [decodeNum, h1, h2, lForm_back, hp]

/-- A step of the part has no bits. -/
theorem ofNone {i : Instr} (he : encodeNum i = none) : Statement i := by
  intro bits n h
  rw [he] at h
  cases h

theorem capture : Statement .capture := ofNone rfl
theorem queueEnable : Statement .queueEnable := ofNone rfl
theorem dependencePoll : Statement .dependencePoll := ofNone rfl
theorem launch : Statement .launch := ofNone rfl
theorem mark : Statement .mark := ofNone rfl
theorem evict : Statement .evict := ofNone rfl
theorem reclaim : Statement .reclaim := ofNone rfl
theorem writeback : Statement .writeback := ofNone rfl
theorem admitCrew : Statement .admitCrew := ofNone rfl
theorem priorityAging : Statement .priorityAging := ofNone rfl
theorem coadmitWait : Statement .coadmitWait := ofNone rfl
theorem preemptForPriority : Statement .preemptForPriority := ofNone rfl
theorem crewResume : Statement .crewResume := ofNone rfl
theorem crewRetire : Statement .crewRetire := ofNone rfl
theorem completionRecord : Statement .completionRecord := ofNone rfl
theorem gangExchange : Statement .gangExchange := ofNone rfl
theorem clauseStart : Statement .clauseStart := ofNone rfl
theorem registerResultWrite : Statement .registerResultWrite := ofNone rfl
theorem storeDrain : Statement .storeDrain := ofNone rfl
theorem regroupBound : Statement .regroupBound := ofNone rfl
theorem springTimerExpiry : Statement .springTimerExpiry := ofNone rfl
theorem handlerTimeout : Statement .handlerTimeout := ofNone rfl
theorem requestRingWrite : Statement .requestRingWrite := ofNone rfl
theorem responseDoorbell : Statement .responseDoorbell := ofNone rfl
theorem responseDoorbellKill : Statement .responseDoorbellKill := ofNone rfl
theorem faultDoorbellRetry : Statement .faultDoorbellRetry := ofNone rfl
theorem faultDoorbellError : Statement .faultDoorbellError := ofNone rfl
theorem preemptionPreempt : Statement .preemptionPreempt := ofNone rfl
theorem preemptionResume : Statement .preemptionResume := ofNone rfl
theorem invalidation : Statement .invalidation := ofNone rfl
theorem invalidationComplete : Statement .invalidationComplete := ofNone rfl
theorem registerWrite : Statement .registerWrite := ofNone rfl
theorem pageWalk : Statement .pageWalk := ofNone rfl
theorem nameLookup : Statement .nameLookup := ofNone rfl
theorem fetchDone : Statement .fetchDone := ofNone rfl
theorem eviction : Statement .eviction := ofNone rfl
theorem cpaCopyDone : Statement .cpaCopyDone := ofNone rfl
theorem transferPacket : Statement .transferPacket := ofNone rfl
theorem transferRecordDone : Statement .transferRecordDone := ofNone rfl
theorem postGrant : Statement .postGrant := ofNone rfl
theorem postAge : Statement .postAge := ofNone rfl
theorem matrixStep : Statement .matrixStep := ofNone rfl
theorem postDone : Statement .postDone := ofNone rfl
theorem cursorStep : Statement .cursorStep := ofNone rfl
theorem binReplayRegion : Statement .binReplayRegion := ofNone rfl
theorem gpassUnit : Statement .gpassUnit := ofNone rfl
theorem fabricAck : Statement .fabricAck := ofNone rfl
theorem fabricResponse : Statement .fabricResponse := ofNone rfl
theorem packetArrival : Statement .packetArrival := ofNone rfl
theorem tokenGrant : Statement .tokenGrant := ofNone rfl
theorem tokenExpiry : Statement .tokenExpiry := ofNone rfl
theorem fabricEventWrite : Statement .fabricEventWrite := ofNone rfl
theorem abandonNotice : Statement .abandonNotice := ofNone rfl
theorem resumeRequest : Statement .resumeRequest := ofNone rfl
theorem peerContextFetch : Statement .peerContextFetch := ofNone rfl
theorem downstreamAck : Statement .downstreamAck := ofNone rfl
theorem persistTimeout : Statement .persistTimeout := ofNone rfl
theorem hostApertureAccess : Statement .hostApertureAccess := ofNone rfl
theorem atsInvalidate : Statement .atsInvalidate := ofNone rfl
theorem atsInvalidateTimeout : Statement .atsInvalidateTimeout := ofNone rfl
theorem ideIntegrityFailure : Statement .ideIntegrityFailure := ofNone rfl
theorem tdispMessage : Statement .tdispMessage := ofNone rfl
theorem getVersion : Statement .getVersion := ofNone rfl
theorem getCapabilities : Statement .getCapabilities := ofNone rfl
theorem negotiateAlgorithms : Statement .negotiateAlgorithms := ofNone rfl
theorem getDigests : Statement .getDigests := ofNone rfl
theorem getCertificate : Statement .getCertificate := ofNone rfl
theorem challenge : Statement .challenge := ofNone rfl
theorem getMeasurements : Statement .getMeasurements := ofNone rfl
theorem keyExchange : Statement .keyExchange := ofNone rfl
theorem finish : Statement .finish := ofNone rfl
theorem endSession : Statement .endSession := ofNone rfl
theorem openWorld : Statement .openWorld := ofNone rfl
theorem scrub : Statement .scrub := ofNone rfl
theorem scrubExecute : Statement .scrubExecute := ofNone rfl
theorem flr : Statement .flr := ofNone rfl
theorem singlePartFault : Statement .singlePartFault := ofNone rfl
theorem portLinkTraining : Statement .portLinkTraining := ofNone rfl
theorem nodeNumberWrite : Statement .nodeNumberWrite := ofNone rfl
theorem powerCapSet : Statement .powerCapSet := ofNone rfl
theorem powerCapReached : Statement .powerCapReached := ofNone rfl
theorem junctionOverLimit : Statement .junctionOverLimit := ofNone rfl
theorem junctionShutdown : Statement .junctionShutdown := ofNone rfl
theorem powerLoss : Statement .powerLoss := ofNone rfl
theorem powerOn : Statement .powerOn := ofNone rfl
theorem packageReset : Statement .packageReset := ofNone rfl
theorem bootStep : Statement .bootStep := ofNone rfl
theorem faultQueueWrite : Statement .faultQueueWrite := ofNone rfl
theorem hostLinkTraining : Statement .hostLinkTraining := ofNone rfl
theorem ideKeyManagement : Statement .ideKeyManagement := ofNone rfl
theorem pullTokenArrival : Statement .pullTokenArrival := ofNone rfl
theorem downstreamLinkDown : Statement .downstreamLinkDown := ofNone rfl
theorem powerBelowCap : Statement .powerBelowCap := ofNone rfl
theorem junctionRecovered : Statement .junctionRecovered := ofNone rfl
theorem iaddW (f : WForm) : Statement (.iaddW f) := ofW (op := 0x000) rfl rfl
theorem iaddL (f : LForm) : Statement (.iaddL f) := ofL (op := 0x000) rfl rfl
theorem iaddcW (f : WForm) : Statement (.iaddcW f) := ofW (op := 0x001) rfl rfl
theorem iaddcL (f : LForm) : Statement (.iaddcL f) := ofL (op := 0x001) rfl rfl
theorem isubW (f : WForm) : Statement (.isubW f) := ofW (op := 0x002) rfl rfl
theorem isubL (f : LForm) : Statement (.isubL f) := ofL (op := 0x002) rfl rfl
theorem imulW (f : WForm) : Statement (.imulW f) := ofW (op := 0x003) rfl rfl
theorem imulL (f : LForm) : Statement (.imulL f) := ofL (op := 0x003) rfl rfl
theorem imulhW (f : WForm) : Statement (.imulhW f) := ofW (op := 0x004) rfl rfl
theorem imulhL (f : LForm) : Statement (.imulhL f) := ofL (op := 0x004) rfl rfl
theorem imadW (f : WForm) : Statement (.imadW f) := ofW (op := 0x005) rfl rfl
theorem imadL (f : LForm) : Statement (.imadL f) := ofL (op := 0x005) rfl rfl
theorem imadwW (f : WForm) : Statement (.imadwW f) := ofW (op := 0x006) rfl rfl
theorem imadwL (f : LForm) : Statement (.imadwL f) := ofL (op := 0x006) rfl rfl
theorem idivW (f : WForm) : Statement (.idivW f) := ofW (op := 0x007) rfl rfl
theorem idivL (f : LForm) : Statement (.idivL f) := ofL (op := 0x007) rfl rfl
theorem iremW (f : WForm) : Statement (.iremW f) := ofW (op := 0x008) rfl rfl
theorem iremL (f : LForm) : Statement (.iremL f) := ofL (op := 0x008) rfl rfl
theorem inegC (f : CForm) : Statement (.inegC f) := ofC (op := 0x009) rfl rfl
theorem inegW (f : WForm) : Statement (.inegW f) := ofW (op := 0x009) rfl rfl
theorem iabsC (f : CForm) : Statement (.iabsC f) := ofC (op := 0x00A) rfl rfl
theorem iabsW (f : WForm) : Statement (.iabsW f) := ofW (op := 0x00A) rfl rfl
theorem iminW (f : WForm) : Statement (.iminW f) := ofW (op := 0x00B) rfl rfl
theorem iminL (f : LForm) : Statement (.iminL f) := ofL (op := 0x00B) rfl rfl
theorem imaxW (f : WForm) : Statement (.imaxW f) := ofW (op := 0x00C) rfl rfl
theorem imaxL (f : LForm) : Statement (.imaxL f) := ofL (op := 0x00C) rfl rfl
theorem icmpW (f : WForm) : Statement (.icmpW f) := ofW (op := 0x00D) rfl rfl
theorem icmpL (f : LForm) : Statement (.icmpL f) := ofL (op := 0x00D) rfl rfl
theorem iselW (f : WForm) : Statement (.iselW f) := ofW (op := 0x00E) rfl rfl
theorem iselL (f : LForm) : Statement (.iselL f) := ofL (op := 0x00E) rfl rfl
theorem leaW (f : WForm) : Statement (.leaW f) := ofW (op := 0x00F) rfl rfl
theorem leaL (f : LForm) : Statement (.leaL f) := ofL (op := 0x00F) rfl rfl
theorem movC (f : CForm) : Statement (.movC f) := ofC (op := 0x010) rfl rfl
theorem movW (f : WForm) : Statement (.movW f) := ofW (op := 0x010) rfl rfl
theorem moviW (f : WForm) : Statement (.moviW f) := ofW (op := 0x011) rfl rfl
theorem moviL (f : LForm) : Statement (.moviL f) := ofL (op := 0x011) rfl rfl
theorem movsC (f : CForm) : Statement (.movsC f) := ofC (op := 0x012) rfl rfl
theorem movsW (f : WForm) : Statement (.movsW f) := ofW (op := 0x012) rfl rfl
theorem andW (f : WForm) : Statement (.andW f) := ofW (op := 0x040) rfl rfl
theorem andL (f : LForm) : Statement (.andL f) := ofL (op := 0x040) rfl rfl
theorem orW (f : WForm) : Statement (.orW f) := ofW (op := 0x041) rfl rfl
theorem orL (f : LForm) : Statement (.orL f) := ofL (op := 0x041) rfl rfl
theorem xorW (f : WForm) : Statement (.xorW f) := ofW (op := 0x042) rfl rfl
theorem xorL (f : LForm) : Statement (.xorL f) := ofL (op := 0x042) rfl rfl
theorem notC (f : CForm) : Statement (.notC f) := ofC (op := 0x043) rfl rfl
theorem notW (f : WForm) : Statement (.notW f) := ofW (op := 0x043) rfl rfl
theorem andnW (f : WForm) : Statement (.andnW f) := ofW (op := 0x044) rfl rfl
theorem andnL (f : LForm) : Statement (.andnL f) := ofL (op := 0x044) rfl rfl
theorem lop3W (f : WForm) : Statement (.lop3W f) := ofW (op := 0x045) rfl rfl
theorem lop3L (f : LForm) : Statement (.lop3L f) := ofL (op := 0x045) rfl rfl
theorem shlW (f : WForm) : Statement (.shlW f) := ofW (op := 0x046) rfl rfl
theorem shlL (f : LForm) : Statement (.shlL f) := ofL (op := 0x046) rfl rfl
theorem shrW (f : WForm) : Statement (.shrW f) := ofW (op := 0x047) rfl rfl
theorem shrL (f : LForm) : Statement (.shrL f) := ofL (op := 0x047) rfl rfl
theorem sarW (f : WForm) : Statement (.sarW f) := ofW (op := 0x048) rfl rfl
theorem sarL (f : LForm) : Statement (.sarL f) := ofL (op := 0x048) rfl rfl
theorem rolW (f : WForm) : Statement (.rolW f) := ofW (op := 0x049) rfl rfl
theorem rolL (f : LForm) : Statement (.rolL f) := ofL (op := 0x049) rfl rfl
theorem rorW (f : WForm) : Statement (.rorW f) := ofW (op := 0x04A) rfl rfl
theorem rorL (f : LForm) : Statement (.rorL f) := ofL (op := 0x04A) rfl rfl
theorem shfW (f : WForm) : Statement (.shfW f) := ofW (op := 0x04B) rfl rfl
theorem shfL (f : LForm) : Statement (.shfL f) := ofL (op := 0x04B) rfl rfl
theorem bfxW (f : WForm) : Statement (.bfxW f) := ofW (op := 0x04C) rfl rfl
theorem bfxL (f : LForm) : Statement (.bfxL f) := ofL (op := 0x04C) rfl rfl
theorem bfiW (f : WForm) : Statement (.bfiW f) := ofW (op := 0x04D) rfl rfl
theorem bfiL (f : LForm) : Statement (.bfiL f) := ofL (op := 0x04D) rfl rfl
theorem popcC (f : CForm) : Statement (.popcC f) := ofC (op := 0x04E) rfl rfl
theorem popcW (f : WForm) : Statement (.popcW f) := ofW (op := 0x04E) rfl rfl
theorem lzcC (f : CForm) : Statement (.lzcC f) := ofC (op := 0x04F) rfl rfl
theorem lzcW (f : WForm) : Statement (.lzcW f) := ofW (op := 0x04F) rfl rfl
theorem tzcC (f : CForm) : Statement (.tzcC f) := ofC (op := 0x050) rfl rfl
theorem tzcW (f : WForm) : Statement (.tzcW f) := ofW (op := 0x050) rfl rfl
theorem fnsW (f : WForm) : Statement (.fnsW f) := ofW (op := 0x051) rfl rfl
theorem fnsL (f : LForm) : Statement (.fnsL f) := ofL (op := 0x051) rfl rfl
theorem brevC (f : CForm) : Statement (.brevC f) := ofC (op := 0x052) rfl rfl
theorem brevW (f : WForm) : Statement (.brevW f) := ofW (op := 0x052) rfl rfl
theorem plog (f : WForm) : Statement (.plog f) := ofW (op := 0x053) rfl rfl
theorem pmovC (f : CForm) : Statement (.pmovC f) := ofC (op := 0x054) rfl rfl
theorem pmovW (f : WForm) : Statement (.pmovW f) := ofW (op := 0x054) rfl rfl
theorem faddW (f : WForm) : Statement (.faddW f) := ofW (op := 0x080) rfl rfl
theorem faddL (f : LForm) : Statement (.faddL f) := ofL (op := 0x080) rfl rfl
theorem fsubW (f : WForm) : Statement (.fsubW f) := ofW (op := 0x081) rfl rfl
theorem fsubL (f : LForm) : Statement (.fsubL f) := ofL (op := 0x081) rfl rfl
theorem fmulW (f : WForm) : Statement (.fmulW f) := ofW (op := 0x082) rfl rfl
theorem fmulL (f : LForm) : Statement (.fmulL f) := ofL (op := 0x082) rfl rfl
theorem ffmaW (f : WForm) : Statement (.ffmaW f) := ofW (op := 0x083) rfl rfl
theorem ffmaL (f : LForm) : Statement (.ffmaL f) := ofL (op := 0x083) rfl rfl
theorem fminW (f : WForm) : Statement (.fminW f) := ofW (op := 0x084) rfl rfl
theorem fminL (f : LForm) : Statement (.fminL f) := ofL (op := 0x084) rfl rfl
theorem fmaxW (f : WForm) : Statement (.fmaxW f) := ofW (op := 0x085) rfl rfl
theorem fmaxL (f : LForm) : Statement (.fmaxL f) := ofL (op := 0x085) rfl rfl
theorem fcmpW (f : WForm) : Statement (.fcmpW f) := ofW (op := 0x086) rfl rfl
theorem fcmpL (f : LForm) : Statement (.fcmpL f) := ofL (op := 0x086) rfl rfl
theorem fclass (f : WForm) : Statement (.fclass f) := ofW (op := 0x087) rfl rfl
theorem frcp (f : WForm) : Statement (.frcp f) := ofW (op := 0x088) rfl rfl
theorem frsq (f : WForm) : Statement (.frsq f) := ofW (op := 0x089) rfl rfl
theorem fsqrt (f : WForm) : Statement (.fsqrt f) := ofW (op := 0x08A) rfl rfl
theorem fexp2 (f : WForm) : Statement (.fexp2 f) := ofW (op := 0x08B) rfl rfl
theorem flog2 (f : WForm) : Statement (.flog2 f) := ofW (op := 0x08C) rfl rfl
theorem fsin (f : WForm) : Statement (.fsin f) := ofW (op := 0x08D) rfl rfl
theorem fcos (f : WForm) : Statement (.fcos f) := ofW (op := 0x08E) rfl rfl
theorem ftanh (f : WForm) : Statement (.ftanh f) := ofW (op := 0x08F) rfl rfl
theorem cvt (f : WForm) : Statement (.cvt f) := ofW (op := 0x090) rfl rfl
theorem shflW (f : WForm) : Statement (.shflW f) := ofW (op := 0x0C0) rfl rfl
theorem shflL (f : LForm) : Statement (.shflL f) := ofL (op := 0x0C0) rfl rfl
theorem pushlW (f : WForm) : Statement (.pushlW f) := ofW (op := 0x0C1) rfl rfl
theorem pushlL (f : LForm) : Statement (.pushlL f) := ofL (op := 0x0C1) rfl rfl
theorem xred (f : WForm) : Statement (.xred f) := ofW (op := 0x0C2) rfl rfl
theorem xscan (f : WForm) : Statement (.xscan f) := ofW (op := 0x0C3) rfl rfl
theorem vote (f : WForm) : Statement (.vote f) := ofW (op := 0x0C4) rfl rfl
theorem matchLanes (f : WForm) : Statement (.matchLanes f) := ofW (op := 0x0C5) rfl rfl
theorem elect (f : WForm) : Statement (.elect f) := ofW (op := 0x0C6) rfl rfl
theorem braW (f : WForm) : Statement (.braW f) := ofW (op := 0x0D0) rfl rfl
theorem braL (f : LForm) : Statement (.braL f) := ofL (op := 0x0D0) rfl rfl
theorem brx (f : WForm) : Statement (.brx f) := ofW (op := 0x0D1) rfl rfl
theorem callW (f : WForm) : Statement (.callW f) := ofW (op := 0x0D2) rfl rfl
theorem callL (f : LForm) : Statement (.callL f) := ofL (op := 0x0D2) rfl rfl
theorem retC (f : CForm) : Statement (.retC f) := ofC (op := 0x0D3) rfl rfl
theorem retW (f : WForm) : Statement (.retW f) := ofW (op := 0x0D3) rfl rfl
theorem regroupW (f : WForm) : Statement (.regroupW f) := ofW (op := 0x0D4) rfl rfl
theorem regroupL (f : LForm) : Statement (.regroupL f) := ofL (op := 0x0D4) rfl rfl
theorem yieldGang (f : CForm) : Statement (.yieldGang f) := ofC (op := 0x0D5) rfl rfl
theorem spawnW (f : WForm) : Statement (.spawnW f) := ofW (op := 0x0D6) rfl rfl
theorem spawnL (f : LForm) : Statement (.spawnL f) := ofL (op := 0x0D6) rfl rfl
theorem fexitC (f : CForm) : Statement (.fexitC f) := ofC (op := 0x0D7) rfl rfl
theorem fexitW (f : WForm) : Statement (.fexitW f) := ofW (op := 0x0D7) rfl rfl
theorem nop (f : CForm) : Statement (.nop f) := ofC (op := 0x0D8) rfl rfl
theorem bkptC (f : CForm) : Statement (.bkptC f) := ofC (op := 0x0D9) rfl rfl
theorem bkptW (f : WForm) : Statement (.bkptW f) := ofW (op := 0x0D9) rfl rfl
theorem svcC (f : CForm) : Statement (.svcC f) := ofC (op := 0x0DA) rfl rfl
theorem svcW (f : WForm) : Statement (.svcW f) := ofW (op := 0x0DA) rfl rfl
theorem tret (f : CForm) : Statement (.tret f) := ofC (op := 0x0DB) rfl rfl
theorem tmaskC (f : CForm) : Statement (.tmaskC f) := ofC (op := 0x0DC) rfl rfl
theorem tmaskW (f : WForm) : Statement (.tmaskW f) := ofW (op := 0x0DC) rfl rfl
theorem ldW (f : WForm) : Statement (.ldW f) := ofW (op := 0x100) rfl rfl
theorem ldL (f : LForm) : Statement (.ldL f) := ofL (op := 0x100) rfl rfl
theorem stW (f : WForm) : Statement (.stW f) := ofW (op := 0x101) rfl rfl
theorem stL (f : LForm) : Statement (.stL f) := ofL (op := 0x101) rfl rfl
theorem ldsW (f : WForm) : Statement (.ldsW f) := ofW (op := 0x102) rfl rfl
theorem ldsL (f : LForm) : Statement (.ldsL f) := ofL (op := 0x102) rfl rfl
theorem stsW (f : WForm) : Statement (.stsW f) := ofW (op := 0x103) rfl rfl
theorem stsL (f : LForm) : Statement (.stsL f) := ofL (op := 0x103) rfl rfl
theorem prefW (f : WForm) : Statement (.prefW f) := ofW (op := 0x104) rfl rfl
theorem prefL (f : LForm) : Statement (.prefL f) := ofL (op := 0x104) rfl rfl
theorem ldnW (f : WForm) : Statement (.ldnW f) := ofW (op := 0x110) rfl rfl
theorem ldnL (f : LForm) : Statement (.ldnL f) := ofL (op := 0x110) rfl rfl
theorem stnW (f : WForm) : Statement (.stnW f) := ofW (op := 0x111) rfl rfl
theorem stnL (f : LForm) : Statement (.stnL f) := ofL (op := 0x111) rfl rfl
theorem peq (f : WForm) : Statement (.peq f) := ofW (op := 0x112) rfl rfl
theorem paddW (f : WForm) : Statement (.paddW f) := ofW (op := 0x113) rfl rfl
theorem paddL (f : LForm) : Statement (.paddL f) := ofL (op := 0x113) rfl rfl
theorem pdiff (f : WForm) : Statement (.pdiff f) := ofW (op := 0x114) rfl rfl
theorem pname (f : WForm) : Statement (.pname f) := ofW (op := 0x115) rfl rfl
theorem psize (f : WForm) : Statement (.psize f) := ofW (op := 0x116) rfl rfl
theorem pres (f : WForm) : Statement (.pres f) := ofW (op := 0x117) rfl rfl
theorem atomW (f : WForm) : Statement (.atomW f) := ofW (op := 0x140) rfl rfl
theorem atomL (f : LForm) : Statement (.atomL f) := ofL (op := 0x140) rfl rfl
theorem atomrW (f : WForm) : Statement (.atomrW f) := ofW (op := 0x141) rfl rfl
theorem atomrL (f : LForm) : Statement (.atomrL f) := ofL (op := 0x141) rfl rfl
theorem fence (f : WForm) : Statement (.fence f) := ofW (op := 0x142) rfl rfl
theorem xfence (f : WForm) : Statement (.xfence f) := ofW (op := 0x143) rfl rfl
theorem pfenceC (f : CForm) : Statement (.pfenceC f) := ofC (op := 0x144) rfl rfl
theorem pfenceW (f : WForm) : Statement (.pfenceW f) := ofW (op := 0x144) rfl rfl
theorem cpaW (f : WForm) : Statement (.cpaW f) := ofW (op := 0x150) rfl rfl
theorem cpaL (f : LForm) : Statement (.cpaL f) := ofL (op := 0x150) rfl rfl
theorem cpsealC (f : CForm) : Statement (.cpsealC f) := ofC (op := 0x151) rfl rfl
theorem cpsealW (f : WForm) : Statement (.cpsealW f) := ofW (op := 0x151) rfl rfl
theorem cpwaitC (f : CForm) : Statement (.cpwaitC f) := ofC (op := 0x152) rfl rfl
theorem cpwaitW (f : WForm) : Statement (.cpwaitW f) := ofW (op := 0x152) rfl rfl
theorem xfer (f : WForm) : Statement (.xfer f) := ofW (op := 0x153) rfl rfl
theorem xstat (f : WForm) : Statement (.xstat f) := ofW (op := 0x154) rfl rfl
theorem ginitW (f : WForm) : Statement (.ginitW f) := ofW (op := 0x160) rfl rfl
theorem ginitL (f : LForm) : Statement (.ginitL f) := ofL (op := 0x160) rfl rfl
theorem garriveW (f : WForm) : Statement (.garriveW f) := ofW (op := 0x161) rfl rfl
theorem garriveL (f : LForm) : Statement (.garriveL f) := ofL (op := 0x161) rfl rfl
theorem gexpectW (f : WForm) : Statement (.gexpectW f) := ofW (op := 0x162) rfl rfl
theorem gexpectL (f : LForm) : Statement (.gexpectL f) := ofL (op := 0x162) rfl rfl
theorem gwait (f : WForm) : Statement (.gwait f) := ofW (op := 0x163) rfl rfl
theorem gread (f : WForm) : Statement (.gread f) := ofW (op := 0x164) rfl rfl
theorem gfree (f : WForm) : Statement (.gfree f) := ofW (op := 0x165) rfl rfl
theorem mmaW (f : WForm) : Statement (.mmaW f) := ofW (op := 0x180) rfl rfl
theorem mmasW (f : WForm) : Statement (.mmasW f) := ofW (op := 0x181) rfl rfl
theorem bldW (f : WForm) : Statement (.bldW f) := ofW (op := 0x182) rfl rfl
theorem bldL (f : LForm) : Statement (.bldL f) := ofL (op := 0x182) rfl rfl
theorem azero (f : WForm) : Statement (.azero f) := ofW (op := 0x183) rfl rfl
theorem ard (f : WForm) : Statement (.ard f) := ofW (op := 0x184) rfl rfl
theorem astoreW (f : WForm) : Statement (.astoreW f) := ofW (op := 0x185) rfl rfl
theorem astoreL (f : LForm) : Statement (.astoreL f) := ofL (op := 0x185) rfl rfl
theorem astzW (f : WForm) : Statement (.astzW f) := ofW (op := 0x186) rfl rfl
theorem astzL (f : LForm) : Statement (.astzL f) := ofL (op := 0x186) rfl rfl
theorem cvtqW (f : WForm) : Statement (.cvtqW f) := ofW (op := 0x187) rfl rfl
theorem cvtqL (f : LForm) : Statement (.cvtqL f) := ofL (op := 0x187) rfl rfl
theorem dqW (f : WForm) : Statement (.dqW f) := ofW (op := 0x188) rfl rfl
theorem dqL (f : LForm) : Statement (.dqL f) := ofL (op := 0x188) rfl rfl
theorem tchkW (f : WForm) : Statement (.tchkW f) := ofW (op := 0x189) rfl rfl
theorem tchkL (f : LForm) : Statement (.tchkL f) := ofL (op := 0x189) rfl rfl
theorem ceopen (f : WForm) : Statement (.ceopen f) := ofW (op := 0x1C0) rfl rfl
theorem cerun (f : WForm) : Statement (.cerun f) := ofW (op := 0x1C1) rfl rfl
theorem cesplit (f : WForm) : Statement (.cesplit f) := ofW (op := 0x1C2) rfl rfl
theorem cesaveW (f : WForm) : Statement (.cesaveW f) := ofW (op := 0x1C3) rfl rfl
theorem cesaveL (f : LForm) : Statement (.cesaveL f) := ofL (op := 0x1C3) rfl rfl
theorem celoadW (f : WForm) : Statement (.celoadW f) := ofW (op := 0x1C4) rfl rfl
theorem celoadL (f : LForm) : Statement (.celoadL f) := ofL (op := 0x1C4) rfl rfl
theorem cestat (f : WForm) : Statement (.cestat f) := ofW (op := 0x1C5) rfl rfl
theorem ceclose (f : WForm) : Statement (.ceclose f) := ofW (op := 0x1C6) rfl rfl
theorem binitW (f : WForm) : Statement (.binitW f) := ofW (op := 0x1D0) rfl rfl
theorem binitL (f : LForm) : Statement (.binitL f) := ofL (op := 0x1D0) rfl rfl
theorem bapp (f : WForm) : Statement (.bapp f) := ofW (op := 0x1D1) rfl rfl
theorem breplay (f : WForm) : Statement (.breplay f) := ofW (op := 0x1D2) rfl rfl
theorem bstat (f : WForm) : Statement (.bstat f) := ofW (op := 0x1D3) rfl rfl
theorem gpassW (f : WForm) : Statement (.gpassW f) := ofW (op := 0x1F0) rfl rfl
theorem gpassL (f : LForm) : Statement (.gpassL f) := ofL (op := 0x1F0) rfl rfl

end Codec

theorem Codec.seal : Codec.Statement .seal := Codec.ofNone rfl

end Sys2Proof.Laws
end

