-- ==== Sys2Proof/WellFormed.lean ====
section
/-! DEFINITION. Well-formed instructions: the fields hold what R152 to R155 and each entry permit, for the widest window,
and the operands of the other steps lie in the part's ranges. -/

namespace Sys2Proof

/-- A function number: the PF or one of 96 VFs (R386). -/
def fnOk (fn : BitVec 7) : Bool := fn.toNat ≤ 96

/-- An instruction form's fields are legal for a window of 256 registers (R20, R155). -/
def Enc.wf (e : Enc) : Bool := (shapeOf e).fits e 256

def Instr.wf : Instr → Bool
  | .capture => true
  | .queueEnable => true
  | .dependencePoll => true
  | .launch => true
  | .mark => true
  | .evict => true
  | .reclaim => true
  | .writeback => true
  | .admitCrew => true
  | .priorityAging => true
  | .coadmitWait => true
  | .preemptForPriority => true
  | .crewResume => true
  | .crewRetire => true
  | .completionRecord => true
  | .gangExchange => true
  | .clauseStart => true
  | .registerResultWrite => true
  | .storeDrain => true
  | .regroupBound => true
  | .springTimerExpiry => true
  | .handlerTimeout => true
  | .requestRingWrite => true
  | .responseDoorbell => true
  | .responseDoorbellKill => true
  | .faultDoorbellRetry => true
  | .faultDoorbellError => true
  | .preemptionPreempt => true
  | .preemptionResume => true
  | .invalidation => true
  | .invalidationComplete => true
  | .registerWrite => true
  | .pageWalk => true
  | .nameLookup => true
  | .fetchDone => true
  | .eviction => true
  | .cpaCopyDone => true
  | .transferPacket => true
  | .transferRecordDone => true
  | .postGrant => true
  | .postAge => true
  | .matrixStep => true
  | .postDone => true
  | .cursorStep => true
  | .binReplayRegion => true
  | .gpassUnit => true
  | .fabricAck => true
  | .fabricResponse => true
  | .packetArrival => true
  | .tokenGrant => true
  | .tokenExpiry => true
  | .fabricEventWrite => true
  | .abandonNotice => true
  | .resumeRequest => true
  | .peerContextFetch => true
  | .downstreamAck => true
  | .persistTimeout => true
  | .hostApertureAccess => true
  | .atsInvalidate => true
  | .atsInvalidateTimeout => true
  | .ideIntegrityFailure => true
  | .tdispMessage => true
  | .getVersion => true
  | .getCapabilities => true
  | .negotiateAlgorithms => true
  | .getDigests => true
  | .getCertificate => true
  | .challenge => true
  | .getMeasurements => true
  | .keyExchange => true
  | .finish => true
  | .endSession => true
  | .openWorld => true
  | .seal => true
  | .scrub => true
  | .scrubExecute => true
  | .flr => true
  | .singlePartFault => true
  | .portLinkTraining => true
  | .nodeNumberWrite => true
  | .powerCapSet => true
  | .powerCapReached => true
  | .junctionOverLimit => true
  | .junctionShutdown => true
  | .powerLoss => true
  | .powerOn => true
  | .packageReset => true
  | .bootStep => true
  | .faultQueueWrite => true
  | .hostLinkTraining => true
  | .ideKeyManagement => true
  | .pullTokenArrival => true
  | .downstreamLinkDown => true
  | .powerBelowCap => true
  | .junctionRecovered => true
  | .iaddW f => (f.enc 0x000).wf
  | .iaddL f => (f.enc 0x000).wf
  | .iaddcW f => (f.enc 0x001).wf
  | .iaddcL f => (f.enc 0x001).wf
  | .isubW f => (f.enc 0x002).wf
  | .isubL f => (f.enc 0x002).wf
  | .imulW f => (f.enc 0x003).wf
  | .imulL f => (f.enc 0x003).wf
  | .imulhW f => (f.enc 0x004).wf
  | .imulhL f => (f.enc 0x004).wf
  | .imadW f => (f.enc 0x005).wf
  | .imadL f => (f.enc 0x005).wf
  | .imadwW f => (f.enc 0x006).wf
  | .imadwL f => (f.enc 0x006).wf
  | .idivW f => (f.enc 0x007).wf
  | .idivL f => (f.enc 0x007).wf
  | .iremW f => (f.enc 0x008).wf
  | .iremL f => (f.enc 0x008).wf
  | .inegC f => (f.enc 0x009).wf
  | .inegW f => (f.enc 0x009).wf
  | .iabsC f => (f.enc 0x00A).wf
  | .iabsW f => (f.enc 0x00A).wf
  | .iminW f => (f.enc 0x00B).wf
  | .iminL f => (f.enc 0x00B).wf
  | .imaxW f => (f.enc 0x00C).wf
  | .imaxL f => (f.enc 0x00C).wf
  | .icmpW f => (f.enc 0x00D).wf
  | .icmpL f => (f.enc 0x00D).wf
  | .iselW f => (f.enc 0x00E).wf
  | .iselL f => (f.enc 0x00E).wf
  | .leaW f => (f.enc 0x00F).wf
  | .leaL f => (f.enc 0x00F).wf
  | .movC f => (f.enc 0x010).wf
  | .movW f => (f.enc 0x010).wf
  | .moviW f => (f.enc 0x011).wf
  | .moviL f => (f.enc 0x011).wf
  | .movsC f => (f.enc 0x012).wf
  | .movsW f => (f.enc 0x012).wf
  | .andW f => (f.enc 0x040).wf
  | .andL f => (f.enc 0x040).wf
  | .orW f => (f.enc 0x041).wf
  | .orL f => (f.enc 0x041).wf
  | .xorW f => (f.enc 0x042).wf
  | .xorL f => (f.enc 0x042).wf
  | .notC f => (f.enc 0x043).wf
  | .notW f => (f.enc 0x043).wf
  | .andnW f => (f.enc 0x044).wf
  | .andnL f => (f.enc 0x044).wf
  | .lop3W f => (f.enc 0x045).wf
  | .lop3L f => (f.enc 0x045).wf
  | .shlW f => (f.enc 0x046).wf
  | .shlL f => (f.enc 0x046).wf
  | .shrW f => (f.enc 0x047).wf
  | .shrL f => (f.enc 0x047).wf
  | .sarW f => (f.enc 0x048).wf
  | .sarL f => (f.enc 0x048).wf
  | .rolW f => (f.enc 0x049).wf
  | .rolL f => (f.enc 0x049).wf
  | .rorW f => (f.enc 0x04A).wf
  | .rorL f => (f.enc 0x04A).wf
  | .shfW f => (f.enc 0x04B).wf
  | .shfL f => (f.enc 0x04B).wf
  | .bfxW f => (f.enc 0x04C).wf
  | .bfxL f => (f.enc 0x04C).wf
  | .bfiW f => (f.enc 0x04D).wf
  | .bfiL f => (f.enc 0x04D).wf
  | .popcC f => (f.enc 0x04E).wf
  | .popcW f => (f.enc 0x04E).wf
  | .lzcC f => (f.enc 0x04F).wf
  | .lzcW f => (f.enc 0x04F).wf
  | .tzcC f => (f.enc 0x050).wf
  | .tzcW f => (f.enc 0x050).wf
  | .fnsW f => (f.enc 0x051).wf
  | .fnsL f => (f.enc 0x051).wf
  | .brevC f => (f.enc 0x052).wf
  | .brevW f => (f.enc 0x052).wf
  | .plog f => (f.enc 0x053).wf
  | .pmovC f => (f.enc 0x054).wf
  | .pmovW f => (f.enc 0x054).wf
  | .faddW f => (f.enc 0x080).wf
  | .faddL f => (f.enc 0x080).wf
  | .fsubW f => (f.enc 0x081).wf
  | .fsubL f => (f.enc 0x081).wf
  | .fmulW f => (f.enc 0x082).wf
  | .fmulL f => (f.enc 0x082).wf
  | .ffmaW f => (f.enc 0x083).wf
  | .ffmaL f => (f.enc 0x083).wf
  | .fminW f => (f.enc 0x084).wf
  | .fminL f => (f.enc 0x084).wf
  | .fmaxW f => (f.enc 0x085).wf
  | .fmaxL f => (f.enc 0x085).wf
  | .fcmpW f => (f.enc 0x086).wf
  | .fcmpL f => (f.enc 0x086).wf
  | .fclass f => (f.enc 0x087).wf
  | .frcp f => (f.enc 0x088).wf
  | .frsq f => (f.enc 0x089).wf
  | .fsqrt f => (f.enc 0x08A).wf
  | .fexp2 f => (f.enc 0x08B).wf
  | .flog2 f => (f.enc 0x08C).wf
  | .fsin f => (f.enc 0x08D).wf
  | .fcos f => (f.enc 0x08E).wf
  | .ftanh f => (f.enc 0x08F).wf
  | .cvt f => (f.enc 0x090).wf
  | .shflW f => (f.enc 0x0C0).wf
  | .shflL f => (f.enc 0x0C0).wf
  | .pushlW f => (f.enc 0x0C1).wf
  | .pushlL f => (f.enc 0x0C1).wf
  | .xred f => (f.enc 0x0C2).wf
  | .xscan f => (f.enc 0x0C3).wf
  | .vote f => (f.enc 0x0C4).wf
  | .matchLanes f => (f.enc 0x0C5).wf
  | .elect f => (f.enc 0x0C6).wf
  | .braW f => (f.enc 0x0D0).wf
  | .braL f => (f.enc 0x0D0).wf
  | .brx f => (f.enc 0x0D1).wf
  | .callW f => (f.enc 0x0D2).wf
  | .callL f => (f.enc 0x0D2).wf
  | .retC f => (f.enc 0x0D3).wf
  | .retW f => (f.enc 0x0D3).wf
  | .regroupW f => (f.enc 0x0D4).wf
  | .regroupL f => (f.enc 0x0D4).wf
  | .yieldGang f => (f.enc 0x0D5).wf
  | .spawnW f => (f.enc 0x0D6).wf
  | .spawnL f => (f.enc 0x0D6).wf
  | .fexitC f => (f.enc 0x0D7).wf
  | .fexitW f => (f.enc 0x0D7).wf
  | .nop f => (f.enc 0x0D8).wf
  | .bkptC f => (f.enc 0x0D9).wf
  | .bkptW f => (f.enc 0x0D9).wf
  | .svcC f => (f.enc 0x0DA).wf
  | .svcW f => (f.enc 0x0DA).wf
  | .tret f => (f.enc 0x0DB).wf
  | .tmaskC f => (f.enc 0x0DC).wf
  | .tmaskW f => (f.enc 0x0DC).wf
  | .ldW f => (f.enc 0x100).wf
  | .ldL f => (f.enc 0x100).wf
  | .stW f => (f.enc 0x101).wf
  | .stL f => (f.enc 0x101).wf
  | .ldsW f => (f.enc 0x102).wf
  | .ldsL f => (f.enc 0x102).wf
  | .stsW f => (f.enc 0x103).wf
  | .stsL f => (f.enc 0x103).wf
  | .prefW f => (f.enc 0x104).wf
  | .prefL f => (f.enc 0x104).wf
  | .ldnW f => (f.enc 0x110).wf
  | .ldnL f => (f.enc 0x110).wf
  | .stnW f => (f.enc 0x111).wf
  | .stnL f => (f.enc 0x111).wf
  | .peq f => (f.enc 0x112).wf
  | .paddW f => (f.enc 0x113).wf
  | .paddL f => (f.enc 0x113).wf
  | .pdiff f => (f.enc 0x114).wf
  | .pname f => (f.enc 0x115).wf
  | .psize f => (f.enc 0x116).wf
  | .pres f => (f.enc 0x117).wf
  | .atomW f => (f.enc 0x140).wf
  | .atomL f => (f.enc 0x140).wf
  | .atomrW f => (f.enc 0x141).wf
  | .atomrL f => (f.enc 0x141).wf
  | .fence f => (f.enc 0x142).wf
  | .xfence f => (f.enc 0x143).wf
  | .pfenceC f => (f.enc 0x144).wf
  | .pfenceW f => (f.enc 0x144).wf
  | .cpaW f => (f.enc 0x150).wf
  | .cpaL f => (f.enc 0x150).wf
  | .cpsealC f => (f.enc 0x151).wf
  | .cpsealW f => (f.enc 0x151).wf
  | .cpwaitC f => (f.enc 0x152).wf
  | .cpwaitW f => (f.enc 0x152).wf
  | .xfer f => (f.enc 0x153).wf
  | .xstat f => (f.enc 0x154).wf
  | .ginitW f => (f.enc 0x160).wf
  | .ginitL f => (f.enc 0x160).wf
  | .garriveW f => (f.enc 0x161).wf
  | .garriveL f => (f.enc 0x161).wf
  | .gexpectW f => (f.enc 0x162).wf
  | .gexpectL f => (f.enc 0x162).wf
  | .gwait f => (f.enc 0x163).wf
  | .gread f => (f.enc 0x164).wf
  | .gfree f => (f.enc 0x165).wf
  | .mmaW f => (f.enc 0x180).wf
  | .mmasW f => (f.enc 0x181).wf
  | .bldW f => (f.enc 0x182).wf
  | .bldL f => (f.enc 0x182).wf
  | .azero f => (f.enc 0x183).wf
  | .ard f => (f.enc 0x184).wf
  | .astoreW f => (f.enc 0x185).wf
  | .astoreL f => (f.enc 0x185).wf
  | .astzW f => (f.enc 0x186).wf
  | .astzL f => (f.enc 0x186).wf
  | .cvtqW f => (f.enc 0x187).wf
  | .cvtqL f => (f.enc 0x187).wf
  | .dqW f => (f.enc 0x188).wf
  | .dqL f => (f.enc 0x188).wf
  | .tchkW f => (f.enc 0x189).wf
  | .tchkL f => (f.enc 0x189).wf
  | .ceopen f => (f.enc 0x1C0).wf
  | .cerun f => (f.enc 0x1C1).wf
  | .cesplit f => (f.enc 0x1C2).wf
  | .cesaveW f => (f.enc 0x1C3).wf
  | .cesaveL f => (f.enc 0x1C3).wf
  | .celoadW f => (f.enc 0x1C4).wf
  | .celoadL f => (f.enc 0x1C4).wf
  | .cestat f => (f.enc 0x1C5).wf
  | .ceclose f => (f.enc 0x1C6).wf
  | .binitW f => (f.enc 0x1D0).wf
  | .binitL f => (f.enc 0x1D0).wf
  | .bapp f => (f.enc 0x1D1).wf
  | .breplay f => (f.enc 0x1D2).wf
  | .bstat f => (f.enc 0x1D3).wf
  | .gpassW f => (f.enc 0x1F0).wf
  | .gpassL f => (f.enc 0x1F0).wf

/-- The operands of a step lie in the part's ranges: functions, cores, sizes, and the lengths that requests may have. -/
def Arg.wf : Arg → Bool
  | .none => true
  | .capture fn _ _ _ _ _ => fnOk fn
  | .queueEnable _ => true
  | .dependencePoll _ => true
  | .launch _ => true
  | .mark _ => true
  | .evict _ => true
  | .reclaim _ => true
  | .writeback _ => true
  | .admitCrew _ core => decide (core.toNat < 1536)
  | .priorityAging _ => true
  | .coadmitWait _ => true
  | .preemptForPriority _ => true
  | .crewResume _ => true
  | .crewRetire _ => true
  | .completionRecord _ => true
  | .gangExchange _ _ => true
  | .clauseStart _ _ => true
  | .registerResultWrite _ _ _ => true
  | .storeDrain _ _ => true
  | .regroupBound _ => true
  | .springTimerExpiry _ _ => true
  | .handlerTimeout _ => true
  | .requestRingWrite _ => true
  | .responseDoorbell fn _ => fnOk fn
  | .responseDoorbellKill fn _ => fnOk fn
  | .faultDoorbellRetry fn _ => fnOk fn
  | .faultDoorbellError fn _ => fnOk fn
  | .preemptionPreempt fn _ => fnOk fn
  | .preemptionResume fn _ => fnOk fn
  | .invalidation fn _ => fnOk fn
  | .invalidationComplete fn => fnOk fn
  | .registerWrite fn _ bytes _ => fnOk fn && [1, 2, 4, 8, 16].contains bytes
  | .pageWalk _ _ access => decide (access.toNat ≠ 0)
  | .nameLookup _ _ _ => true
  | .fetchDone _ _ _ _ => true
  | .eviction _ _ _ => true
  | .cpaCopyDone _ _ _ _ => true
  | .transferPacket _ _ bytes => decide (bytes.toNat ≤ 4096)
  | .transferRecordDone _ _ => true
  | .postGrant _ => true
  | .postAge _ => true
  | .matrixStep _ => true
  | .postDone _ => true
  | .cursorStep _ _ => true
  | .binReplayRegion _ => true
  | .gpassUnit _ _ => true
  | .fabricAck _ _ => true
  | .fabricResponse _ _ _ => true
  | .packetArrival _ => true
  | .tokenExpiry _ => true
  | .fabricEventWrite _ => true
  | .abandonNotice _ => true
  | .resumeRequest _ _ => true
  | .peerContextFetch _ => true
  | .downstreamAck _ _ => true
  | .persistTimeout _ => true
  | .hostApertureAccess fn _ _ => fnOk fn
  | .atsInvalidate fn _ _ => fnOk fn
  | .atsInvalidateTimeout fn => fnOk fn
  | .ideIntegrityFailure _ _ => true
  | .tdispMessage fn _ => fnOk fn
  | .getVersion fn => fnOk fn
  | .getCapabilities fn => fnOk fn
  | .negotiateAlgorithms fn => fnOk fn
  | .getDigests fn => fnOk fn
  | .getCertificate fn => fnOk fn
  | .challenge fn nonce => fnOk fn && decide (nonce.length = 32)
  | .getMeasurements fn _ => fnOk fn
  | .keyExchange fn => fnOk fn
  | .finish fn => fnOk fn
  | .endSession fn => fnOk fn
  | .openWorld fn _ _ => fnOk fn
  | .seal fn _ _ => fnOk fn
  | .scrub fn _ ranges => fnOk fn && decide (1 ≤ ranges.length) && decide (ranges.length ≤ 64) && ranges.all fun r => r.1 % 4096 == 0 && r.2 % 4096 == 0
  | .scrubExecute fn _ => fnOk fn
  | .flr fn => fnOk fn
  | .singlePartFault _ => true
  | .portLinkTraining _ _ => true
  | .nodeNumberWrite _ => true
  | .powerCapSet watts => decide (watts.toNat ≤ 15000)
  | .junctionShutdown _ => true
  | .powerLoss _ => true
  | .bootStep _ _ => true
  | .faultQueueWrite fn => fnOk fn
  | .hostLinkTraining _ => true
  | .ideKeyManagement fn _ => fnOk fn
  | .pullTokenArrival _ _ bytes => decide (bytes.toNat ≤ 65536)
  | .downstreamLinkDown _ => true

end Sys2Proof
end

