-- ==== Sys2Proof/Tests/Slice0.lean ====
section
/-! SUPPORT. The model's own tests: ill-formed terms, encodings written out from the spec, single steps whose results were
worked out from the spec by hand, and for every statement with hypotheses a concrete state that meets them together. -/

namespace Sys2Proof.Tests

set_option maxRecDepth 20000
set_option Elab.async false

open Sys2Proof Sys2Proof.Machine Sys2Proof.Claims

/-! ### Instructions and states to test with -/

/-- Unguarded forms with the fields given. -/
def wf (va vb vc vd mods : Nat) : WForm :=
  ⟨false, BitVec.ofNat 14 mods, BitVec.ofNat 8 vc, BitVec.ofNat 8 vb, BitVec.ofNat 8 va, BitVec.ofNat 8 vd, false, 15, false⟩
def wi (va imm vc vd mods : Nat) : WForm := { wf va imm vc vd mods with ib := true }
def cf (va vd : Nat) : CForm := ⟨BitVec.ofNat 8 va, BitVec.ofNat 8 vd, 15, false⟩
def lf (lit va vc vd mods : Nat) : LForm :=
  ⟨BitVec.ofNat 32 lit, false, BitVec.ofNat 14 mods, BitVec.ofNat 8 vc, 0, BitVec.ofNat 8 va, BitVec.ofNat 8 vd, false, 15, false⟩

/-- The modifier bits [62:58] of a type code. -/
def ty (code : Nat) : Nat := code * 2 ^ 9

/-- Modifier bit i of bits [62:49]. -/
def bit (i : Nat) : Nat := 2 ^ (i - 49)

/-- Crew 1 of one fibre and one gang, the gang issuing. -/
def stand : State :=
  { State.reset with
    m := { Mach.reset with crews := [placeCrew 1], ctxs := [placeCtx], nextId := 2 }
    cur := some ⟨1, 0⟩ }

def onMach (h : Mach → Mach) (s : State) : State := { s with m := h s.m }
def onDev (h : Dev → Dev) (s : State) : State := { s with dev := h s.dev }
def onCrew (h : Crew → Crew) : State → State := onMach fun m => { m with crews := m.crews.map h }
def onCtx (h : Ctx → Ctx) : State → State := onMach fun m => { m with ctxs := m.ctxs.map h }
def onGang (h : Gang → Gang) : State → State := onCrew fun c => { c with gangs := c.gangs.map h }
def onFibre (h : Fibre → Fibre) : State → State := onCrew fun c => { c with fibres := c.fibres.map h }

/-- Registers set in every fibre. -/
def regs (l : List (Nat × Nat)) : State → State :=
  onFibre fun f => { f with regs := l.foldl (fun r q => r.set q.1 (BitVec.ofNat 32 q.2)) f.regs }

/-- A second fibre in home lane 1 of the gang. -/
def twoLanes : State → State :=
  onCrew fun c => { c with fibres := c.fibres ++ [{ placeFibre with slot := 1 }], gangs := c.gangs.map fun g => { g with mask := 3 } }

def asking (a : Arg) (s : State) : State := { s with arg := a, cur := none }

/-- The gang that issues, as a meaning sees it; its instruction's fields. -/
def envAt (s : State) : Env := (s.cur.bind (s.m.env s.dev)).getD ⟨s.dev, placeCrew 0, placeGang, placeCtx, Launch.blank⟩
def encOf (i : Instr) : Enc := i.enc.getD ((cf 0 0).enc 0)

/-- The first fibre of the issuing crew. -/
def fibreAt (s : State) : Fibre := (envAt s).c.fibres.headD placeFibre

/-- What every statement about an instruction form that runs asks of the state and the fields. -/
def Ready (s : State) (i : Instr) : Prop := i.enc = some (encOf i) ∧ Issues s (envAt s) ∧ Legal (envAt s) (encOf i)

def ready (s : State) (i : Instr) : Bool :=
  (s.cur.bind (s.m.env s.dev)).isSome && i.enc.isSome && (shapeOf (encOf i)).fits (encOf i) (envAt s).c.nregs

theorem issues_at (s : State) (h : (s.cur.bind (s.m.env s.dev)).isSome = true) : Issues s (envAt s) := by
  obtain ⟨E, hE⟩ := Option.isSome_iff_exists.mp h
  obtain ⟨r, hr, hr'⟩ := Option.bind_eq_some_iff.mp hE
  exact ⟨r, hr, by rw [envAt, hE]; exact hr'⟩

theorem ready_all (s : State) (l : List Instr) (h : (l.all fun i => ready s i) = true) : ∀ i ∈ l, Ready s i := by
  intro i hi
  have h := List.all_eq_true.mp h i hi
  simp only [ready, Bool.and_eq_true] at h
  refine ⟨?_, issues_at s h.1.1, h.2⟩
  obtain ⟨e, he⟩ := Option.isSome_iff_exists.mp h.1.2
  rw [encOf, he]; rfl

/-! ### Ill-formed terms (R20, R21, R151 to R155, R173) -/

theorem test_wf_accepts :
    (Instr.iaddW (wf 4 6 0 8 (ty 12))).wf = true ∧ (Instr.svcC (cf 3 244)).wf = true
      ∧ (Instr.moviL (lf 0xFFFFFFFF 0 0 255 (ty 2))).wf = true ∧ Instr.capture.wf = true := by decide +kernel

/-- Guard 15 cannot be negated, and bit 63 of an L form is 0. -/
theorem test_wf_refuses_common :
    (Instr.iaddW { wf 4 6 0 8 (ty 11) with neg := true }).wf = false
      ∧ (Instr.iaddL { lf 5 4 0 8 (ty 11) with top := true }).wf = false := by decide +kernel

/-- A reserved type code, a type that the entry does not take, a reserved modifier, a field that must be 0, p15 written, no
register for b. -/
theorem test_wf_refuses_fields :
    (Instr.iaddW (wf 4 6 0 8 (ty 23))).wf = false ∧ (Instr.iaddW (wf 4 6 0 8 (ty 15))).wf = false
      ∧ (Instr.iaddW (wf 4 6 0 8 (ty 11 + 1))).wf = false ∧ (Instr.iaddW (wf 4 6 1 8 (ty 11))).wf = false
      ∧ (Instr.icmpW (wf 4 6 0 15 (ty 11))).wf = false ∧ (Instr.inegW (wi 4 6 0 8 (ty 7))).wf = false := by decide +kernel

/-- A pair at an odd register, a quad at one that is no multiple of 4, twelve registers past v255. -/
theorem test_wf_refuses_registers :
    (Instr.iaddW (wf 5 6 0 8 (ty 12))).wf = false ∧ (Instr.movW (wf 2 0 0 8 (ty 4))).wf = false
      ∧ (Instr.svcC (cf 3 248)).wf = false := by decide +kernel

theorem test_arg_wf_accepts :
    (Arg.registerWrite 96 0x10 8 0).wf = true ∧ (Arg.admitCrew 0 1535).wf = true ∧ (Arg.scrub 1 true [(4096, 8192)]).wf = true
      ∧ (Arg.challenge 0 (List.replicate 32 0)).wf = true ∧ (Arg.powerCapSet 15000).wf = true := by decide +kernel

theorem test_arg_wf_refuses :
    (Arg.flr 97).wf = false ∧ (Arg.admitCrew 0 1536).wf = false ∧ (Arg.registerWrite 0 0x10 3 0).wf = false
      ∧ (Arg.pageWalk (.binning 1) 4096 0).wf = false ∧ (Arg.transferPacket 1 0 4097).wf = false
      ∧ (Arg.challenge 0 (List.replicate 31 0)).wf = false ∧ (Arg.scrub 1 true []).wf = false
      ∧ (Arg.scrub 1 true (List.replicate 65 (0, 4096))).wf = false ∧ (Arg.scrub 1 true [(1, 4096)]).wf = false
      ∧ (Arg.powerCapSet 15001).wf = false ∧ (Arg.pullTokenArrival 1 0 65537).wf = false := by decide +kernel

/-! ### Encodings written out field by field, highest bit first (R150, R151, R153, R154, R163)

C form: va [31:24], vd [23:16], guard [15:12], opcode [11:3], S [2], form [1:0] = 0. W form: IB [63], modifiers [62:49],
vc [48:41], vb [40:33], va [32:25], vd [24:17], negated [16], guard [15:12], opcode [11:3], S [2], form = 1. L form: as W with
form = 2, bits [40:33] modifiers, and the literal in bits [95:64]. -/

/-- NOP and FEXIT as the spec prints them; INEG.s32 v5, v4; CPWAIT 3. -/
theorem test_decode_c :
    decodeTableWord 32 0x0000F6C0 = some (.nop (cf 0 0)) ∧ decodeTableWord 32 0x0000F6B8 = some (.fexitC (cf 0 0))
      ∧ decodeTableWord 32 (4#8 ++ 5#8 ++ 15#4 ++ 0x009#9 ++ 0#1 ++ 0#2 : BitVec 32).toNat = some (.inegC (cf 4 5))
      ∧ decodeTableWord 32 (3#8 ++ 0#8 ++ 15#4 ++ 0x152#9 ++ 0#1 ++ 0#2 : BitVec 32).toNat = some (.cpwaitC (cf 3 0)) := by
  decide +kernel

/-- IADD.n32 v8, v4, v6. -/
theorem test_decode_iadd :
    decodeTableWord 64 (0#1 ++ 11#5 ++ 0#9 ++ 0#8 ++ 6#8 ++ 4#8 ++ 8#8 ++ 0#1 ++ 15#4 ++ 0x000#9 ++ 0#1 ++ 1#2 : BitVec 64).toNat
      = some (.iaddW (wf 4 6 0 8 (11 * 512))) := by decide +kernel

/-- AND.b32 v8, v4, 0x80000001 under not p3, with its S bit. -/
theorem test_decode_and_literal :
    decodeTableWord 96
        (0x80000001#32 ++ 0#1 ++ 2#5 ++ 0#9 ++ 0#8 ++ 0#8 ++ 4#8 ++ 8#8 ++ 1#1 ++ 3#4 ++ 0x040#9 ++ 1#1 ++ 2#2 : BitVec 96).toNat
      = some (.andL { lf 0x80000001 4 0 8 (2 * 512) with neg := true, guard := 3, s := true }) := by decide +kernel

/-- FADD.f64 v8, v4, v6, rounding up (RU, code 2). -/
theorem test_decode_fadd :
    decodeTableWord 64
        (0#1 ++ 16#5 ++ 2#3 ++ 0#6 ++ 0#8 ++ 6#8 ++ 4#8 ++ 8#8 ++ 0#1 ++ 15#4 ++ 0x080#9 ++ 0#1 ++ 1#2 : BitVec 64).toNat
      = some (.faddW (wf 4 6 0 8 (16 * 512 + 2 * 64))) := by decide +kernel

/-- SHFL.b32 in mode 1, distance code 5, with an ok predicate p2; VOTE of p5 into p7. -/
theorem test_decode_lanes :
    decodeTableWord 64
        (0#1 ++ 2#5 ++ 1#2 ++ 5#5 ++ 1#1 ++ 0#1 ++ 2#8 ++ 0#8 ++ 4#8 ++ 8#8 ++ 0#1 ++ 15#4 ++ 0x0C0#9 ++ 0#1 ++ 1#2 : BitVec 64).toNat
      = some (.shflW (wf 4 0 2 8 (2 * 512 + 1 * 128 + 5 * 4 + 2)))
    ∧ decodeTableWord 64
        (0#1 ++ 0#14 ++ 0#8 ++ 0#8 ++ 5#8 ++ 7#8 ++ 0#1 ++ 15#4 ++ 0x0C4#9 ++ 0#1 ++ 1#2 : BitVec 64).toNat
      = some (.vote (wf 5 0 0 7 0)) := by decide +kernel

/-- BRA in the L form with the offset -2, and BRX v4:5. -/
theorem test_decode_flow :
    decodeTableWord 96
        (0xFFFFFFFE#32 ++ 0#1 ++ 0#14 ++ 0#8 ++ 0#8 ++ 0#8 ++ 0#8 ++ 0#1 ++ 15#4 ++ 0x0D0#9 ++ 0#1 ++ 2#2 : BitVec 96).toNat
      = some (.braL (lf 0xFFFFFFFE 0 0 0 0))
    ∧ decodeTableWord 64 (0#1 ++ 0#14 ++ 0#8 ++ 0#8 ++ 4#8 ++ 0#8 ++ 0#1 ++ 15#4 ++ 0x0D1#9 ++ 0#1 ++ 1#2 : BitVec 64).toNat
      = some (.brx (wf 4 0 0 0 0)) := by decide +kernel

/-- LD.b32 v8 from v4:5 - 4 at scope fib, and STS.b64 v10:11. -/
theorem test_decode_memory :
    decodeTableWord 64
        (1#1 ++ 2#5 ++ 1#2 ++ 0#2 ++ 0#3 ++ 0#2 ++ 3#8 ++ 0xFC#8 ++ 4#8 ++ 8#8 ++ 0#1 ++ 15#4 ++ 0x100#9 ++ 0#1 ++ 1#2 : BitVec 64).toNat
      = some (.ldW (wi 4 0xFC 3 8 (2 * 512 + 1 * 128)))
    ∧ decodeTableWord 64
        (1#1 ++ 3#5 ++ 0#2 ++ 0#2 ++ 0#3 ++ 0#2 ++ 0#8 ++ 16#8 ++ 4#8 ++ 10#8 ++ 0#1 ++ 15#4 ++ 0x103#9 ++ 0#1 ++ 1#2 : BitVec 64).toNat
      = some (.stsW (wi 4 16 0 10 (3 * 512))) := by decide +kernel

/-- PADD v8:9, v4:5, v6:7; ATOM.add.n32 v8 at v4:5 (mode 1) with v6, relaxed at scope dev (3). -/
theorem test_decode_pointers_atomics :
    decodeTableWord 64 (0#1 ++ 0#14 ++ 0#8 ++ 6#8 ++ 4#8 ++ 8#8 ++ 0#1 ++ 15#4 ++ 0x113#9 ++ 0#1 ++ 1#2 : BitVec 64).toNat
      = some (.paddW (wf 4 6 0 8 0))
    ∧ decodeTableWord 64
        (0#1 ++ 11#5 ++ 0#4 ++ 0#2 ++ 3#3 ++ 1#2 ++ 3#6 ++ 6#8 ++ 4#8 ++ 8#8 ++ 0#1 ++ 15#4 ++ 0x140#9 ++ 0#1 ++ 1#2 : BitVec 64).toNat
      = some (.atomW (wf 4 6 67 8 (11 * 512 + 3))) := by decide +kernel

/-- FENCE acq-rel at sys over every class; CPA of 16 bytes from v4:5 to the address in v8; GINIT v4, 7 in unit 1. -/
theorem test_decode_fence_copy_gauge :
    decodeTableWord 64
        (0#1 ++ 0#7 ++ 3#2 ++ 5#3 ++ 0#2 ++ 63#8 ++ 0#8 ++ 0#8 ++ 0#8 ++ 0#1 ++ 15#4 ++ 0x142#9 ++ 0#1 ++ 1#2 : BitVec 64).toNat
      = some (.fence (wf 0 0 63 0 (3 * 32 + 5 * 4)))
    ∧ decodeTableWord 64
        (0#1 ++ 2#3 ++ 1#2 ++ 0#1 ++ 0#2 ++ 0#6 ++ 0#8 ++ 0#8 ++ 4#8 ++ 8#8 ++ 0#1 ++ 15#4 ++ 0x150#9 ++ 0#1 ++ 1#2 : BitVec 64).toNat
      = some (.cpaW (wf 4 0 0 8 (2 * 2048 + 1 * 512)))
    ∧ decodeTableWord 64 (1#1 ++ 1#14 ++ 0#8 ++ 7#8 ++ 4#8 ++ 0#8 ++ 0#1 ++ 15#4 ++ 0x160#9 ++ 0#1 ++ 1#2 : BitVec 64).toNat
      = some (.ginitW (wi 4 7 0 0 1)) := by decide +kernel

/-- MMA on acc 2 and slot 1 with keep, format word v6, A from v8; ASTORE of acc 1 as type code 3 with saturation. -/
theorem test_decode_matrix :
    decodeTableWord 64
        (0#1 ++ 2#2 ++ 1#1 ++ 1#1 ++ 0#1 ++ 0#9 ++ 0#8 ++ 6#8 ++ 8#8 ++ 0#8 ++ 0#1 ++ 15#4 ++ 0x180#9 ++ 0#1 ++ 1#2 : BitVec 64).toNat
      = some (.mmaW (wf 8 6 0 0 (2 * 4096 + 2048 + 1024)))
    ∧ decodeTableWord 64
        (0#1 ++ 3#3 ++ 0#3 ++ 0#1 ++ 1#1 ++ 0#1 ++ 0#1 ++ 1#2 ++ 0#2 ++ 0#8 ++ 6#8 ++ 4#8 ++ 0#8 ++ 0#1 ++ 15#4 ++ 0x185#9 ++ 0#1
          ++ 1#2 : BitVec 64).toNat
      = some (.astoreW (wf 4 6 0 0 (3 * 2048 + 64 + 4))) := by decide +kernel

/-- CEOPEN of cursor 3 from v4:5; BAPP v4, v6; GPASS through gate 5 from v4:5 to v8:9, length v6. -/
theorem test_decode_sparse_gates :
    decodeTableWord 64 (0#1 ++ 3#2 ++ 0#12 ++ 0#8 ++ 0#8 ++ 4#8 ++ 0#8 ++ 0#1 ++ 15#4 ++ 0x1C0#9 ++ 0#1 ++ 1#2 : BitVec 64).toNat
      = some (.ceopen (wf 4 0 0 0 (3 * 4096)))
    ∧ decodeTableWord 64 (0#1 ++ 0#14 ++ 0#8 ++ 6#8 ++ 4#8 ++ 0#8 ++ 0#1 ++ 15#4 ++ 0x1D1#9 ++ 0#1 ++ 1#2 : BitVec 64).toNat
      = some (.bapp (wf 4 6 0 0 0))
    ∧ decodeTableWord 64
        (0#1 ++ 5#3 ++ 0#1 ++ 0#10 ++ 0#8 ++ 6#8 ++ 4#8 ++ 8#8 ++ 0#1 ++ 15#4 ++ 0x1F0#9 ++ 0#1 ++ 1#2 : BitVec 64).toNat
      = some (.gpassW (wf 4 6 0 8 (5 * 2048))) := by decide +kernel

/-- A reserved form, an unassigned opcode, and FENCE in the C form, which the map does not permit. -/
theorem test_decode_refuses :
    decode (bytesOfWord 12 0x0000F6C3) = .error .reservedForm
      ∧ decode (bytesOfWord 12 (0x0000F001 + 8 * 0x013)) = .error (.unassigned 0x013)
      ∧ decode (bytesOfWord 12 (0x0000F000 + 8 * 0x142)) = .error (.formNotPermitted 0x142) := by decide +kernel

/-! ### Single instructions, with results worked out by hand from the rules named -/

def after (i : Instr) (s : State) : State :=
  match exec i s with
  | .next t => t
  | _ => s

/-- A register of the first fibre after the instruction; its predicates. -/
def regAfter (i : Instr) (k : Nat) (s : State) : Nat := ((fibreAt (after i s)).regs.getD k 0).toNat
def predsAfter (i : Instr) (s : State) : Nat := (fibreAt (after i s)).preds.toNat

/-- R179: 0x7FFFFFFF + 1 as s32 wraps, and saturates with bit 57; R180: 0xFFFFFFFF + 1 as n32 carries into p1. -/
theorem test_iadd_iaddc :
    regAfter (.iaddW (wf 4 6 0 8 (ty 7))) 8 (regs [(4, 0x7FFFFFFF), (6, 1)] stand) = 0x80000000
      ∧ regAfter (.iaddW (wf 4 6 0 8 (ty 7 + bit 57))) 8 (regs [(4, 0x7FFFFFFF), (6, 1)] stand) = 0x7FFFFFFF
      ∧ predsAfter (.iaddcW (wi 4 1 0x10 8 (ty 11))) (regs [(4, 0xFFFFFFFF)] stand) = 2 := by decide +kernel

/-- R182: -7 / 2 = -3 and its remainder -1; R181: -2 × 3 + 5 = -1 in 64 bits. -/
theorem test_idiv_irem_imadw :
    regAfter (.idivW (wi 4 2 0 8 (ty 7))) 8 (regs [(4, 2 ^ 32 - 7)] stand) = 2 ^ 32 - 3
      ∧ regAfter (.iremW (wi 4 2 0 8 (ty 7))) 8 (regs [(4, 2 ^ 32 - 7)] stand) = 2 ^ 32 - 1
      ∧ regAfter (.imadwW (wi 4 3 10 8 (ty 7))) 9 (regs [(4, 2 ^ 32 - 2), (10, 5)] stand) = 2 ^ 32 - 1 := by decide +kernel

/-- R182: a divisor of 0 gives all ones, and the dividend as the remainder. -/
theorem test_idiv_by_zero :
    regAfter (.idivW (wi 4 0 0 8 (ty 11))) 8 (regs [(4, 5)] stand) = 0xFFFFFFFF
      ∧ regAfter (.iremW (wi 4 0 0 8 (ty 11))) 8 (regs [(4, 5)] stand) = 5 := by decide +kernel

/-- R189: a count of the width or more; a rotation by 33 is one by 1. R191: bits [7:4] of 0xF0, sign-extended. -/
theorem test_shifts_and_fields :
    regAfter (.shlW (wi 4 32 0 8 (ty 2))) 8 (regs [(4, 1)] stand) = 0
      ∧ regAfter (.sarW (wi 4 33 0 8 (ty 2))) 8 (regs [(4, 0x80000000)] stand) = 0xFFFFFFFF
      ∧ regAfter (.rolW (wi 4 33 0 8 (ty 2))) 8 (regs [(4, 0x80000000)] stand) = 1
      ∧ regAfter (.bfxW (wf 4 6 0 8 (ty 7))) 8 (regs [(4, 0xF0), (6, 0x0404)] stand) = 0xFFFFFFFF := by decide +kernel

/-- R192: three set bits, 27 leading zeros, the second set bit from bit 1 on. R183: -1 < 1 as s32. -/
theorem test_counts_and_compare :
    regAfter (.popcC (cf 4 8)) 8 (regs [(4, 0x15)] stand) = 3 ∧ regAfter (.lzcC (cf 4 8)) 8 (regs [(4, 0x15)] stand) = 27
      ∧ regAfter (.fnsW (wf 4 6 0 8 (ty 2))) 8 (regs [(4, 0x15), (6, 0x0201)] stand) = 4
      ∧ predsAfter (.icmpW (wi 4 1 0 3 (ty 7 + 2 * bit 54))) (regs [(4, 0xFFFFFFFF)] stand) = 8 := by decide +kernel

/-- R57: 1 + 2⁻²⁴ is a tie that RN rounds to even, and RU rounds up. R197: the smaller of +0 and -0. R200: a NaN is unordered. -/
theorem test_float :
    regAfter (.faddW (wf 4 6 0 8 (ty 15))) 8 (regs [(4, 0x3F800000), (6, 0x33800000)] stand) = 0x3F800000
      ∧ regAfter (.faddW (wf 4 6 0 8 (ty 15 + 2 * bit 55))) 8 (regs [(4, 0x3F800000), (6, 0x33800000)] stand) = 0x3F800001
      ∧ regAfter (.fminW (wf 4 6 0 8 (ty 15))) 8 (regs [(6, 0x80000000)] stand) = 0x80000000
      ∧ predsAfter (.fcmpW (wf 4 6 0 1 (ty 15 + 7))) (regs [(4, 0x7FC00001)] stand) = 2 := by decide +kernel

/-- R62 and R204: 300.0 as s8 is 127, and -1 of s8 stands sign-extended as -1.0. R187: %lanes is 32. -/
theorem test_cvt_and_movs :
    regAfter (.cvt (wf 4 15 0 8 (ty 5))) 8 (regs [(4, 0x43960000)] stand) = 127
      ∧ regAfter (.cvt (wf 4 5 0 8 (ty 15))) 8 (regs [(4, 0xFF)] stand) = 0xBF800000
      ∧ regAfter (.movsC (cf 0 8)) 8 stand = 32 := by decide +kernel

/-- R206: two units of 8 bytes past the header; R225: the gang parks at the SVC; R351: with no handler BKPT is forwarded as
BREAKPOINT with its code in %tinfo. -/
theorem test_flow :
    (envAt (after (.braW (wf 2 0 0 0 0)) stand)).g.hdr = placeBase + 16
      ∧ (envAt (after (.svcC (cf 7 8)) stand)).g.state = .parked .svc
      ∧ (envAt (after (.bkptC (cf 5 0)) stand)).g.ringWait = some (2, 40, 5) := by decide +kernel

/-- R122: a store waits in its fibre's queue, and the fibre's own load sees it. R109: GINIT makes a gauge that expects 3. -/
theorem test_scratchpad :
    (after (.stsW (wi 4 0 0 8 (ty 2))) (regs [(8, 0x01020304)] stand)).m.scratch = []
      ∧ (fibreAt (after (.ldsW (wi 4 0 0 9 (ty 2))) (after (.stsW (wi 4 0 0 8 (ty 2))) (regs [(8, 0x01020304)] stand)))).pend.map (·.val)
          = [0x01020304]
      ∧ (after (.ginitW (wi 4 3 0 0 0)) (regs [(4, 16)] stand)).m.gauge 16 = ⟨true, false, false, false, 3, 0, 0, 3⟩ := by
  decide +kernel

/-- R92: a poisoned pointer equals nothing, not even itself. -/
theorem test_peq :
    (fibreAt (after (.peq (wf 4 4 0 1 0)) (regs [(5, 0xC0000000)] stand))).pend.map (·.val) = [0]
      ∧ (fibreAt (after (.peq (wf 4 4 0 1 0)) (regs [(5, 0x00000001)] stand))).pend.map (·.val) = [1] := by decide +kernel

/-- The first step after reset of a placed word runs the instruction: SHL.b32 of the worked program, then the gang stands at the
header after its clause of one instruction (R141, R145). -/
theorem test_step_runs_first_instruction :
    (match step (State.reset.withFetchWord 64 0x880000041214F231) with
      | .next t => some ((t.m.crews.headD (placeCrew 0)).gangs.map fun g => (g.hdr, g.idx))
      | _ => none) = some [(placeBase + 8 + 16, 0)] := by decide +kernel

/-- Nothing issues where no gang is named; a step of the part without its operands describes no event. -/
theorem test_refusals :
    exec (.nop (cf 0 0)) State.reset = .refused .noIssuingGang ∧ exec .capture State.reset = .refused .noOperands := ⟨rfl, rfl⟩

/-! ### Witnesses

For every statement with hypotheses, a state and operands that meet all of them together, for each clause and each form. -/

/-- OperandForms: a 32-bit type; a register, an immediate at its largest, and a literal at its largest as the b operand. -/
theorem witness_operandForms :
    tyOf (encOf (.iaddW (wf 4 6 0 8 (ty 11)))) = .n32
      ∧ ((encOf (.iaddW (wf 4 6 0 8 (ty 12)))).isL = false ∧ (encOf (.iaddW (wf 4 6 0 8 (ty 12)))).ib = false)
      ∧ ((encOf (.iaddW (wi 4 255 0 8 (ty 11)))).isL = false ∧ (encOf (.iaddW (wi 4 255 0 8 (ty 11)))).ib = true
        ∧ (encOf (.iaddW (wi 4 255 0 8 (ty 11)))).vb < 256)
      ∧ (encOf (.iaddL (lf (2 ^ 32 - 1) 4 0 8 (ty 11)))).isL = true
      ∧ (encOf (.iaddL (lf (2 ^ 32 - 1) 4 0 8 (ty 11)))).lit < 2 ^ 32 := by decide +kernel

/-- Every integer and predicate instruction, at registers up to the last pair of the window. -/
def integerForms : List Instr :=
  [.iaddW (wf 4 6 0 254 (ty 12)), .iaddL (lf 5 4 0 8 (ty 11)), .isubW (wf 4 6 0 8 (ty 7)), .isubL (lf 5 4 0 8 (ty 7)),
   .imulW (wf 4 6 0 8 (ty 7)), .imulL (lf 5 4 0 8 (ty 7)), .imulhW (wf 4 6 0 8 (ty 8)), .imulhL (lf 5 4 0 8 (ty 8)),
   .imadW (wf 4 6 10 8 (ty 7)), .imadL (lf 5 4 10 8 (ty 7)), .inegC (cf 4 8), .inegW (wf 4 0 0 8 (ty 8)), .iabsC (cf 4 8),
   .iabsW (wf 4 0 0 8 (ty 8)), .iminW (wf 4 6 0 8 (ty 7)), .iminL (lf 5 4 0 8 (ty 7)), .imaxW (wf 4 6 0 8 (ty 11)),
   .imaxL (lf 5 4 0 8 (ty 11)), .idivW (wf 4 6 0 8 (ty 7)), .idivL (lf 0 4 0 8 (ty 7)), .iremW (wf 4 6 0 8 (ty 7)),
   .iremL (lf 0 4 0 8 (ty 7)), .iaddcW (wf 4 6 0xE5 8 (ty 11 + 1)), .iaddcL (lf 5 4 0x10 8 (ty 12)), .imadwW (wf 4 6 10 8 (ty 7)),
   .imadwL (lf 5 4 10 8 (ty 11)), .icmpW (wf 4 6 0 14 (ty 7 + 5 * bit 54)), .icmpL (lf 5 4 0 0 (ty 3 + bit 54)),
   .iselW (wf 4 6 15 8 (ty 2)), .iselL (lf 5 4 3 8 (ty 3)), .leaW (wf 4 6 0 8 (ty 7 + 31)), .leaL (lf 5 4 0 8 (ty 12)),
   .movC (cf 4 8), .movW (wf 4 0 0 8 (ty 4)), .moviW (wi 0 128 0 8 (ty 3)), .moviL (lf 0x3F800000 0 0 8 (ty 16))]

def bitForms : List Instr :=
  [.andW (wf 4 6 0 8 (ty 2)), .andL (lf 5 4 0 8 (ty 3)), .orW (wf 4 6 0 8 (ty 2)), .orL (lf 5 4 0 8 (ty 3)),
   .xorW (wf 4 6 0 8 (ty 2)), .xorL (lf 5 4 0 8 (ty 3)), .andnW (wf 4 6 0 8 (ty 2)), .andnL (lf 5 4 0 8 (ty 3)),
   .notC (cf 4 8), .notW (wf 4 0 0 8 (ty 3)), .lop3W (wf 4 6 10 8 (ty 2 + 0x96)), .lop3L (lf 5 4 10 8 (ty 3 + 0xE8)),
   .shlW (wf 4 6 0 8 (ty 3)), .shlL (lf (2 ^ 32 - 1) 4 0 8 (ty 2)), .shrW (wf 4 6 0 8 (ty 3)), .shrL (lf 64 4 0 8 (ty 3)),
   .sarW (wf 4 6 0 8 (ty 3)), .sarL (lf 63 4 0 8 (ty 3)), .rolW (wf 4 6 0 8 (ty 3)), .rolL (lf 65 4 0 8 (ty 3)),
   .rorW (wf 4 6 0 8 (ty 2)), .rorL (lf 33 4 0 8 (ty 2)), .shfW (wf 4 6 10 8 (ty 2 + 1)), .shfL (lf 64 4 10 8 (ty 2)),
   .bfxW (wf 4 6 0 8 (ty 8)), .bfxL (lf 0x0404 4 0 8 (ty 7)), .bfiW (wf 4 6 10 8 (ty 3)), .bfiL (lf 0x0404 4 10 8 (ty 2)),
   .popcC (cf 4 8), .popcW (wf 4 0 0 8 (ty 3)), .lzcC (cf 4 8), .lzcW (wf 4 0 0 8 (ty 3)), .tzcC (cf 4 8),
   .tzcW (wf 4 0 0 8 (ty 3)), .brevC (cf 4 8), .brevW (wf 4 0 0 8 (ty 3)), .fnsW (wf 4 6 0 8 (ty 3 + 1)),
   .fnsL (lf 0x0201 4 0 8 (ty 2)), .plog (wf 15 14 3 14 0xE8), .pmovC (cf 0 8), .pmovW (wf 4 0 0 0 1)]

def floatForms : List Instr :=
  [.faddW (wf 4 6 0 8 (ty 16)), .faddL (lf 0x3F800000 4 0 8 (ty 16 + 4 * bit 55)), .fsubW (wf 4 6 0 8 (ty 15)),
   .fsubL (lf 0x3F800000 4 0 8 (ty 14)), .fmulW (wf 4 6 0 8 (ty 21)), .fmulL (lf 0x3C003C00 4 0 8 (ty 22)),
   .ffmaW (wf 4 6 10 8 (ty 13)), .ffmaL (lf 0x3F800000 4 10 8 (ty 15)), .fminW (wf 4 6 0 8 (ty 13)), .fminL (lf 5 4 0 8 (ty 16)),
   .fmaxW (wf 4 6 0 8 (ty 14)), .fmaxL (lf 5 4 0 8 (ty 15)), .fcmpW (wf 4 6 0 14 (ty 16 + 7)), .fcmpL (lf 5 4 0 0 (ty 15)),
   .fclass (wf 4 0 0 8 (ty 17)), .frcp (wf 4 0 0 8 (ty 16)), .fsqrt (wf 4 0 0 8 (ty 15)), .frsq (wf 4 0 0 8 (ty 15)),
   .fexp2 (wf 4 0 0 8 (ty 15)), .flog2 (wf 4 0 0 8 (ty 15)), .fsin (wf 4 0 0 8 (ty 15)), .fcos (wf 4 0 0 8 (ty 15)),
   .ftanh (wf 4 0 0 8 (ty 15)), .cvt (wf 4 15 10 8 (ty 21)), .cvt (wf 4 20 0 8 (ty 16)), .cvt (wf 4 8 0 8 (ty 5 + bit 52))]

def laneForms : List Instr :=
  [.shflW (wf 4 6 0 8 (ty 3)), .shflL (lf 31 4 14 8 (ty 2 + 2)), .shflW (wf 4 0 2 8 (ty 2 + 3 * bit 56 + 31 * 4 + 2)),
   .pushlW (wf 4 6 0 8 (ty 3)), .pushlL (lf 31 4 14 8 (ty 2 + 2)), .xred (wf 4 0 0 8 (ty 15)), .xred (wf 4 0 0 8 (ty 3 + 5 * bit 50)),
   .xscan (wf 4 0 0 8 (ty 7 + bit 50 + 1)), .vote (wf 5 0 0 14 0), .vote (wf 15 0 0 255 (3 * bit 56)), .matchLanes (wf 4 0 0 8 (ty 3)),
   .elect (wf 0 0 0 14 0), .elect (wf 0 0 0 255 (bit 57))]

/-- IntegerArithmetic, BitInstructions, ComparesAndPredicates, FloatInstructions, SpecialFunctions, Conversion,
ReductionAndScan and LaneExchangeAndVotes: every form runs, with one lane and with two. -/
theorem witness_computes :
    (∀ i ∈ integerForms ++ bitForms, Ready stand i) ∧ (∀ i ∈ floatForms, Ready stand i) ∧ ∀ i ∈ laneForms, Ready (twoLanes stand) i :=
  ⟨ready_all _ _ (by decide +kernel), ready_all _ _ (by decide +kernel), ready_all _ _ (by decide +kernel)⟩

/-- StateRegisterReads: the last state register and the first code that is none; a modifier bit set. -/
theorem witness_stateRegisterReads :
    (∀ i ∈ [Instr.movsC (cf 14 254), .movsW (wf 0 0 0 255 0)], Ready stand i)
      ∧ (∀ i ∈ [Instr.movsC (cf 15 8), .movsW (wf 15 0 0 8 0), .movsW (wf 0 0 0 8 1)],
          i.enc = some (encOf i) ∧ ((encOf i).mods ≠ 0 ∨ 15 ≤ (encOf i).va)) :=
  ⟨ready_all _ _ (by decide +kernel), by decide +kernel⟩

/-- PredicateInstructions: the last predicate that can be written. SpecialFunctions: a negative value. -/
theorem witness_predicates_roots : (14 < 15 ∧ (13 : Nat) ≠ 14) ∧ 0 < 1 := by decide

/-- ExactArithmeticIsExact, RoundingKeepsWhatTheFormatHolds and DirectedRounding: the largest FP64 value, and a value that no
format holds and whose rounded results are finite. FloatInstructions: an FP32 pattern that is no NaN. -/
theorem witness_rounding :
    (finite (.fin true 1 (-1074)) = true ∧ finite (fmt64.decode 0x7FEFFFFFFFFFFFFF) = true)
      ∧ (∀ f ∈ formats, 2 < 2 ^ f.bits ∧ finite (f.decode 2) = true)
      ∧ (∀ f ∈ formats, ∀ k ∈ [1, 2, 3], finite (f.decode (f.round ⟨k, false, false⟩ (.fin true 3 (-40)) 0).1) = true)
      ∧ (0x7F800000 < 2 ^ 32 ∧ isNaN fmt32 0x7F800000 = false) := by decide +kernel

/-- Conversion: the least s64 value. -/
theorem witness_conversion :
    ETy.s64 ∈ [ETy.s8, .s16, .s32, .s64, .n8, .n16, .n32, .n64]
      ∧ minOf .s64 ≤ (if true then -((2 ^ 63 : Nat) : Int) else (2 ^ 63 : Nat))
      ∧ (if true then -((2 ^ 63 : Nat) : Int) else (2 ^ 63 : Nat)) ≤ maxOf .s64 ∧ 2 ^ 63 < 2 ^ 64 := by decide +kernel

/-- IllegalOperandsTrap: an odd register for a pair, and a register past a window of 8. -/
theorem witness_illegalOperandsTrap :
    ((Instr.iaddW (wf 5 6 0 8 (ty 12))).enc = some (encOf (.iaddW (wf 5 6 0 8 (ty 12)))) ∧ Issues stand (envAt stand)
        ∧ ¬ Legal (envAt stand) (encOf (.iaddW (wf 5 6 0 8 (ty 12)))))
      ∧ ¬ Legal (envAt (onCrew (fun c => { c with nregs := 8 }) stand)) (encOf (.iaddW (wf 4 6 0 8 (ty 11)))) :=
  ⟨⟨rfl, issues_at _ (by decide +kernel), by unfold Legal; decide +kernel⟩, by unfold Legal; decide +kernel⟩

theorem real_of {f : FFmt} {v : Nat} {q : ℚ} (h : value (f.decode v) = q) : real f v = (q : ℝ) := by rw [real, h]

/-- SpecialFunctions: 1 in both formats. SpecialFunctionBounds: 1, inside the interval of the absolute bounds and a power of two, and 4,
outside it, with the exact root 1/2. -/
theorem witness_specialFunctionBounds :
    ((0x3F800000 < 2 ^ fmt32.bits ∧ finite (fmt32.decode 0x3F800000) = true ∧ real fmt32 0x3F800000 = 1)
        ∧ 0x3FF0000000000000 < 2 ^ fmt64.bits ∧ finite (fmt64.decode 0x3FF0000000000000) = true ∧ real fmt64 0x3FF0000000000000 = 1)
      ∧ (Positive32 0x3F800000 ∧ real fmt32 0x3F800000 = (2 : ℝ) ^ (0 : ℤ) ∧ 4 * real fmt32 0x3F800000 = ((4 : ℤ) : ℝ)
        ∧ (1 / 2 ≤ real fmt32 0x3F800000 ∧ real fmt32 0x3F800000 ≤ 2) ∧ finite (fmt32.decode (special 0x08B 0x3F800000)) = true)
      ∧ (Positive32 0x40800000 ∧ real fmt32 0x40800000 = ((4 : ℤ) : ℝ) ∧ ¬ (1 / 2 ≤ real fmt32 0x40800000 ∧ real fmt32 0x40800000 ≤ 2))
      ∧ 0x3F000000 < 2 ^ 32 ∧ finite (fmt32.decode 0x3F000000) = true
      ∧ real fmt32 0x3F000000 = 1 / Real.sqrt (real fmt32 0x40800000) := by
  have h1 : real fmt32 0x3F800000 = ((1 : ℚ) : ℝ) := real_of (by decide +kernel)
  have h2 : real fmt64 0x3FF0000000000000 = ((1 : ℚ) : ℝ) := real_of (by decide +kernel)
  have h4 : real fmt32 0x40800000 = ((4 : ℚ) : ℝ) := real_of (by decide +kernel)
  have h5 : real fmt32 0x3F000000 = ((1 / 2 : ℚ) : ℝ) := real_of (by decide +kernel)
  have hs : Real.sqrt 4 = 2 := by rw [show (4 : ℝ) = 2 ^ 2 by norm_num]; exact Real.sqrt_sq (by norm_num)
  unfold Positive32 Finite32
  rw [h1, h2, h4, h5]
  norm_num [hs]
  decide +kernel

/-- Bytes of HBM. -/
def put (a n v : Nat) : State → State := onMach fun m => { m with hbm := m.hbm.writeBytes a (leBytes n v) }

/-- The same, its context's header in HBM. -/
def homed : State := onCtx (fun x => { x with addr := 0x200000 }) (onCrew (fun c => { c with ctx := 0x200000 }) stand)

/-- With a trap handler. -/
def handled : State := put 0x200040 8 0x300000 homed

/-- TrapEntry: one of two lanes traps. -/
theorem witness_trapEntry :
    let s := twoLanes handled
    let E := envAt s
    Issues s E ∧ (tvec s E ≠ 0 ∧ QueuesEmpty E ∧ NoneCounted E ∧ (∀ f ∈ E.c.fibres, f.pend = []) ∧ E.g.mask &&& 1 ≠ 0
      ∧ (∀ f ∈ E.c.fibres, f.masked = false) ∧ (∀ g ∈ E.c.gangs, g.id < s.m.nextId) ∧ (E.c.fibres.map (·.slot)).Nodup
      ∧ s.m.memoriesWf = true) :=
  ⟨issues_at _ (by decide +kernel), by unfold tvec QueuesEmpty NoneCounted; decide +kernel⟩

/-- TrapForwarding: no handler; and a handler, with traps masked in a lane. -/
theorem witness_trapForwarding :
    (Issues stand (envAt stand) ∧ Settled (envAt stand) ∧ QueuesEmpty (envAt stand) ∧ NoneCounted (envAt stand)
        ∧ tvec stand (envAt stand) = 0)
      ∧ (let s := onFibre (fun f => { f with masked := true }) handled
        Issues s (envAt s) ∧ QueuesEmpty (envAt s) ∧ NoneCounted (envAt s) ∧ Settled (envAt s)
          ∧ tvec s (envAt s) ≠ 0 ∧ ∃ f ∈ (envAt s).lanes, f.masked = true) :=
  ⟨⟨issues_at _ (by decide +kernel), by unfold Settled QueuesEmpty NoneCounted tvec; decide +kernel⟩,
    issues_at _ (by decide +kernel), by unfold Settled QueuesEmpty NoneCounted tvec; decide +kernel⟩

/-- v4:5 at the last header of the address space, just past it, and off by 4. -/
def atLast : State := regs [(4, 2 ^ 32 - 8), (5, 2 ^ 25 - 1)] stand
def pastLast : State := regs [(5, 2 ^ 25)] stand
def offHeader : State := regs [(4, 4)] stand

theorem witness_branches :
    ((∀ i ∈ [Instr.braW { wf 2 0 0 0 0 with s := true }, .braL (lf 2 0 0 0 0), .callW (wf 255 255 255 8 0), .callL (lf 2 0 0 8 0)], Ready stand i)
      ∧ ∀ i ∈ [Instr.braW { wf 2 0 0 0 0 with s := true }, .braL (lf 2 0 0 0 0), .callW (wf 255 255 255 8 0), .callL (lf 2 0 0 8 0)],
          NoWait (envAt stand) (encOf i)
            ∧ ∀ f ∈ (envAt stand).act (encOf i), validHeader (offsetTarget (envAt stand) (encOf i)))
      ∧ ((∀ i ∈ [Instr.brx (wf 4 0 0 0 0), .retC (cf 4 0), .retW (wf 4 0 0 0 0)], Ready atLast i)
        ∧ ∀ i ∈ [Instr.brx (wf 4 0 0 0 0), .retC (cf 4 0), .retW (wf 4 0 0 0 0)], NoWait (envAt atLast) (encOf i)
            ∧ ∀ f ∈ (envAt atLast).act (encOf i), validHeader (fromPair (encOf i) (envAt atLast) f)) :=
  ⟨⟨ready_all _ _ (by decide +kernel), by unfold NoWait Settled validHeader; decide +kernel⟩,
    ready_all _ _ (by decide +kernel), by unfold NoWait Settled validHeader; decide +kernel⟩

theorem witness_badTargets :
    ((∀ i ∈ [Instr.braW (wf 0 0 0x80 0 0), .braL (lf 0x80000000 0 0 0 0), .callW (wf 0 0 0x80 8 0), .callL (lf 0x80000000 0 0 8 0)], Ready stand i)
      ∧ ∀ i ∈ [Instr.braW (wf 0 0 0x80 0 0), .braL (lf 0x80000000 0 0 0 0), .callW (wf 0 0 0x80 8 0), .callL (lf 0x80000000 0 0 8 0)],
          NoWait (envAt stand) (encOf i)
            ∧ ∃ f ∈ (envAt stand).act (encOf i), ¬ validHeader (offsetTarget (envAt stand) (encOf i)))
      ∧ ∀ s ∈ [pastLast, offHeader], (∀ i ∈ [Instr.brx (wf 4 0 0 0 0), .retC (cf 4 0), .retW (wf 4 0 0 0 0)], ready s i = true)
        ∧ ∀ i ∈ [Instr.brx (wf 4 0 0 0 0), .retC (cf 4 0), .retW (wf 4 0 0 0 0)], NoWait (envAt s) (encOf i)
            ∧ ∃ f ∈ (envAt s).act (encOf i), ¬ validHeader (fromPair (encOf i) (envAt s) f) :=
  ⟨⟨ready_all _ _ (by decide +kernel), by unfold NoWait Settled validHeader; decide +kernel⟩,
    by unfold NoWait Settled validHeader; decide +kernel⟩

/-- SplittingAGang: two lanes that go to two places, and the second one split off. -/
theorem witness_splittingAGang :
    let s := twoLanes stand
    let l := (envAt s).lanes
    ((l.map fun f => f.slot % 32).Nodup ∧ (∃ f ∈ l, ∃ q ∈ groupLanes (·.slot) l, q.1 = f.slot))
      ∧ (envAt s).c ∈ s.m.crews ∧ s.m.crew (envAt s).c.id = some (envAt s).c ∧ (envAt s).c.gang (envAt s).g.id = some (envAt s).g
      ∧ (∀ h ∈ (envAt s).c.gangs, h.id < s.m.nextId) ∧ (envAt s).g.mask &&& ~~~(2 : BitVec 32) ≠ 0 := by decide +kernel

/-- A second gang of the crew that waits for a place. -/
def withWaiting : State :=
  onCrew (fun c => { c with gangs := c.gangs ++ [{ placeGang with id := 1, course := 1, place := .pending }] }) stand

theorem witness_regroupYieldNop :
    ((∀ i ∈ [Instr.regroupW (wi 0 127 0 0 0), .regroupL (lf 65536 0 0 0 0)], Ready stand i)
      ∧ ∀ i ∈ [Instr.regroupW (wi 0 127 0 0 0), .regroupL (lf 65536 0 0 0 0)], NoWait (envAt stand) (encOf i)
          ∧ (envAt stand).act (encOf i) = (envAt stand).lanes ∧ lanesMask (envAt stand).lanes = (envAt stand).g.mask
          ∧ (envAt stand).lanes ≠ [])
      ∧ ((∀ i ∈ [Instr.yieldGang (cf 0 0)], Ready stand i) ∧ NoWait (envAt stand) (encOf (.yieldGang (cf 0 0)))
        ∧ waitingGangs stand (envAt stand) = [])
      ∧ ((∀ i ∈ [Instr.yieldGang (cf 0 0)], Ready withWaiting i) ∧ NoWait (envAt withWaiting) (encOf (.yieldGang (cf 0 0)))
        ∧ (envAt withWaiting).act (encOf (.yieldGang (cf 0 0))) ≠ [] ∧ waitingGangs withWaiting (envAt withWaiting) ≠ [])
      ∧ ∀ i ∈ [Instr.nop (cf 0 0)], Ready stand i :=
  ⟨⟨ready_all _ _ (by decide +kernel), by unfold NoWait Settled; decide +kernel⟩,
    ⟨ready_all _ _ (by decide +kernel), by unfold NoWait Settled; decide +kernel⟩,
    ⟨ready_all _ _ (by decide +kernel), by unfold NoWait Settled; decide +kernel⟩, ready_all _ _ (by decide +kernel)⟩

/-- A bin of entry 0x100000 with n fibres. -/
def binOf (n : Nat) (full : Bool) : SpringBin := ⟨3, 0x100000, List.replicate n ⟨[], 0⟩, full, 1000, 0, 0⟩
def spawning : State := onCrew (fun c => { c with bins := [binOf 30 false] }) (regs [(6, 0x100000)] stand)

/-- The same with a bin that one more fills, with a course free and with none. -/
def fillingFull : State := onCrew (fun c => { c with bins := [binOf 31 false] }) spawning
def filling : State := onCrew (fun c => { c with limit := 64 }) fillingFull

/-- No bin for the lane's entry, and none free; and two lanes of which the first one's entry has a bin. -/
def otherBins (n : Nat) : List SpringBin := (List.range n).map fun k => { binOf 1 false with n := k, key := 8 }
def noBin : State := onCrew (fun c => { c with bins := otherBins 16 }) spawning
def someBin : State :=
  onCrew (fun c => { c with bins := { binOf 1 false with n := 15 } :: otherBins 15 })
    (onFibre (fun f => { f with regs := if f.slot = 1 then f.regs.set 6 0x200000 else f.regs }) (twoLanes spawning))

def tryForms : List Instr := [.spawnW (wf 4 6 0 14 (8 * bit 59 + bit 58)), .spawnL (lf 0 4 0 0 (8 * bit 59 + bit 58))]
def spawnForms : List Instr := [.spawnW (wf 4 6 0 0 (8 * bit 59)), .spawnW (wf 0 6 0 0 0)]

/-- SpawnExitAndRegroup, a bin: one that one more fills, in the last clock of its timer; no bin of the entry, with 15 others; a full bin, a
ready one and one whose timer has run. -/
theorem witness_bins :
    (((({ placeCrew 1 with bins := [binOf 31 false] } : Crew).bins.find? fun b => b.key == 0x100000) = some (binOf 31 false))
        ∧ (binOf 31 false).ready = false ∧ 999 < (binOf 31 false).deadline ∧ (binOf 31 false).fibres.length < 32
        ∧ (({ placeCrew 1 with bins := [binOf 31 false] } : Crew).bins.filter fun b => b.key == 0x100000) = [binOf 31 false])
      ∧ ((∀ b ∈ List.replicate 15 (binOf 1 false), b.key ≠ 8) ∧ (List.replicate 15 (binOf 1 false)).length < 16)
      ∧ (binOf 1 true).ready = true ∧ (binOf 1 false).deadline ≤ 1000 ∧ 32 ≤ (binOf 32 false).fibres.length := by decide +kernel

/-- What every SPAWN asks, in these states. -/
theorem witness_spawning :
    ∀ q ∈ [(spawning, tryForms), (filling, tryForms), (fillingFull, tryForms), (noBin, spawnForms), (someBin, spawnForms)], ∀ i ∈ q.2,
      ready q.1 i = true ∧ (∀ f ∈ (envAt q.1).act (encOf i), validHeader (spawnEntry (encOf i) (envAt q.1) f)) ∧ QueuesEmpty (envAt q.1)
        ∧ (envAt q.1).g.mask ≠ 0 ∧ (q.1.m.crews.map (·.id)).Nodup := by
  unfold validHeader QueuesEmpty; decide +kernel

/-- SPAWN into a bin that stays short of W, with .try; where no lane finds a bin; where one of two does. -/
theorem witness_spawnsInBins :
    (∀ i ∈ tryForms, let p := placing spawning (envAt spawning) (encOf i); (∀ b ∈ p.1.bins, b.ready = false) ∧ p.2 = [] ∧ (encOf i).mb 58 = true)
      ∧ (∀ i ∈ spawnForms, let p := placing noBin (envAt noBin) (encOf i)
          (∀ b ∈ p.1.bins, b.ready = false) ∧ (encOf i).mb 58 = false ∧ p.2 = (envAt noBin).act (encOf i) ∧ Whole (envAt noBin) (encOf i))
      ∧ ∀ i ∈ spawnForms, let p := placing someBin (envAt someBin) (encOf i)
          (∀ b ∈ p.1.bins, b.ready = false) ∧ p.2 ≠ [] ∧ (envAt someBin).g.mask &&& ~~~lanesMask p.2 ≠ 0
            ∧ ∀ g ∈ (envAt someBin).c.gangs, g.id < someBin.m.nextId := by
  unfold Whole; decide +kernel

/-- SPAWN of a fibre that makes a bin ready, with a course free and with none. -/
theorem witness_spawnFillsABin :
    ∀ s ∈ [filling, fillingFull], ∀ i ∈ tryForms,
      let p := placing s (envAt s) (encOf i)
      let b := p.1.bins.headD (binOf 0 false)
      (envAt s).act (encOf i) = [fibreAt s] ∧ p.2 = [] ∧ (envAt s).c.stopping = false ∧ (∀ g ∈ (envAt s).c.gangs, g.id < s.m.nextId)
        ∧ b ∈ p.1.bins ∧ b.ready = true ∧ (∀ q ∈ p.1.bins, q.ready = true → q = b)
        ∧ (envAt s).c.freeCourse = if s = filling then some 1 else none := by decide +kernel

/-- Two lanes, the second one active under p1. -/
def splitGuard : State := onFibre (fun f => { f with preds := if f.slot = 1 then 2 else 0 }) (twoLanes stand)

/-- FibreExit: the whole gang, and one lane of two. -/
theorem witness_fibreExit :
    (∀ i ∈ [Instr.fexitC (cf 0 0), .fexitW (wf 0 0 0 0 0), .fexitC { cf 0 0 with guard := 1 }, .fexitW { wf 0 0 0 0 0 with guard := 1 }],
        Ready splitGuard i)
      ∧ (∀ i ∈ [Instr.fexitC (cf 0 0), .fexitW (wf 0 0 0 0 0), .fexitC { cf 0 0 with guard := 1 }, .fexitW { wf 0 0 0 0 0 with guard := 1 }],
          NoWait (envAt splitGuard) (encOf i))
      ∧ (∀ b ∈ (envAt splitGuard).c.bins, b.ready = false)
      ∧ (envAt splitGuard).g.mask &&& ~~~lanesMask ((envAt splitGuard).act (encOf (.fexitC (cf 0 0)))) = 0
      ∧ (envAt splitGuard).g.mask &&& ~~~lanesMask ((envAt splitGuard).act (encOf (.fexitC { cf 0 0 with guard := 1 }))) ≠ 0 := by
  refine ⟨ready_all _ _ (by decide +kernel), ?_, ?_⟩
  · unfold NoWait Settled; decide +kernel
  · decide +kernel

def callForms : List Instr := [.bkptC (cf 255 0), .bkptW (wf 255 0 0 0 0), .svcC (cf 255 244), .svcW (wf 255 0 0 244 0)]
def idleCalls : List Instr :=
  [.bkptC { cf 255 0 with guard := 0 }, .bkptW { wf 255 0 0 0 0 with guard := 0 }, .svcC { cf 255 244 with guard := 0 },
   .svcW { wf 255 0 0 244 0 with guard := 0 }]
def debugged : State := put 0x200048 8 1 homed

/-- BreakpointAndService: without and with a debugger, and with no lane active. -/
theorem witness_breakpointAndService :
    ((∀ i ∈ callForms, Ready stand i)
      ∧ (∀ i ∈ callForms, Whole (envAt stand) (encOf i))
      ∧ (debugField stand (envAt stand)).testBit 0 = false
      ∧ (stand.m.releaseNow (envAt stand).d (envAt stand).c (envAt stand).lanes 5 63).2 = true)
      ∧ ((∀ i ∈ callForms, Ready debugged i)
        ∧ (∀ i ∈ callForms, Whole (envAt debugged) (encOf i))
        ∧ (debugField debugged (envAt debugged)).testBit 0 = true ∧ (debugField debugged (envAt debugged)).testBit 1 = false)
      ∧ (∀ i ∈ idleCalls, Ready stand i)
      ∧ ∀ i ∈ idleCalls, (envAt stand).act (encOf i) = [] := by
  refine ⟨⟨ready_all _ _ (by decide +kernel), ?_⟩, ⟨ready_all _ _ (by decide +kernel), ?_⟩, ready_all _ _ (by decide +kernel), ?_⟩
  all_goals (first | unfold Whole debugField | skip); decide +kernel

/-- A lane in a handler whose frame says that it resumes at a header, and at index 0 of the placed clause. -/
def inHandler : State := put (2 ^ 29 + 0xB000 + 0x40 + 16) 8 0x100000 (onFibre (fun f => { f with inHandler := true, masked := true }) stand)

/-- ReturnAndTrapMask: TRET inside and outside a handler, TMASK 0 and 1. -/
theorem witness_returnAndTrapMask :
    ((∀ i ∈ [Instr.tret (cf 0 0)], Ready inHandler i)
      ∧ (let s := inHandler
        let E := envAt s
        let e := encOf (.tret (cf 0 0))
        NoWait E e ∧ Whole E e ∧ QueuesEmpty E ∧ E.c.stopping = false
          ∧ (∀ f ∈ E.lanes, f.inHandler = true ∧ f.brk = none ∧ resumeOf s E f = 0x100000) ∧ s.m.resumeOk E.d E.x E.cluster 0x100000 = true))
      ∧ ((∀ i ∈ [Instr.tret (cf 0 0)], Ready stand i) ∧ NoWait (envAt stand) (encOf (.tret (cf 0 0)))
        ∧ ∃ f ∈ (envAt stand).act (encOf (.tret (cf 0 0))), f.inHandler = false)
      ∧ (∀ i ∈ [Instr.tmaskC (cf 1 0), .tmaskW (wf 0 0 0 0 0)], Ready stand i) ∧ (envAt stand).c.stopping = false := by
  refine ⟨⟨ready_all _ _ (by decide +kernel), ?_⟩, ⟨ready_all _ _ (by decide +kernel), ?_⟩, ready_all _ _ (by decide +kernel), by decide +kernel⟩
  · unfold NoWait Settled Whole QueuesEmpty resumeOf; decide +kernel
  · unfold NoWait Settled; decide +kernel

/-- The places that a check answers. -/
def checkOf (s : State) (e : Enc) (store named : Bool) (f : Fibre) : Acc :=
  accOf (s.m.memLane (envAt s) e.amode e.va (memDisp e) e.vc (memWant e (if named then .b128 else tyOf e) store named) f)

/-- Two lanes with v4:5 at different bytes of memory, v12 at the last words of the scratchpad. -/
def memory : State :=
  onFibre (fun f => { f with regs := (f.regs.set 4 (BitVec.ofNat 32 (0x8000 + 64 * f.slot))).set 12 (BitVec.ofNat 32 (4088 + 4 * f.slot)) })
    (put 0x8000 8 0x1122334455667788 (twoLanes stand))

def loadForms : List Instr :=
  [.ldW (wi 4 0 3 8 (ty 5 + bit 56)), .ldW (wi 4 8 3 8 (ty 3 + bit 56 + bit 54 + bit 51)), .ldL (lf 0xFFFFF000 4 3 8 (ty 2 + bit 56 + 2 * bit 51))]
def storeForms : List Instr :=
  [.stW (wi 4 0 3 8 (ty 3 + bit 56)), .stL (lf 0x1000 4 3 8 (ty 0 + bit 56 + 2 * bit 54 + bit 51))]

/-- LoadsDeliverWhatTheLaneSees and StoresEnterTheQueue, through memory. -/
theorem witness_loadsStores :
    ((∀ i ∈ loadForms ++ storeForms, Ready memory i) ∧ NoneCounted (envAt memory))
      ∧ (∀ i ∈ loadForms, Claims.Checked memory (envAt memory) (encOf i) false (checkOf memory (encOf i) false false)
          ∧ AllHere (envAt memory) (encOf i) (checkOf memory (encOf i) false false))
      ∧ ∀ i ∈ storeForms, Claims.Checked memory (envAt memory) (encOf i) true (checkOf memory (encOf i) true false) := by
  refine ⟨⟨ready_all _ _ (by decide +kernel), ?_⟩, ?_⟩
  · unfold NoneCounted; decide +kernel
  · unfold Claims.Checked RecordNamed AllHere; decide +kernel

/-- LDS and STS, up to the last word of the crew's scratchpad. -/
theorem witness_scratchpad :
    ((∀ i ∈ [Instr.ldsW (wi 12 0 0 8 (ty 2)), .ldsL (lf 0xFFFFF008 12 0 8 (ty 2)), .stsW (wi 12 0 0 8 (ty 2)), .stsL (lf 0xFFFFF008 12 0 8 (ty 2))],
        Ready memory i) ∧ NoneCounted (envAt memory))
      ∧ ∀ i ∈ [Instr.ldsW (wi 12 0 0 8 (ty 2)), .ldsL (lf 0xFFFFF008 12 0 8 (ty 2)), .stsW (wi 12 0 0 8 (ty 2)), .stsL (lf 0xFFFFF008 12 0 8 (ty 2))],
        ∀ f ∈ (envAt memory).act (encOf i), InScratch (envAt memory) (scratchAddr (encOf i) f) (bytesOf (encOf i)) := by
  refine ⟨⟨ready_all _ _ (by decide +kernel), ?_⟩, ?_⟩
  · unfold NoneCounted; decide +kernel
  · unfold InScratch; decide +kernel

/-- One lane whose v4:5 names bytes behind window 0, whose entry gives rkey 99 and which node 3 owns; with a write of its cluster to them
on its way; and with copies of them in the core's L1. -/
def far : State :=
  put 0xD000 8 (2 ^ 63 + 99) (onCtx (fun x => { x with fabric := BitVec.ofNat 512 (1 + 0xD000 * 2 ^ 384) })
    (regs [(4, 64), (5, 0x40000000 + 3 * 2 ^ 22)] stand))
def farOut (kind : OutKind) (len : Nat) (data : List Byte) : FabOut :=
  ⟨1, 1, 0, 0, 3, 99, 64, len, kind, 0, 0, 0, data, len, data, [], none⟩
def farWritten : State := onMach (fun m => { m with fabOut := [farOut .store 4 [1, 2, 3, 4]], nextId := 2 }) far
def farHeld : State :=
  onMach (fun m => { m with l1 := (List.range 16).map fun k => ⟨0, fabLoc 3 99 (64 + k), BitVec.ofNat 8 k, false, .f, .zero⟩ }) far
def farAcc (s : State) (e : Enc) (named : Bool) : Acc := checkOf s e false named (fibreAt s)

def farForms (named : Bool) : List Instr :=
  if named then [.ldnW (wi 4 0 3 10 (ty 4 + bit 56)), .ldnL (lf 0 4 3 10 (ty 4 + bit 56))]
  else [.ldW (wi 4 0 3 8 (ty 2 + bit 56)), .ldL (lf 0 4 3 8 (ty 2 + bit 56))]

/-- LoadsDeliverWhatTheLaneSees and NamesAndPointers across the fabric: the owner is asked, the lane waits, and the L1 serves it. -/
theorem witness_farLoads :
    (∀ b ∈ [false, true], ∀ s ∈ [far, farWritten, farHeld], ∀ i ∈ farForms b, Ready s i)
      ∧ ∀ b ∈ [false, true], ∀ i ∈ farForms b, ∀ s ∈ [far, farWritten, farHeld],
          let e := encOf i
          RecordNamed (envAt s) e.amode e.vc ∧ NoneCounted (envAt s) ∧ (envAt s).act e = [fibreAt s]
            ∧ s.m.memLane (envAt s) e.amode e.va (memDisp e) e.vc (memWant e (if b then .b128 else tyOf e) false b) (fibreAt s) = .ok (farAcc s e b)
            ∧ (farAcc s e b).fab = some (3, 99, 64)
            ∧ s.m.fabServed (envAt s) e.scope (fibreAt s) (farAcc s e b) = decide (s = farHeld)
            ∧ s.m.fabAwaits (envAt s) e.scope (fibreAt s) (farAcc s e b) = decide (s = farWritten)
            ∧ (∀ o ∈ s.m.fabOut, o.id < s.m.nextId) ∧ e.scope ≤ 1 ∧ (fibreAt s).stores = [] ∧ (∀ q ∈ s.m.l1, q.cls = .f)
            ∧ (s = farHeld → (held s.m.l1 (envAt s).c.core (envAt s).key (runLocs (farAcc s e b).runs)).isSome = true) := by
  refine ⟨fun b hb s hs => ready_all s _ ?_, ?_⟩
  · revert b s; decide +kernel
  · unfold RecordNamed NoneCounted; decide +kernel

/-- AccessChecksTrap, the scratchpad: misaligned by one; aligned and just past the end, or below 0. -/
theorem witness_scratchTraps :
    (∀ i ∈ [Instr.ldsW (wi 12 1 0 8 (ty 2)), .ldsL (lf 1 12 0 8 (ty 2)), .stsW (wi 12 1 0 8 (ty 2)), .stsL (lf 1 12 0 8 (ty 2)),
          .ldsW (wi 12 4 0 8 (ty 2)), .ldsL (lf 0x80000000 12 0 8 (ty 2)), .stsW (wi 12 4 0 8 (ty 2)), .stsL (lf 0x80000000 12 0 8 (ty 2))],
        Ready memory i)
      ∧ (∀ i ∈ [Instr.ldsW (wi 12 1 0 8 (ty 2)), .ldsL (lf 1 12 0 8 (ty 2)), .stsW (wi 12 1 0 8 (ty 2)), .stsL (lf 1 12 0 8 (ty 2))],
        ((envAt memory).act (encOf i)).filter (fun f => decide (scratchAddr (encOf i) f % (bytesOf (encOf i) : Int) ≠ 0)) ≠ [])
      ∧ ∀ i ∈ [Instr.ldsW (wi 12 4 0 8 (ty 2)), .ldsL (lf 0x80000000 12 0 8 (ty 2)), .stsW (wi 12 4 0 8 (ty 2)), .stsL (lf 0x80000000 12 0 8 (ty 2))],
        ((envAt memory).act (encOf i)).filter (fun f => decide (scratchAddr (encOf i) f % (bytesOf (encOf i) : Int) ≠ 0)) = []
          ∧ ((envAt memory).act (encOf i)).filter (fun f => decide (scratchAddr (encOf i) f < 0
              ∨ ((envAt memory).c.scrSize : Int) < scratchAddr (encOf i) f + bytesOf (encOf i))) ≠ [] :=
  ⟨ready_all _ _ (by decide +kernel), by decide +kernel⟩

/-- Whether a lane's check ends in this trap, and no lane's in an earlier one. -/
def trapsAs (lane : State → Env → Enc → Fibre → LaneRes) (rank code : Nat) (s : State) (i : Instr) : Prop :=
  ready s i = true ∧ fibreAt s ∈ (envAt s).act (encOf i)
    ∧ (match lane s (envAt s) (encOf i) (fibreAt s) with | .trap r c _ => decide (r = rank ∧ c = code) | _ => false) = true
    ∧ ∀ q ∈ (envAt s).act (encOf i),
        (match lane s (envAt s) (encOf i) q with | .trap r c _ => decide (rank < r ∨ (r = rank ∧ c = code)) | _ => true) = true

/-- v4:5 one byte past 0x8000, and an address above the 57 bits. -/
def oddAt : State := regs [(4, 0x8001)] stand
def highAt : State := regs [(5, 0x2000000)] stand

/-- AccessChecksTrap through memory: ALIGNMENT and ADDRESS_FORM of LD, ST, ATOM and ATOMR. -/
theorem witness_accessTraps :
    (∀ i ∈ [Instr.ldW (wi 4 0 3 8 (ty 3 + bit 56 + bit 54 + bit 51)), .ldL (lf 0 4 3 8 (ty 3 + bit 56 + bit 54 + bit 51))],
        trapsAs (accessLane false) 30 5 oddAt i ∧ trapsAs (accessLane false) 20 4 highAt i ∧ RecordNamed (envAt oddAt) (encOf i).amode (encOf i).vc)
      ∧ (∀ i ∈ [Instr.stW (wi 4 0 3 8 (ty 3 + bit 56 + 2 * bit 54 + bit 51)), .stL (lf 0 4 3 8 (ty 3 + bit 56 + 2 * bit 54 + bit 51))],
        trapsAs (accessLane true) 30 5 oddAt i ∧ trapsAs (accessLane true) 20 4 highAt i ∧ RecordNamed (envAt oddAt) (encOf i).amode (encOf i).vc)
      ∧ (∀ i ∈ [Instr.atomW (wf 4 6 67 8 (ty 11 + 1)), .atomL (lf 7 4 67 8 (ty 11 + 1))],
        trapsAs (atomicLane true) 30 5 oddAt i ∧ trapsAs (atomicLane true) 20 4 highAt i)
      ∧ ∀ i ∈ [Instr.atomrW (wf 4 6 67 0 (ty 11 + 1)), .atomrL (lf 7 4 67 0 (ty 11 + 1))],
        trapsAs (atomicLane false) 30 5 oddAt i ∧ trapsAs (atomicLane false) 20 4 highAt i := by
  unfold trapsAs RecordNamed; decide +kernel

/-- A buffer record in the pool of the launch, and its lane's index. -/
def pooled (r : Nat) : State :=
  put 0x9000 32 r (onMach (fun m => { m with launches := [{ Launch.blank with id := 1, record := BitVec.ofNat 512 (0x9000 / 32 * 2 ^ 145) }] }) stand)
def goodRecord (ro : Nat) : Nat := 1 + 8 * ro + 64 * 2 ^ 64 + 0x8000 * 2 ^ 128
/-- A resident object of 64 bytes in slot 5, read-only or not. -/
def slot5 (ro : Bool) : Slot := { Slot.unbound 5 with state := 4, size := 64, base := 0x8000, ro := ro }
/-- The chip window at 0x4000_0000, of which nothing is owned past the scratchpad. -/
def windowed : State := onCtx (fun x => { x with ranges := ⟨0x40000000, 0x80000000, 0, 6, false, 7, 0, 0⟩ :: x.ranges }) stand

/-- AccessChecksTrap, each check: a bad form, misalignment, a node past the last, no window, poison, an unbound slot; an object's
alignment, bounds and permission; a record's form, bounds and permission; the window, a failed walk after ERROR, a retired stack. -/
theorem witness_checks :
    ((2 ^ 57 / 2 ^ 62 % 4 = 0 ∧ 2 ^ 57 / 2 ^ 57 % 32 ≠ 0) ∧ (0x8001 / 2 ^ 62 % 4 = 0 ∧ 0x8001 / 2 ^ 57 % 32 = 0 ∧ 0x8001 % 8 ≠ 0)
        ∧ ((2 ^ 62 + 192 * 2 ^ 54) / 2 ^ 62 % 4 = 1 ∧ 192 ≤ (2 ^ 62 + 192 * 2 ^ 54) / 2 ^ 54 % 256)
        ∧ (2 ^ 62 / 2 ^ 62 % 4 = 1 ∧ 2 ^ 62 / 2 ^ 54 % 256 < 192 ∧ stand.m.rkeyOf stand.dev placeCtx 0 (2 ^ 62 / 2 ^ 40 % 2 ^ 14) = .bad)
        ∧ 3 * 2 ^ 62 / 2 ^ 62 % 4 = 3 ∧ (2 ^ 63 / 2 ^ 62 % 4 = 2 ∧ placeCtx.slot (2 ^ 63 / 2 ^ 40 % 2 ^ 22) = none))
      ∧ (∀ ro ∈ [false, true], let x := { placeCtx with ort := 10 * 2 ^ 27, slots := [slot5 ro] }
          ∀ a ∈ [2 ^ 63 + 5 * 2 ^ 40 + 1, 2 ^ 63 + 5 * 2 ^ 40 + 64, 2 ^ 63 + 5 * 2 ^ 40],
            a / 2 ^ 62 % 4 = 2 ∧ a / 2 ^ 40 % 2 ^ 22 < 2 ^ x.slotLog ∧ x.slot (a / 2 ^ 40 % 2 ^ 22) = some (slot5 ro) ∧ (slot5 ro).state ≠ 1)
      ∧ (∀ r ∈ [2 ^ 63, goodRecord 0, goodRecord 1],
          (match (pooled r).m.record { envAt (pooled r) with x := (envAt (pooled r)).xOf (fibreAt (pooled r)) } (fibreAt (pooled r)).carry.errorPage 0 with
            | .inl v => decide (v = r) | _ => false) = true)
      ∧ recordOk (2 ^ 63) = false ∧ recordOk (goodRecord 0) = true ∧ recordOk (goodRecord 1) = true ∧ (goodRecord 1).testBit 3 = true
      ∧ windowed.m.rangeRuns windowed.dev (envAt windowed).x 0 0x40040000 4 1 false = .window
      ∧ stand.m.rangeRuns stand.dev placeCtx 0 0x100 4 1 false = .fault 0x100 1 7
      ∧ (match stand.m.rangeRuns stand.dev placeCtx 0 0x8000 4 1 false with
          | .ok l => (runLocs l).any (onDev (fun d => { d with retiredStacks := [0] }) stand).dev.unreadable | _ => false) = true := by
  decide +kernel

/-- A plain store of two bytes from a place on, and a first fibre that waits with a store. -/
def twoBytes (sp : Space) (at_ : Nat) : StoreEntry :=
  ⟨.bytes [(⟨sp, at_⟩, 1), (⟨sp, at_ + 1⟩, 2)], .g, ⟨0, 0⟩, 1, none, none, 0, [], false, []⟩
def waitingStore (e : StoreEntry) (s : State) : State := asking (.storeDrain 1 0) (onFibre (fun f => { f with stores := [e] }) s)
def crewIn (s : State) : Crew := s.m.crews.headD (placeCrew 1)
def laneIn (s : State) : Fibre := (crewIn s).fibres.headD placeFibre
def cellsOf (e : StoreEntry) : List (Loc × Byte) := match e.kind with | .bytes l => l | _ => []

/-- Tile 0 of the core, bound, and a post on it. -/
def tiled : State := onMach (fun m => { m with tiles := [⟨0, 0, 1, 0, false, false, false, true, 0, 0⟩] }) stand
def postOnTile : Post :=
  { id := 3, crew := 1, gang := 0, lanes := [0], slot := 0, stream := 0, core := 0, acc := some 0, sslot := none, pair := false, prio := 0
    entered := 0, aged := false, started := false, stopped := false, worked := false, failed := false, step := 0, gauge := none
    op := .azero false false }
def busyTile : State := onMach (fun m => { m with posts := [postOnTile] }) tiled
def slotted : State := onCtx (fun x => { x with ort := 10 * 2 ^ 27, slots := [{ slot5 false with cls := 1 }] }) stand

def inObject : StoreEntry := { twoBytes .hbm 0x8000 with object := some (5, 0) }
def toMoved : StoreEntry := { twoBytes .host 0x8000 with cls := .h, hostAt := [(8, 3)] }
def releasing : StoreEntry := { twoBytes .hbm 64 with scope := 3, release := some 48 }
def acrossFabric : StoreEntry := { twoBytes .hbm 0 with kind := .fabric 3 99 64 [1, 2, 3, 4], cls := .f }

/-- The states of DrainingAndResultWrites with the store that leaves in each. -/
def drains : List (State × StoreEntry) :=
  [(stand, twoBytes .hbm 64), (stand, twoBytes .scr 64), (tiled, twoBytes .acc 0), (stand, twoBytes .reg 1020), (slotted, inObject),
   (stand, twoBytes .scr 4095), (stand, toMoved), (busyTile, twoBytes .acc 0), (farWritten, releasing), (stand, releasing),
   (farWritten, acrossFabric), (stand, acrossFabric)]

theorem witness_queueHeads :
    ∀ q ∈ drains, let s := waitingStore q.2 q.1
      QueueHead s (crewIn s) (laneIn s) q.2 ∧ ((cellsOf q.2).map (·.1)).Nodup ∧ s.m.memoriesWf = true ∧ (∀ x ∈ s.m.crews, x.preempted = false) := by
  unfold QueueHead; decide +kernel

/-- Plain stores that are performed: through the L1, to the scratchpad, a tile, the last register, and an object. -/
theorem witness_plainStores :
    (∀ q ∈ [(stand, twoBytes .hbm 64), (stand, twoBytes .scr 64), (tiled, twoBytes .acc 0), (stand, twoBytes .reg 1020), (slotted, inObject)],
        let s := waitingStore q.2 q.1
        PlainBytes s (crewIn s) q.2 (cellsOf q.2))
      ∧ (∀ e ∈ [twoBytes .hbm 64, inObject], ∀ q ∈ cellsOf e, q.1.cached = true ∧ OneKey (waitingStore e stand).m e.key q.1)
      ∧ (∀ q ∈ cellsOf (twoBytes .scr 64), q.1.space = .scr ∧ ¬ stand.m.gauges.contains (q.1.addr / 16 * 16))
      ∧ (∀ q ∈ cellsOf (twoBytes .acc 0), q.1.space = .acc ∧ tiled.m.tileBusy (q.1.addr / 2 ^ 16) (q.1.addr % 2 ^ 16 / 0x4000) = false)
      ∧ ∃ q, (slotted.m.ctx (crewIn slotted).ctx).slot 5 = some q ∧ q.cls ≠ 0 ∧ q.n = 5 := by
  refine ⟨?_, ?_, ?_, ?_, ⟨_, rfl, by decide, by decide⟩⟩ <;> (try unfold PlainBytes) <;> (try unfold OneKey) <;> decide +kernel

theorem witness_registerStore : ∀ q ∈ cellsOf (twoBytes .reg 1020), q.1.space = .reg ∧ RegisterThere stand.m q.1.addr := by
  intro q hq
  have h : q.1.space = .reg ∧ q.1.addr / 2 ^ 21 = 0 ∧ q.1.addr % 2 ^ 21 / 1024 = 0 ∧ q.1.addr % 1024 / 4 = 255 := by
    revert q; decide +kernel
  refine ⟨h.1, crewIn stand, ?_, ⟨placeFibre, by decide +kernel, by rw [h.2.2.1]; decide +kernel, rfl⟩, ?_⟩
  · rw [h.2.1, h.2.2.1]; decide +kernel
  · rw [h.2.2.2]; decide +kernel

/-- Stores that are dropped, that wait, that release and that cross the fabric. -/
theorem witness_otherStores :
    ((twoBytes .scr 4095).release = none ∧ ∃ q ∈ cellsOf (twoBytes .scr 4095), stand.m.owns (crewIn stand).ctx q.1 = false)
      ∧ (∀ q ∈ [(stand, toMoved), (busyTile, twoBytes .acc 0)], ∀ r ∈ cellsOf q.2, q.1.m.owns (crewIn q.1).ctx r.1 = true)
      ∧ (∃ p ∈ toMoved.hostAt, stand.m.hostFrame (stand.m.ctx (crewIn stand).ctx).fn p.2 true ≠ some p.1)
      ∧ (∃ q ∈ cellsOf (twoBytes .acc 0), q.1.space = .acc ∧ busyTile.m.tileBusy (q.1.addr / 2 ^ 16) (q.1.addr % 2 ^ 16 / 0x4000) = true)
      ∧ (∀ b ∈ [false, true], let s := waitingStore releasing (if b then stand else farWritten)
          (s.m.release s.dev (crewIn s).ctx (crewIn s).core releasing.scope (48 ||| 2 ^ releasing.cls.bit) ((crewIn s).id, 0)).2 = b)
      ∧ (3 ≤ releasing.scope ∧ cellsOf releasing ≠ [] ∧ ∀ q ∈ cellsOf releasing, q.1.space = .hbm)
      ∧ farWritten.m.fabOverlap ((crewIn farWritten).core / 4) 3 99 64 4 = true ∧ stand.m.fabOverlap ((crewIn stand).core / 4) 3 99 64 4 = false
      ∧ ∀ k < 4, OneKey stand.m acrossFabric.key (fabLoc 3 99 (64 + k)) := by
  unfold OneKey; decide +kernel

/-- The first fibre with a pending result of register 255, then one of predicate 14. -/
def pending : State :=
  onFibre (fun f => { f with pend := [⟨.reg 255, 7, false, 1⟩, ⟨.pred 14, 1, false, 2⟩] }) stand

/-- DrainingAndResultWrites, results. -/
theorem witness_results :
    pending.m.crew 1 = some (crewIn pending) ∧ (crewIn pending).fibre 0 = some (fibreAt pending)
      ∧ (fibreAt pending).pend[0]? = some ⟨.reg 255, 7, false, 1⟩ ∧ (fibreAt pending).pend[1]? = some ⟨.pred 14, 1, false, 2⟩ := by
  decide +kernel

/-- A resident object of 4096 bytes in slot 5. -/
def object5 : Slot :=
  { Slot.unbound 5 with state := 4, ident := 0x8000000000000123, size := 4096, base := 0x10000, home := 0x20000 }

/-- Names at 0x8000 and at 0x8010 for lanes 0 and 1, v8:9 a short pointer just past the object's end, v6:7 one to its start. -/
def named : State :=
  regs [(8, 4096), (9, 0x80000500), (6, 0), (7, 0x80000500)]
    (onFibre (fun f => { f with regs := f.regs.set 4 (BitVec.ofNat 32 (0x8000 + 16 * f.slot)) })
      (put 0x8000 16 (16 + 2 ^ 64 * 0x8000000000000123) (put 0x8010 16 (2 ^ 40 - 1 + 2 ^ 64 * 0x8000000000000123)
        (onCtx (fun x => { x with ort := 10 * 2 ^ 27, slots := [object5] }) (twoLanes stand)))))

/-- The same with raw addresses where the names were. -/
def rawNamed : State := put 0x8000 16 0x123456789ABC (put 0x8010 16 (2 ^ 64 - 1) named)

def ldnForms : List Instr := [.ldnW (wi 4 0 3 10 (ty 4 + bit 56)), .ldnL (lf 0 4 3 10 (ty 4 + bit 56 + bit 51))]
def stnForms : List Instr := [.stnW (wi 4 0 3 8 (ty 4 + bit 56)), .stnL (lf 0x1000 4 3 8 (ty 4 + bit 56 + 2 * bit 54 + bit 51))]
def prefForms : List Instr := [.prefW (wi 4 127 0 0 (bit 56)), .prefL (lf 0x7FFFFFFF 4 0 0 (bit 56))]

/-- NamesAndPrefetch. -/
theorem witness_names :
    ((∀ i ∈ ldnForms ++ stnForms ++ prefForms, Ready named i) ∧ ∀ i ∈ ldnForms, Ready rawNamed i)
      ∧ (NoneCounted (envAt named) ∧ NoneCounted (envAt rawNamed))
      ∧ (∀ i ∈ ldnForms, NameChecked rawNamed (envAt rawNamed) (encOf i) false (checkOf rawNamed (encOf i) false true)
        ∧ AllHere (envAt rawNamed) (encOf i) (checkOf rawNamed (encOf i) false true) ∧ ∀ f ∈ (envAt rawNamed).act (encOf i),
          (nameSeen rawNamed (envAt rawNamed) (encOf i) (checkOf rawNamed (encOf i) false true) f).testBit 127 = false)
      ∧ (∀ i ∈ ldnForms, NameChecked named (envAt named) (encOf i) false (checkOf named (encOf i) false true)
        ∧ AllHere (envAt named) (encOf i) (checkOf named (encOf i) false true) ∧ ((envAt named).x.slots.map (·.n)).Nodup ∧ ∀ f ∈ (envAt named).act (encOf i),
          boundTo (envAt named).x (nameSeen named (envAt named) (encOf i) (checkOf named (encOf i) false true) f) object5)
      ∧ (∀ i ∈ stnForms, NameChecked named (envAt named) (encOf i) true (checkOf named (encOf i) true true)
        ∧ ∀ f ∈ (envAt named).act (encOf i), (pair f (encOf i).vd).toNat / 2 ^ 62 ≠ 3)
      ∧ ∀ i ∈ prefForms, RecordNamed (envAt named) (encOf i).amode (encOf i).vc
          ∧ ∀ f ∈ (envAt named).act (encOf i), prefLane named.m (envAt named) (encOf i) f = .ok (accOf (prefLane named.m (envAt named) (encOf i) f)) := by
  refine ⟨⟨ready_all _ _ (by decide +kernel), ready_all _ _ (by decide +kernel)⟩, ?_⟩
  unfold NoneCounted NameChecked RecordNamed AllHere boundTo
  decide +kernel

theorem named_slot (v : Nat) (h : v / 2 ^ 40 % 2 ^ 22 = 5) : Bound (envAt named).x v ∧ SizeKnown (envAt named).x v := by
  have hs : (envAt named).x.slot 5 = some object5 := by decide +kernel
  have hl : v / 2 ^ 40 % 2 ^ 22 < 2 ^ (envAt named).x.slotLog := by rw [h]; decide +kernel
  exact ⟨fun _ => ⟨hl, object5, h ▸ hs⟩, fun _ => ⟨hl, object5, h ▸ hs, by decide⟩⟩

def pointerForms : List Instr :=
  [.peq (wf 8 6 0 14 0), .paddW (wf 8 6 0 10 0), .paddW (wi 8 255 0 10 0), .paddL (lf 0xFFFFF000 8 0 10 0), .pdiff (wf 8 6 14 10 0),
   .pname (wf 8 0 0 12 0), .psize (wf 8 0 0 10 0), .pres (wf 8 0 0 14 0), .pres (wf 6 0 0 14 1)]

/-- PointerInstructions, and STN's pair: pointers to a slot that is bound and whose size is known. -/
theorem witness_pointers :
    (∀ i ∈ pointerForms, Ready named i) ∧ NoneCounted (envAt named)
      ∧ (∀ i ∈ pointerForms, ∀ f ∈ (envAt named).act (encOf i), ptr (encOf i) f / 2 ^ 62 % 4 ≠ 3)
      ∧ (∀ i ∈ pointerForms, ∀ f ∈ (envAt named).act (encOf i),
          Bound (envAt named).x (ptr (encOf i) f) ∧ SizeKnown (envAt named).x (ptr (encOf i) f))
      ∧ ∀ i ∈ stnForms, ∀ f ∈ (envAt named).act (encOf i), Bound (envAt named).x (pair f (encOf i).vd).toNat := by
  have h : ∀ i ∈ pointerForms, ∀ f ∈ (envAt named).act (encOf i), ptr (encOf i) f / 2 ^ 40 % 2 ^ 22 = 5 := by decide +kernel
  have h' : ∀ i ∈ stnForms, ∀ f ∈ (envAt named).act (encOf i), (pair f (encOf i).vd).toNat / 2 ^ 40 % 2 ^ 22 = 5 := by decide +kernel
  refine ⟨ready_all _ _ (by decide +kernel), ?_, by decide +kernel, fun i hi f hf => named_slot _ (h i hi f hf),
    fun i hi f hf => (named_slot _ (h' i hi f hf)).1⟩
  unfold NoneCounted; decide +kernel

theorem all_of_none {α : Type} {o : Option α} (h : o = none) (P : α → Prop) : ∀ x, o = some x → P x := by
  intro x hx; rw [h] at hx; cases hx
theorem all_of_some {α : Type} {o : Option α} {a : α} (h : o = some a) {P : α → Prop} (hp : P a) : ∀ x, o = some x → P x := by
  intro x hx; rw [h] at hx; cases hx; exact hp

/-- v4:5 at a word of memory that holds 7, v12 at the last word of the scratchpad. -/
def atomics : State := regs [(4, 0x8000), (12, 4092), (6, 3)] (put 0x8000 4 7 stand)

/-- Through a pair, at scope crew with an acquire, and at dev; and in the scratchpad. -/
def memoryAtoms : List (Instr × Bool) :=
  [(.atomW (wf 4 6 (64 + 3) 8 (ty 11 + bit 52 + 1)), true), (.atomL (lf 5 4 (64 + 3) 8 (ty 11 + 7 * bit 54 + 3)), true),
   (.atomrW (wf 4 6 (64 + 3) 0 (ty 11 + 2 * bit 52 + 1)), false), (.atomrL (lf 0x3F800000 4 (64 + 3) 0 (ty 15 + 10 * bit 54 + 3)), false)]
def scratchAtoms : List (Instr × Bool) :=
  [(.atomW (wf 12 6 (128 + 3) 8 (ty 11 + 8 * bit 54 + 1)), true), (.atomL (lf 5 12 (128 + 3) 8 (ty 11 + 1)), true),
   (.atomrW (wf 12 6 (128 + 3) 0 (ty 11 + 9 * bit 54 + 1)), false), (.atomrL (lf 5 12 (128 + 3) 0 (ty 7 + 2 * bit 54 + 1)), false)]

def atomOf (q : Instr × Bool) : Acc := accOf (atomicLane q.2 atomics (envAt atomics) (encOf q.1) (fibreAt atomics))

/-- Atomics: one lane, its word in memory and at the end of the scratchpad. -/
theorem witness_atomics :
    (∀ i ∈ (memoryAtoms ++ scratchAtoms).map (·.1), Ready atomics i) ∧ QueuesEmpty (envAt atomics) ∧ NoneCounted (envAt atomics)
      ∧ atomics.m.memoriesWf = true
      ∧ (∀ q ∈ memoryAtoms ++ scratchAtoms, (envAt atomics).act (encOf q.1) = [fibreAt atomics]
          ∧ atomicLane q.2 atomics (envAt atomics) (encOf q.1) (fibreAt atomics) = .ok (atomOf q) ∧ (atomOf q).fab = none
          ∧ ((encOf q.1).m 53 52 < 2 ∨ (encOf q.1).m 51 49 = 1) ∧ (runLocs (atomOf q).runs).Nodup ∧ (atomOf q).object = none)
      ∧ (∀ q ∈ scratchAtoms, (∀ l ∈ runLocs (atomOf q).runs, l.space = .scr ∧ ¬ atomics.m.gauges.contains (l.addr / 16 * 16))
          ∧ (encOf q.1).m 51 49 = 1)
      ∧ (∀ q ∈ memoryAtoms, (∀ l ∈ runLocs (atomOf q).runs, l.cached = true ∧ OneKey atomics.m (envAt atomics).key l) ∧ (atomOf q).cls ≠ .h)
      ∧ ((encOf (.atomW (wf 4 6 (64 + 3) 8 (ty 11 + bit 52 + 1)))).m 51 49 = 1
        ∧ (encOf (.atomrW (wf 4 6 (64 + 3) 0 (ty 11 + 2 * bit 52 + 1)))).m 51 49 = 1) := by
  refine ⟨ready_all _ _ (by decide +kernel), ?_⟩
  unfold QueuesEmpty NoneCounted OneKey
  decide +kernel

def farAtoms : List (Instr × Bool) :=
  [(.atomW (wf 4 6 67 8 (ty 11 + bit 52 + 3)), true), (.atomL (lf 5 4 67 8 (ty 11 + 3)), true),
   (.atomrW (wf 4 6 67 0 (ty 11 + 3)), false), (.atomrL (lf 5 4 67 0 (ty 11 + 3)), false)]

/-- Atomics across the fabric: with nothing out, and with a write to the word on its way. -/
theorem witness_farAtomics :
    (∀ s ∈ [far, farWritten], ∀ i ∈ farAtoms.map (·.1), Ready s i) ∧ ∀ s ∈ [far, farWritten], ∀ q ∈ farAtoms,
        let acc := accOf (atomicLane q.2 s (envAt s) (encOf q.1) (fibreAt s))
        QueuesEmpty (envAt s) ∧ NoneCounted (envAt s) ∧ (envAt s).act (encOf q.1) = [fibreAt s]
          ∧ atomicLane q.2 s (envAt s) (encOf q.1) (fibreAt s) = .ok acc ∧ acc.fab = some (3, 99, 64) ∧ (encOf q.1).m 53 52 < 2
          ∧ s.m.fabOverlap (envAt s).cluster 3 99 64 (bytesOf (encOf q.1)) = decide (s = farWritten) := by
  refine ⟨fun s hs => ready_all s _ ?_, ?_⟩
  · revert s; decide +kernel
  · unfold QueuesEmpty NoneCounted; decide +kernel

/-- LanesOnOneWordActInOrder: the largest operation, a maximum of FP64 numbers, with two lanes. -/
theorem witness_lanesInOrder :
    (11 ≠ 10 ∧ 11 < 12 ∧ (11 = 11 → ETy.f64 = .f32 ∨ ETy.f64 = .f64)) ∧ 2 ^ 64 - 1 < 2 ^ ETy.f64.bits
      ∧ ∀ q ∈ [((0, 0) : Nat × Nat), (2 ^ 64 - 1, 0)], q.1 < 2 ^ ETy.f64.bits := by decide +kernel

/-- A dirty copy and a clean one, of two lines, in the L1 of core 0. -/
def cached : Mach := { stand.m with l1 := [⟨0, ⟨.hbm, 0⟩, 1, true, .g, ⟨0, 0⟩⟩, ⟨0, ⟨.hbm, 128⟩, 2, false, .g, ⟨0, 0⟩⟩] }

def fenceForms : List Instr :=
  [.fence (wf 0 0 63 0 (bit 54 + bit 51)), .fence (wf 0 0 1 0 (2 * bit 54 + 5 * bit 51)), .xfence (wf 0 0 63 0 (bit 60 + 5 * bit 51)),
   .xfence (wf 0 0 63 0 (5 * bit 57 + 5 * bit 51))]

theorem nothingOwed_of {s : State} {E : Env} {e : Enc} {r : Bool} (h : s.m.fabOut = []) (hf : ∀ f ∈ E.act e, f.fabErrs = 0)
    (hs : ∀ x ∈ s.m.ctxs, ∀ q ∈ x.slots, q.written = [] ∨ q.cls = 0) : NothingOwed s E e r :=
  ⟨fun _ _ => h, fun _ => ⟨h, hf, fun x hx _ => hs x hx⟩⟩

/-- FencesOrder. -/
theorem witness_fences :
    (∀ i ∈ fenceForms ++ [.pfenceC (cf 0 0), .pfenceW (wf 0 0 0 0 0)], Ready stand i)
      ∧ (∀ i ∈ fenceForms ++ [.pfenceC (cf 0 0), .pfenceW (wf 0 0 0 0 0)], (envAt stand).act (encOf i) ≠ []
          ∧ NothingOwed stand (envAt stand) (encOf i) true ∧ NothingOwed stand (envAt stand) (encOf i) false) ∧ QueuesEmpty (envAt stand)
      ∧ ((encOf (.xfence (wf 0 0 63 0 (bit 60 + 5 * bit 51)))).m 62 60 ≠ 0
          ∧ stand.m.pathBusy (envAt stand).c 1 [0] = false)
      ∧ (encOf (.xfence (wf 0 0 63 0 (5 * bit 57 + 5 * bit 51)))).m 62 60 = 0
      ∧ (stand.m.persist = [] ∧ stand.m.l1 = [] ∧ stand.m.l2 = []) ∧ AllDurable stand.m
      ∧ (∃ q ∈ (cached.writeBack 0 2).l1, q.unit = 0) ∧ ∃ q ∈ (cached.discard 0 2 63).l1, q.unit = 0 ∧ storHas 63 q.cls = true := by
  refine ⟨ready_all _ _ (by decide +kernel), ?_, ?_, by decide +kernel, by decide +kernel, by decide +kernel, fun _ => rfl, by decide +kernel⟩
  · intro i hi
    have h : ∀ j ∈ fenceForms ++ [.pfenceC (cf 0 0), .pfenceW (wf 0 0 0 0 0)], (envAt stand).act (encOf j) ≠ []
        ∧ ∀ f ∈ (envAt stand).act (encOf j), f.fabErrs = 0 := by decide +kernel
    have hs : ∀ x ∈ stand.m.ctxs, ∀ q ∈ x.slots, q.written = [] ∨ q.cls = 0 := by decide +kernel
    exact ⟨(h i hi).1, nothingOwed_of (by decide +kernel) (h i hi).2 hs, nothingOwed_of (by decide +kernel) (h i hi).2 hs⟩
  · unfold QueuesEmpty; decide +kernel

/-- v4 at the last gauge place of the scratchpad; and with a gauge there that expects 3. -/
def atGauge : State := regs [(4, 4080)] stand
def gauged : State := after (.ginitW (wi 4 3 0 0 0)) atGauge

def gaugeForms : List Instr :=
  [.ginitW (wi 4 3 0 0 1), .ginitL (lf 0xFFFFFFFF 4 0 0 0), .garriveW (wi 4 3 0 0 0), .garriveL (lf 1 4 0 0 0), .gexpectW (wi 4 255 0 0 0),
   .gexpectL (lf 1 4 0 0 0), .gwait (wi 4 0 0 0 0), .gwait (wi 4 1 0 0 0), .gread (wf 4 0 0 8 0), .gread (wf 4 0 0 8 3), .gfree (wf 4 0 0 0 0)]

theorem oneGauge_of (s : State) (l : List Instr) (h : (l.all fun i => ready s i) = true)
    (h' : (l.all fun i => decide ((envAt s).act (encOf i) = [fibreAt s])) = true) (hq : QueuesEmpty (envAt s)) (hn : NoneCounted (envAt s))
    (hs : ∀ i ∈ l, InScratch (envAt s) (((fibreAt s).regs.getD (encOf i).va 0).toNat : Int) 16) (hw : s.m.memoriesWf = true) :
    ∀ i ∈ l, i.enc = some (encOf i) ∧ OneGauge s (envAt s) (encOf i) (fibreAt s) := fun i hi =>
  let r := ready_all s l h i hi
  ⟨r.1, r.2.1, r.2.2, of_decide_eq_true (List.all_eq_true.mp h' i hi), hq, hn, hs i hi, hw⟩

/-- GaugesCountEvents: with no gauge there, and with one that has not reached generation 1. -/
theorem witness_gauges :
    (∀ i ∈ gaugeForms, i.enc = some (encOf i) ∧ OneGauge atGauge (envAt atGauge) (encOf i) (fibreAt atGauge))
      ∧ (∀ i ∈ gaugeForms, i.enc = some (encOf i) ∧ OneGauge gauged (envAt gauged) (encOf i) (fibreAt gauged))
      ∧ ((gauged.m.gauge (gaugePlace (envAt gauged) (fibreAt gauged) 4)).valid = true
        ∧ (∀ q ∈ gauged.m.l1 ++ gauged.m.l2, q.dirty = false) ∧ (envAt gauged).g.mask ≠ 0)
      ∧ 0 ≤ (BitVec.ofNat 32 (gauged.m.gauge (gaugePlace (envAt gauged) (fibreAt gauged) 4)).gen
          - BitVec.ofNat 32 (b32At (encOf (.gwait (wi 4 0 0 0 0))) (fibreAt gauged))).toInt
      ∧ (BitVec.ofNat 32 (gauged.m.gauge (gaugePlace (envAt gauged) (fibreAt gauged) 4)).gen
          - BitVec.ofNat 32 (b32At (encOf (.gwait (wi 4 1 0 0 0))) (fibreAt gauged))).toInt < 0
      ∧ (∀ ws ended bad, (envAt gauged).g.wake = .gauge ws ended bad → ended = false ∧ bad = []) := by
  refine ⟨oneGauge_of _ _ (by decide +kernel) (by decide +kernel) ?_ ?_ ?_ (by decide +kernel),
    oneGauge_of _ _ (by decide +kernel) (by decide +kernel) ?_ ?_ ?_ (by decide +kernel), by decide +kernel, by decide +kernel, by decide +kernel,
    fun ws ended bad h => by
      have h0 : (envAt gauged).g.wake = .none := by decide +kernel
      rw [h0] at h; cases h⟩
  all_goals first
    | unfold QueuesEmpty; decide +kernel
    | unfold NoneCounted; decide +kernel
    | unfold InScratch; decide +kernel

/-- A wait for generation 0 of the gauge, which has ended; and one that has not looked yet. -/
def waited : State := { gauged with m := gauged.m.updCrew 1 fun c => c.updGang 0 fun g => { g with wake := .gauge [(0, 4080, 0)] true [] } }

theorem witness_endedWait : ready waited (.gwait (wi 4 0 0 0 0)) = true ∧ (envAt waited).g.wake = .gauge [(0, 4080, 0)] true []
    ∧ ∀ p ∈ [((0 : Nat), (4080 : Nat), (0 : Nat))], (gauged.m.gauge p.2.1).valid = true ∧ (gauged.m.gauge p.2.1).reached p.2.2 = true := by
  decide +kernel

/-- Two lanes on the gauge, the gang waiting with what it has seen in several ways. -/
def gaugedTwo : State := after (.ginitW (wi 4 3 0 0 0)) (twoLanes atGauge)
def deadWait : State := onGang (fun g => { g with wake := .gauge [(0, 4080, 0)] false [0] }) gauged

/-- GaugesCountEvents with two lanes on one gauge; on a gauge that is not valid; and with a wait whose gauge was lost. -/
theorem witness_gaugeEvents :
    (∀ i ∈ [Instr.ginitW (wi 4 3 0 0 1), .ginitL (lf 7 4 0 0 0), .garriveW (wi 4 3 0 0 0), .garriveL (lf 1 4 0 0 0), .gexpectW (wi 4 255 0 0 0),
          .gexpectL (lf 1 4 0 0 0)],
        ready gaugedTwo i = true ∧ QueuesEmpty (envAt gaugedTwo) ∧ NoneCounted (envAt gaugedTwo) ∧ gaugedTwo.m.memoriesWf = true
          ∧ ((envAt gaugedTwo).act (encOf i)).length = 2
          ∧ ∀ f ∈ (envAt gaugedTwo).act (encOf i), InScratch (envAt gaugedTwo) ((f.regs.getD (encOf i).va 0).toNat : Int) 16
              ∧ (gaugedTwo.m.gauge (gaugePlace (envAt gaugedTwo) f (encOf i).va)).valid = true)
      ∧ (atGauge.m.gauge (gaugePlace (envAt atGauge) (fibreAt atGauge) 4)).valid = false
      ∧ ready deadWait (.gwait (wi 4 0 0 0 0)) = true ∧ (envAt deadWait).g.wake = .gauge [(0, 4080, 0)] false [0] := by
  unfold QueuesEmpty NoneCounted InScratch; decide +kernel

/-- The gauge checks: v4 misaligned by one; aligned and just past the end; at a gauge that is not valid. -/
theorem witness_gaugeTraps :
    ∀ i ∈ gaugeForms, (∀ s ∈ [regs [(4, 1)] stand, regs [(4, 4096)] stand, atGauge], ready s i = true ∧ QueuesEmpty (envAt s) ∧ (envAt s).g.wake = .none)
      ∧ (fibreAt (regs [(4, 1)] stand) ∈ (envAt (regs [(4, 1)] stand)).act (encOf i) ∧ (fibreAt (regs [(4, 1)] stand)).regs.getD (encOf i).va 0 = 1)
      ∧ ((envAt (regs [(4, 4096)] stand)).act (encOf i) = [fibreAt (regs [(4, 4096)] stand)]
        ∧ ((fibreAt (regs [(4, 4096)] stand)).regs.getD (encOf i).va 0).toNat = (envAt (regs [(4, 4096)] stand)).c.scrSize)
      ∧ ∀ base ∈ [atGauge.m, releasedAtDev atGauge (envAt atGauge)],
          (base.gauge (gaugePlace (envAt atGauge) (fibreAt atGauge) (encOf i).va)).valid = false := by
  unfold QueuesEmpty; decide +kernel

def copy0 : CpaCopy :=
  { id := 1, exec := 1, slot := 0, batch := none, dst := 64, size := 4, src := [⟨⟨.hbm, 0x8000⟩, 4, .g, none, 0⟩], object := none, gauge := none
    done := false, err := false }
def channel0 : Channel :=
  { n := 2, by_ := [0], state := 1, record := 0xC000, body := none, moved := 0, sent := 0, err := 0, status := 0, granted := 0, grants := [], msg := 0, gap := none, rkey := 0
    want := none, lost := false, wait := [], errorPage := none, order := 0 }

/-- Copies in the open set and in batches 0 and 5; channel 2 at work and channel 7 in error; v4:5 and v6:7 aligned addresses. -/
def copying : State :=
  onCrew (fun c => { c with
      copies := [copy0, { copy0 with id := 2, batch := some 0 }, { copy0 with id := 3, batch := some 5, done := true }]
      channels := [channel0, { channel0 with n := 7, state := 3 }] })
    (regs [(4, 0x8000), (8, 64), (10, 0), (12, 2 ^ 32 - 1)] stand)

def cpaForms : List Instr := [.cpaW (wf 4 0 0 8 (2 * bit 60 + bit 58)), .cpaL (lf 4080 4 0 8 (7 * bit 60 + bit 58 + bit 57))]
def sealForms : List Instr := [.cpsealC (cf 0 0), .cpsealW (wf 0 0 0 14 1)]

/-- CopiesAndChannels. -/
theorem witness_copies :
    (∀ i ∈ cpaForms ++ sealForms ++ [.cpwaitC (cf 14 0), .cpwaitW (wf 1 0 0 0 0), .cpwaitC (cf 0 0), .cpwaitW (wf 0 0 0 0 0),
        .cpwaitW (wf 0 12 0 0 1), .xfer (wf 4 0 2 14 0), .xfer (wf 4 0 3 14 0), .xfer (wf 4 0 7 14 0), .xstat (wf 0 0 7 14 0)], Ready copying i)
      ∧ NoneCounted (envAt copying)
      ∧ (∀ i ∈ cpaForms, RecordNamed (envAt copying) ((encOf i).m 59 58) (encOf i).vc ∧ ∀ f ∈ (envAt copying).act (encOf i),
          cpaLane copying.m (envAt copying) (encOf i) f = .ok (accOf (cpaLane copying.m (envAt copying) (encOf i) f)))
      ∧ (∀ i ∈ sealForms, (envAt copying).act (encOf i) = [fibreAt copying]) ∧ unfinishedBatches (envAt copying).c (fibreAt copying) < 15
      ∧ ((∀ f ∈ (envAt copying).c.fibres, f.copyErrs = 0)
        ∧ (∀ i ∈ [Instr.cpwaitC (cf 14 0), .cpwaitW (wf 1 0 0 0 0)], (encOf i).mb 49 = false
          ∧ ∀ f ∈ (envAt copying).act (encOf i), unfinishedBatches (envAt copying).c f ≤ (encOf i).va)
        ∧ (∀ i ∈ [Instr.cpwaitC (cf 0 0), .cpwaitW (wf 0 0 0 0 0)], (encOf i).mb 49 = false
          ∧ ∃ f ∈ (envAt copying).act (encOf i), (encOf i).va < unfinishedBatches (envAt copying).c f)
        ∧ (encOf (.cpwaitW (wf 0 12 0 0 1))).mb 49 = true
        ∧ ∀ q ∈ (envAt copying).c.copies, q.done = true ∨ q.batch = none
          ∨ (q.batch = some (q.batch.getD 0) ∧ ((fibreAt copying).regs.getD 12 0 - q.batch.getD 0).toInt < 0))
      ∧ (pair (fibreAt copying) 4).toNat < 2 ^ 57 ∧ (pair (fibreAt copying) 4).toNat % 64 = 0
      ∧ (∀ h, (envAt copying).c.channel 2 = some h → h.state = 1 ∨ h.state = 2)
      ∧ (∀ h, (envAt copying).c.channel 3 = some h → h.state = 0 ∨ h.state = 3) ∧ copying.m.channelsOf (envAt copying).c.core < 8
      ∧ ∀ h, (envAt copying).c.channel 7 = some h → h.state = 0 ∨ h.state = 3 := by
  refine ⟨ready_all _ _ (by decide +kernel), by unfold NoneCounted; decide +kernel, by unfold RecordNamed; decide +kernel,
    by decide +kernel, by decide +kernel, by decide +kernel, by decide +kernel, by decide +kernel,
    all_of_some (a := channel0) (by decide +kernel) (.inl rfl), all_of_none (by decide +kernel) _, by decide +kernel,
    all_of_some (a := { channel0 with n := 7, state := 3 }) (by decide +kernel) (.inr rfl)⟩

/-- EncodingsHaveOneMeaning: bytes for each way out of the decoder. -/
theorem witness_decode :
    ((bytesOfWord 3 0).length < 4 ∧ 4 ≤ (bytesOfWord 4 3).length ∧ firstParcel (bytesOfWord 4 3) % 4 = 3)
      ∧ (firstParcel (bytesOfWord 11 2) % 4 ≠ 3 ∧ (bytesOfWord 11 2).length < 4 + 4 * (firstParcel (bytesOfWord 11 2) % 4))
      ∧ 12 ≤ (bytesOfWord 12 0).length
      ∧ opcodeOf (firstParcel (bytesOfWord 12 (8 * 0x1FF))) ∉ allOpcodes
      ∧ (opcodeOf (firstParcel (bytesOfWord 12 (8 * 0x1F0))) ∈ allOpcodes
        ∧ opcodeOf (firstParcel (bytesOfWord 12 (8 * 0x1F0))) ∉ permitted (firstParcel (bytesOfWord 12 (8 * 0x1F0))))
      ∧ opcodeOf (firstParcel (bytesOfWord 12 (1 + 8 * 0x1F0))) ∈ permitted (firstParcel (bytesOfWord 12 (1 + 8 * 0x1F0)))
      ∧ (encode (.nop (cf 0 0))).isSome = true ∧ (decode (bytesOfWord 4 0x0000F6C0)).toOption.isSome = true := by decide +kernel

/-- StepRunsDecodedInstruction: NOP placed for the next step, bytes that decode to nothing, and a step of the part. -/
def nextNop : State := State.reset.withFetchWord 32 0x0000F6C0
def nextNone : State := State.reset.withFetchWord 32 0x0000F6C3
def envOf (s : State) : Env := envAt { s with cur := some ⟨1, 0⟩ }

theorem witness_step :
    (Claims.Next nextNop (.issue ⟨1, 0⟩) [] ∧ nextNop.m.env nextNop.dev ⟨1, 0⟩ = some (envOf nextNop) ∧ MayIssue nextNop (envOf nextNop)
        ∧ nextNop.m.fetchInstr nextNop.dev (envOf nextNop).x (envOf nextNop).cluster placeBase 0 = .ok (bytesOfWord 4 0x0000F6C0))
      ∧ (Claims.Next nextNone (.issue ⟨1, 0⟩) [] ∧ nextNone.m.env nextNone.dev ⟨1, 0⟩ = some (envOf nextNone) ∧ MayIssue nextNone (envOf nextNone)
        ∧ nextNone.m.fetchInstr nextNone.dev (envOf nextNone).x (envOf nextNone).cluster placeBase 0 = .ok (bytesOfWord 4 0x0000F6C3)
        ∧ decode (bytesOfWord 4 0x0000F6C3) = .error .reservedForm)
      ∧ Claims.Next { State.reset with agenda := [.event .powerCapReached .none, .issue ⟨1, 0⟩] } (.event .powerCapReached .none) [.issue ⟨1, 0⟩] := by
  unfold Claims.Next MayIssue; decide +kernel

/-- A gang inside a clause whose header it has not read; one that is done; one whose pre-emption was latched 65536 clocks ago. -/
def nextUnread : State := onGang (fun g => { g with header := 0, idx := 1 }) nextNop
def nextHeld : State := onCrew (fun c => { c with preempted := true }) nextNop
def nextLatched : State :=
  onMach (fun m => { m with clocks := [(0, 65536)] }) (onFibre (fun f => { f with latched := some 0 }) nextNop)

theorem witness_noIssue :
    (∀ s ∈ [nextUnread, nextHeld, nextLatched], Claims.Next s (.issue ⟨1, 0⟩) [] ∧ s.m.env s.dev ⟨1, 0⟩ = some (envOf s))
      ∧ ((envOf nextUnread).canIssue = true ∧ nextUnread.m.latchOut (envOf nextUnread) = false ∧ (envOf nextUnread).g.unread = true)
      ∧ (envOf nextHeld).canIssue = false ∧ nextLatched.m.latchOut (envOf nextLatched) = true := by
  unfold Claims.Next; decide +kernel

/-- StepKeepsMemoriesCanonical and InstructionsKeepManagement: a next state. -/
theorem witness_nextStates :
    (nextNop.m.memoriesWf = true ∧ ∃ t, step nextNop = .next t) ∧ (Instr.nop (cf 0 0)).enc = some (encOf (.nop (cf 0 0)))
      ∧ ∃ t, exec (.nop (cf 0 0)) stand = .next t := by
  refine ⟨⟨by decide +kernel, ?_⟩, rfl, ?_⟩
  · have h : (match step nextNop with | .next _ => true | _ => false) = true := by decide +kernel
    revert h; cases step nextNop <;> simp
  · have h : (match exec (.nop (cf 0 0)) stand with | .next _ => true | _ => false) = true := by decide +kernel
    revert h; cases exec (.nop (cf 0 0)) stand <;> simp

/-- Accumulator tile 2 and stationary slot 1 of core 0, bound by the crew, the slot loaded with FP32. Tile 3 and slot 0 are a pair
of cores 0 and 1. -/
def slotOf (core n : Nat) (both : Bool) (k : Nat) : StatSlot :=
  { core := core, n := n, crew := 1, pair := both, fmt := 0, block := 0, scale := 0, k := k, codes := [], scales := [], state := 1 }
def tileAt (core n : Nat) (both : Bool) : Tile := ⟨core, n, 1, 0, false, both, false, true, 0, 0⟩

/-- v4:5 and v6:7 addresses, v12 the format word of a dense FP32 product, v14 and v15 those with A and with B sparse, v16 a
descriptor of 128 bytes of format 6, v17 the stride of a row of FP32, v18 a stride of a row of FP16 in pair mode; v24 an address of
class cipher; an image with its trailer at 0x8000. -/
def trailed : Nat := 256 ^ 128 * (((6 * 2 ^ 28 + 128) * 2 ^ 32 + crc32c (List.replicate 128 0)) * 2 ^ 64)
def array : State :=
  put 0x8000 144 trailed
    (regs [(4, 0x8000), (6, 0x9000), (14, 2 ^ 12), (15, 2 ^ 13), (16, 6 * 2 ^ 28 + 128), (17, 512), (18, 512), (24, 0x40000000)]
      (onMach (fun m => { m with tiles := [tileAt 0 2 false, tileAt 0 3 true, tileAt 1 3 true]
                                 sslots := [slotOf 0 1 false 96, slotOf 0 0 true 96, slotOf 1 0 true 96] })
        (onCtx (fun x => { x with ranges := x.ranges ++ [⟨2 ^ 30, 2 ^ 30 + 4096, 0x30000, 1, true, 7, 0, 0⟩,
          ⟨2 ^ 30 + 4096, 2 ^ 30 + 8192, 0x31000, 1, false, 7, 0, 0⟩] }) stand)))

theorem posting_of (s : State) (l : List Instr) (h : (l.all fun i => ready s i) = true)
    (hl : (l.all fun i => decide (((envAt s).act (encOf i)).head? = some (fibreAt s))) = true) (hn : NoneCounted (envAt s))
    (ht : TableRoom s (envAt s)) : ∀ i ∈ l, Posting s i (envAt s) (encOf i) (fibreAt s) := fun i hi =>
  let r := ready_all s l h i hi
  ⟨r.1, r.2.1, r.2.2, of_decide_eq_true (p := ((envAt s).act (encOf i)).head? = some (fibreAt s)) (List.all_eq_true.mp hl i hi), hn, ht⟩

def azeroForms : List Instr :=
  [.azero (wf 0 0 0 0 (2 * bit 61)), .azero (wf 0 0 0 0 (bit 61 + bit 59)), .azero (wf 0 0 0 0 (3 * bit 61 + bit 60)), .azero (wf 0 0 0 0 (bit 60)),
   .azero (wf 0 0 0 0 (2 * bit 61 + bit 58)), .azero (wf 0 0 0 0 (bit 58))]
def ardForms : List Instr := [.ard (wi 0 124 8 32 (2 * bit 61)), .ard (wi 0 0 8 32 (3 * bit 61 + bit 60))]

/-- AccumulatorTiles: bound and free tiles, of one core and of two; a tile that is not the crew's; the last column. -/
theorem witness_tiles :
    ((∀ i ∈ azeroForms, Posting array i (envAt array) (encOf i) (fibreAt array)) ∧ ∀ i ∈ ardForms, Ready array i)
      ∧ (∀ i ∈ azeroForms.take 4, (encOf i).mb 58 = false ∧ ∀ k ∈ coresUsed (envAt array) ((encOf i).mb 60),
          ((array.m.tile k ((encOf i).m 62 61)).bound = true ∧ (array.m.tile k ((encOf i).m 62 61)).crew = (envAt array).c.id)
            ∨ ((array.m.tile k ((encOf i).m 62 61)).bound = false ∧ array.m.tileBusy k ((encOf i).m 62 61) = false))
      ∧ ((∀ i ∈ azeroForms.drop 4, (encOf i).mb 58 = true) ∧ TileOf array (envAt array) 2 ∧ ¬ TileOf array (envAt array) 0)
      ∧ ∀ i ∈ ardForms, Lowest (envAt array) (encOf i) (fibreAt array) ∧ TileOf array (envAt array) ((encOf i).m 62 61)
          ∧ b32At (encOf i) (fibreAt array) % 4 = 0 ∧ b32At (encOf i) (fibreAt array) ≤ 124
          ∧ ((encOf i).mb 60 = true → (array.m.tile (envAt array).c.core ((encOf i).m 62 61)).pair = true) := by
  refine ⟨⟨posting_of _ _ (by decide +kernel) (by decide +kernel) ?_ ?_, ready_all _ _ (by decide +kernel)⟩, by decide +kernel, ?_, ?_⟩
  all_goals first
    | unfold NoneCounted; decide +kernel
    | unfold TableRoom; decide +kernel
    | unfold Lowest TileOf; decide +kernel
    | unfold TileOf; decide +kernel

def mmaForms : List Instr := [.mmaW (wf 32 12 0 0 (2 * bit 61 + bit 60)), .mmaW (wf 152 12 11 0 (3 * bit 61 + bit 59 + bit 58 + bit 57))]
def mmasForms : List Instr := [.mmasW (wf 32 14 0 253 (2 * bit 61 + bit 60)), .mmasW (wf 32 15 0 253 (2 * bit 61 + bit 60))]

def slotUsed (i : Instr) : StatSlot := (array.m.sslot 0 ((encOf i).m 60 60)).getD (slotOf 0 0 false 0)

/-- ArrayPosts: dense and sparse products whose registers end with the window, one pair with its gauge and its operands kept. -/
theorem witness_mma :
    (∀ i ∈ mmaForms ++ mmasForms, Posting array i (envAt array) (encOf i) (fibreAt array))
      ∧ (∀ q ∈ mmaForms.map (·, false) ++ mmasForms.map (·, true),
          let e := encOf q.1
          let f := fibreAt array
          let w := formatWord e f
          Agreed (envAt array) e f e.vb 1 ∧ wordOk q.2 w = true ∧ e.va + wRowRegs w + wScaleRegs w ≤ (envAt array).c.nregs
            ∧ (wAsp w = true ∨ wBsp w = true → mapReg e w + (if wBsp w then wMapRegs w else 0) ≤ (envAt array).c.nregs)
            ∧ (wBsp w = true → Agreed (envAt array) e f (mapReg e w) (wMapRegs w)) ∧ GaugeGood (envAt array) e (e.mb 57) f)
      ∧ (∀ i ∈ mmaForms ++ mmasForms,
          let e := encOf i
          let w := formatWord e (fibreAt array)
          let t := array.m.tile (envAt array).c.core (e.m 62 61)
          let b := slotUsed i
          TileOf array (envAt array) (e.m 62 61) ∧ t.int = wInt w ∧ (t.pair = true → e.mb 58 = true)
            ∧ (array.m.sslot (envAt array).c.core (e.m 60 60) = some b ∧ b.crew = (envAt array).c.id ∧ b.state = 1 ∧ b.fmt = wBfmt w
              ∧ b.block = wBlock w ∧ b.scale = wScale w ∧ b.k = wK w ∧ (e.mb 58 = true → t.pair = true ∧ b.pair = true))
            ∧ array.m.loadComing (envAt array).c.core (e.m 60 60) = false ∧ ∀ c ∈ array.m.crews, ∀ g ∈ c.gangs, g.kept = none) := by
  refine ⟨posting_of _ _ (by decide +kernel) (by decide +kernel) ?_ ?_, ?_, ?_⟩
  all_goals first
    | unfold NoneCounted; decide +kernel
    | unfold TableRoom; decide +kernel
    | unfold Agreed GaugeGood InScratch; decide +kernel
    | unfold TileOf; decide +kernel

def bldForms : List Instr := [.bldW (wf 4 0 0 16 (bit 62 + bit 59)), .bldL (lf 0 4 0 16 (bit 62 + bit 59))]
def cipherForms : List Instr := [.bldW (wf 24 0 0 16 (bit 62 + bit 59)), .bldL (lf 0 24 0 16 (bit 62 + bit 59))]
def bldFreeForms : List Instr := [.bldW (wf 0 0 0 16 (bit 62 + bit 57))]

def imageOf (i : Instr) : Acc :=
  let e := encOf i
  accOf (array.m.tileRange (envAt array) e (fibreAt array) (e.m 60 59) (e.m 56 49) (dispOf e) (imageBytes (6 * 2 ^ 28 + 128)) true false)

theorem witness_bld :
    (∀ i ∈ bldForms ++ cipherForms ++ bldFreeForms, Posting array i (envAt array) (encOf i) (fibreAt array))
      ∧ (∀ i ∈ bldForms ++ cipherForms, (encOf i).mb 57 = false ∧ RecordNamed (envAt array) ((encOf i).m 60 59) ((encOf i).m 56 49)
          ∧ Agreed (envAt array) (encOf i) (fibreAt array) (encOf i).vd 1
          ∧ bldOk ((fibreAt array).regs.getD (encOf i).vd 0).toNat ((encOf i).mb 61) = true
          ∧ GaugeGood (envAt array) (encOf i) ((encOf i).mb 58) (fibreAt array))
      ∧ array.m.sslot 0 1 = some (slotOf 0 1 false 96) ∧ (slotOf 0 1 false 96).crew = (envAt array).c.id
      ∧ (∀ i ∈ bldForms, ImageGiven array (envAt array) (encOf i) (fibreAt array) (6 * 2 ^ 28 + 128)
          (.bld (BitVec.ofNat 32 (6 * 2 ^ 28 + 128)) (imageOf i).area false 0 0 []))
      ∧ (∀ i ∈ cipherForms, ImageGiven array (envAt array) (encOf i) (fibreAt array) (6 * 2 ^ 28 + 128)
          (.bld (BitVec.ofNat 32 (6 * 2 ^ 28 + 128)) (imageOf i).area true 0 0 []))
      ∧ (∀ i ∈ bldFreeForms, (encOf i).mb 57 = true) ∧ (envAt array).c.id ≠ 0 := by
  refine ⟨posting_of _ _ (by decide +kernel) (by decide +kernel) ?_ ?_, ?_, by decide +kernel, by decide +kernel, ?_, ?_, by decide +kernel⟩
  · unfold NoneCounted; decide +kernel
  · unfold TableRoom; decide +kernel
  · unfold RecordNamed Agreed GaugeGood InScratch; decide +kernel
  · intro i hi
    exact ⟨imageOf i, by revert i hi; decide +kernel, .inl ⟨by revert i hi; decide +kernel, rfl⟩⟩
  · intro i hi
    exact ⟨imageOf i, by revert i hi; decide +kernel, .inr (.inr ⟨by revert i hi; decide +kernel, by revert i hi; decide +kernel, rfl⟩)⟩

/-- The same with the encrypted range under key 5 of compartment 1. -/
def sealedArray : State :=
  onCtx (fun x => { x with comp := 1, ranges := x.ranges.map fun r => if r.cipher then { r with keyId := 5 } else r }) array

def sealedBytes (i : Instr) : Acc × Sealed :=
  let e := encOf i
  let a := accOf (sealedArray.m.tileRange (envAt sealedArray) e (fibreAt sealedArray) (e.m 60 59) (e.m 56 49) (dispOf e) (imageBytes (6 * 2 ^ 28 + 128)) true false)
  (a, sealedArray.m.unseal (envAt sealedArray) (fibreAt sealedArray) (e.m 60 59) e.va (e.m 56 49) (dispOf e) (imageBytes (6 * 2 ^ 28 + 128)) a)

/-- BLD of an image whose bytes and tags can be reached. -/
theorem witness_bldSealed :
    (∀ i ∈ cipherForms, Posting sealedArray i (envAt sealedArray) (encOf i) (fibreAt sealedArray))
      ∧ ∀ i ∈ cipherForms, (match (sealedBytes i).2 with | .ok _ (.ok _) (.ok _) => true | _ => false) = true
          ∧ sealedArray.m.tileRange (envAt sealedArray) (encOf i) (fibreAt sealedArray) ((encOf i).m 60 59) ((encOf i).m 56 49)
              (dispOf (encOf i)) (imageBytes (6 * 2 ^ 28 + 128)) true false = .ok (sealedBytes i).1
          ∧ (sealedBytes i).1.cipher = true := by
  refine ⟨posting_of _ _ (by decide +kernel) (by decide +kernel) ?_ ?_, by decide +kernel⟩
  · unfold NoneCounted; decide +kernel
  · unfold TableRoom; decide +kernel

/-- A full FP32 store of tile 2; a store of tile 3 in pair mode as FP16 with an amax cell and a gauge; and both with a literal stride. -/
def astoreForms : List Instr :=
  [.astoreW (wf 4 17 0 0 (2 * bit 51)), .astoreW (wf 4 18 10 6 (bit 60 + bit 54 + bit 53 + 3 * bit 51 + bit 50)), .astoreL (lf 512 4 0 0 (2 * bit 51))]
def astzForms : List Instr :=
  [.astzW (wf 4 17 0 0 (2 * bit 51)), .astzW (wf 4 18 10 6 (bit 60 + bit 54 + bit 53 + 3 * bit 51 + bit 50)), .astzL (lf 4096 4 0 0 (2 * bit 51))]
def cvtqForms : List Instr :=
  [.cvtqW (wf 4 0 0 0 (2 * bit 50)), .cvtqW (wf 4 0 10 6 (3 * bit 61 + 3 * bit 59 + 4 * bit 56 + bit 52 + 3 * bit 50 + bit 49)),
   .cvtqL (lf 16 4 0 0 (bit 61 + bit 59 + bit 56 + 2 * bit 50))]

def rowOfStore (i : Instr) (r : Nat) : Acc :=
  let e := encOf i
  let f := fibreAt array
  accOf (array.m.engineRange (envAt array) f (writeWant (elemBytes e * if e.mb 53 then 256 else 128)) (rowAddr (pair f e.va).toNat (strideOf e f) r))

def cellAt (i : Instr) (on : Bool) : Option Area :=
  if on then some (accOf (array.m.cell (envAt array) (fibreAt array) (pair (fibreAt array) (encOf i).vd).toNat)).area else none

theorem cell_given (s : State) (f : Fibre) (on : Bool) (a : Nat)
    (h : on = true → s.m.cell (envAt s) f a = .ok (accOf (s.m.cell (envAt s) f a))) :
    CellGiven s (envAt s) f on a (if on then some (accOf (s.m.cell (envAt s) f a)).area else none) := by
  cases on
  · simp [CellGiven]
  · exact ⟨_, h rfl, rfl⟩

theorem witness_tileStores :
    (∀ i ∈ astoreForms ++ astzForms ++ cvtqForms, Posting array i (envAt array) (encOf i) (fibreAt array))
      ∧ (∀ i ∈ astoreForms,
          let e := encOf i
          let f := fibreAt array
          let a := (pair f e.va).toNat
          let row := elemBytes e * if e.mb 53 then 256 else 128
          TileStores array (envAt array) (e.m 52 51) (e.mb 53) ∧ a % elemBytes e = 0 ∧ strideOf e f % (elemBytes e : Int) = 0
            ∧ (row : Int) ≤ strideOf e f
            ∧ (∀ r < 32, array.m.engineRange (envAt array) f (writeWant row) (rowAddr a (strideOf e f) r) = .ok (rowOfStore i r)
              ∧ (a / 2 ^ 62 % 4 = 2 → ((a % 2 ^ 40 : Nat) : Int) + (r : Int) * strideOf e f + row ≤ 2 ^ 40))
            ∧ GaugeGood (envAt array) e (e.mb 50) f)
      ∧ (∀ i ∈ astzForms,
          let e := encOf i
          let f := fibreAt array
          let w := writeWant (max (b32At e f) 528 * if e.mb 53 then 2 else 1)
          TileStores array (envAt array) (e.m 52 51) (e.mb 53) ∧ (pair f e.va).toNat % 16 = 0
            ∧ array.m.engineRange (envAt array) f w (pair f e.va).toNat = .ok (accOf (array.m.engineRange (envAt array) f w (pair f e.va).toNat))
            ∧ GaugeGood (envAt array) e (e.mb 50) f)
      ∧ (∀ i ∈ cvtqForms,
          let e := encOf i
          let f := fibreAt array
          let w := writeWant (imageBytes (tileWord e))
          TileStores array (envAt array) (e.m 51 50) (e.mb 52) ∧ quantises e ∧ shifted e f % 16 = 0
            ∧ array.m.engineRange (envAt array) f w (shifted e f) = .ok (accOf (array.m.engineRange (envAt array) f w (shifted e f)))
            ∧ GaugeGood (envAt array) e (e.mb 49) f) := by
  refine ⟨posting_of _ _ (by decide +kernel) (by decide +kernel) ?_ ?_, ?_, ?_, ?_⟩
  · unfold NoneCounted; decide +kernel
  · unfold TableRoom; decide +kernel
  · unfold TileStores TileOf GaugeGood InScratch; decide +kernel
  · unfold TileStores TileOf GaugeGood InScratch; decide +kernel
  · unfold TileStores TileOf quantises GaugeGood InScratch; decide +kernel

/-- The amax cells of the stores. -/
theorem witness_cells :
    ∀ q ∈ (astoreForms ++ astzForms).map (fun i => (i, (encOf i).mb 54))
        ++ cvtqForms.map (fun i => (i, decide ((pair (fibreAt array) (encOf i).vd).toNat ≠ 0))),
      CellGiven array (envAt array) (fibreAt array) q.2 (pair (fibreAt array) (encOf q.1).vd).toNat (cellAt q.1 q.2) := by
  intro q hq
  refine cell_given _ _ _ _ ?_
  revert q
  decide +kernel

def dqForms : List Instr :=
  [.dqW (wf 4 6 0 16 (bit 59)), .dqW (wf 4 10 10 16 (2 * bit 61 + bit 59 + bit 58 + bit 57)), .dqL (lf 0x200 4 0 16 (bit 61 + bit 59 + bit 57))]
def tchkForms : List Instr := [.tchkW (wf 4 0 16 14 (bit 59)), .tchkL (lf 0x1000 4 16 0 (bit 59 + bit 58))]

def tileOf (i : Instr) : Acc :=
  let e := encOf i
  accOf (array.m.tileRange (envAt array) e (fibreAt array) (e.m 60 59) (e.m 56 49) 0 (imageBytes (6 * 2 ^ 28 + 128)) true true)

def dqDest (i : Instr) : LaneRes :=
  let e := encOf i
  let f := fibreAt array
  let t := dqType (e.m 62 61)
  let len := 128 * (t.bits / 8)
  if e.mb 57 then scratchLane (envAt array).c (((if e.isL then e.lit else (f.regs.getD e.vb 0).toNat) : Nat) : Int) len (t.bits / 8)
  else array.m.engineRange (envAt array) f (writeWant len) (pair f e.vb).toNat

theorem witness_dqTchk :
    ((∀ i ∈ dqForms, Posting array i (envAt array) (encOf i) (fibreAt array)) ∧ ∀ i ∈ tchkForms, Ready array i)
      ∧ (∀ i ∈ dqForms,
          let e := encOf i
          let f := fibreAt array
          let w := (f.regs.getD e.vd 0).toNat
          RecordNamed (envAt array) (e.m 60 59) (e.m 56 49) ∧ Agreed (envAt array) e f e.vd 1 ∧ ok53 w = true ∧ 3 ≤ dFmt w
            ∧ dCount w = 128
            ∧ array.m.tileRange (envAt array) e f (e.m 60 59) (e.m 56 49) 0 (imageBytes w) true true = .ok (tileOf i)
            ∧ (tileOf i).cipher = false ∧ Local (tileOf i).runs ∧ dqDest i = .ok (accOf (dqDest i))
            ∧ GaugeGood (envAt array) e (e.mb 58) f ∧ trailerOk w (tileBytes array (envAt array) (tileOf i).runs) = true)
      ∧ NoneCounted (envAt array)
      ∧ ∀ i ∈ tchkForms,
          let e := encOf i
          let f := fibreAt array
          let r := tchkLane array.m (envAt array) e f
          (envAt array).act e = [f] ∧ RecordNamed (envAt array) (e.m 60 59) (e.m 56 49)
            ∧ (r.1 = .ok (accOf r.1) ∧ Local r.2.1 ∧ r.2.2 = none)
            ∧ (e.mb 58 = true ∨ tilePasses array (envAt array) (f.regs.getD e.vc 0).toNat r.2.1 r.2.2 = true) := by
  refine ⟨⟨posting_of _ _ (by decide +kernel) (by decide +kernel) ?_ ?_, ready_all _ _ (by decide +kernel)⟩, ?_, ?_, ?_⟩
  · unfold NoneCounted; decide +kernel
  · unfold TableRoom; decide +kernel
  · unfold RecordNamed Agreed Local GaugeGood InScratch; decide +kernel
  · unfold NoneCounted; decide +kernel
  · unfold RecordNamed Local; decide +kernel

/-! Cursors, bins and gates -/

def cursorDesc (encB : Nat) : Nat :=
  2 * 2 ^ 96 + 0x9000 * 2 ^ 128 + 2 * 2 ^ 288 + 0xA000 * 2 ^ 320 + encB * 2 ^ 402 + 7 * 2 ^ 416 + 0x100000 * 2 ^ 448

/-- Two IX32 streams, 1 5 and 2 5, with their descriptor at 0x8000; the second as DX16 behind the descriptor at 0x8040; a saved word
at 0xD000. v4:5 the first descriptor, v6:7 room, v8:9 the saved word. -/
def streams : State :=
  put 0x8000 64 (cursorDesc 0) (put 0x9000 8 (1 + 5 * 2 ^ 32) (put 0xA000 8 (2 + 5 * 2 ^ 32)
    (put 0xD000 32 (2 ^ 8 + 2 ^ 13 * (0x8000 / 64) + 2 ^ 64 + 2 ^ 96 + 2 * 2 ^ 128)
      (regs [(4, 0x8000), (6, 0xC000), (8, 0xD000)] stand))))

def cursorOf (n encB : Nat) : List Cursor := (openCursor n 0x8000 (cursorDesc encB)).toList

/-- Cursor 1 open on both streams, cursor 2 running, cursor 3 failed and not reported. -/
def opened : State :=
  onCrew (fun c => { c with
    cursors := cursorOf 1 0 ++ (cursorOf 2 0).map (fun h => { h with state := 2 }) ++ (cursorOf 3 0).map fun h => { h with state := 5 } }) streams

/-- Cursor 1 open on an IX32 and a DX16 stream. -/
def openedMixed : State := put 0xA000 8 (3 + 3 * 2 ^ 16) (onCrew (fun c => { c with cursors := cursorOf 1 1 }) streams)

theorem collective_of (s : State) (l : List Instr) (h : (l.all fun i => ready s i) = true)
    (hl : (l.all fun i => decide (((envAt s).act (encOf i)).head? = some (fibreAt s))) = true) (hn : NoneCounted (envAt s)) :
    ∀ i ∈ l, Collective s i (envAt s) (encOf i) (fibreAt s) := fun i hi =>
  let r := ready_all s l h i hi
  ⟨r.1, r.2.1, r.2.2, of_decide_eq_true (p := ((envAt s).act (encOf i)).head? = some (fibreAt s)) (List.all_eq_true.mp hl i hi), hn⟩

/-- A cursor's name with nothing to report: free, or no failed run under it. -/
theorem nothing_of (s : State) (n : Nat) (h : (((envAt s).c.cursor n).all fun h => decide (h.state ≠ 5 ∧ h.state ≠ 6)) = true) :
    NothingToReport (envAt s) n := by
  intro q hq hs
  rw [hq] at h
  simp at h
  omega

def cursorForms : List Instr :=
  [.ceopen (wf 4 0 0 0 0), .cerun (wf 0 0 0 14 (bit 61)), .cerun (wf 0 0 10 14 (bit 61 + bit 60)), .cerun (wf 0 0 0 14 0), .cerun (wf 0 0 0 14 (2 * bit 61)),
   .cesplit (wi 6 1 0 0 (bit 61)), .cesplit (wi 6 2 0 0 (bit 61)), .cesaveW (wi 6 32 0 0 (bit 61)), .cesaveL (lf 0 6 0 0 (2 * bit 61)),
   .celoadW (wf 8 0 0 0 0), .celoadL (lf 0 8 0 0 (bit 61)), .cestat (wf 0 0 0 8 (bit 61)), .cestat (wf 0 0 0 8 0), .ceclose (wf 0 0 0 0 (bit 61)),
   .ceclose (wf 0 0 0 0 (3 * bit 61))]

def rangeAt (s : State) (w : Want) (va k : Nat) (disp : Nat) : LaneRes :=
  s.m.alignedRange (envAt s) (fibreAt s) w ((pair (fibreAt s) va).toNat + disp) k

def splitDest (s : State) (n : Nat) : LaneRes := s.m.engineRange (envAt s) (fibreAt s) (writeWant (64 * n)) 0xC000
def readerAt (s : State) : Reader := ⟨(envAt s).d, (envAt s).x, (envAt s).cluster, (fibreAt s).carry, false⟩
def cursorAt (s : State) (n : Nat) : Cursor := (((envAt s).c.cursor n).getD ((cursorOf 1 0).headD
  { n := 0, by_ := [], state := 0, desc := 0, raw := 0, entry := 0, tag := 0, merge := false, a := ⟨0, 0, 0, 0, 0, 0, 0, 0, 0⟩
    b := ⟨0, 0, 0, 0, 0, 0, 0, 0, 0⟩, fstream := false, rep := false, gerr := false, emitted := 0, gauge := none, offending := 0
    previous := 0, wait := [], errorPage := none, want := none, lost := false }))

theorem witness_cursorForms :
    (∀ i ∈ cursorForms, Collective opened i (envAt opened) (encOf i) (fibreAt opened))
      ∧ (∀ i ∈ cursorForms, Collective openedMixed i (envAt openedMixed) (encOf i) (fibreAt openedMixed))
      ∧ (∀ n ∈ [0, 1, 2], NothingToReport (envAt opened) n) ∧ NothingToReport (envAt openedMixed) 1
      ∧ (opened.m.cursorsOf (envAt opened).c.core < 4 ∧ (envAt opened).c.cursor 0 = none) ∧ (envAt opened).c.cursor 1 = some (cursorAt opened 1)
      ∧ ((envAt opened).c.cursor 3 = some (cursorAt opened 3) ∧ (cursorAt opened 3).state = 5 ∧ (cursorAt opened 3).rep = false)
      ∧ ((cursorAt opened 1).state = 1 ∧ GaugeGood (envAt opened) (encOf (.cerun (wf 0 0 10 14 (bit 61 + bit 60)))) true (fibreAt opened))
      ∧ (∀ h, (envAt opened).c.cursor 0 = some h → h.state ≠ 1) ∧ ∀ h, (envAt opened).c.cursor 2 = some h → h.state ≠ 1 := by
  refine ⟨collective_of _ _ (by decide +kernel) (by decide +kernel) ?_, collective_of _ _ (by decide +kernel) (by decide +kernel) ?_, ?_,
    nothing_of _ _ (by decide +kernel), by decide +kernel, by decide +kernel, by decide +kernel, ⟨by decide +kernel, ?_⟩,
    all_of_none (by decide +kernel) _, all_of_some (a := cursorAt opened 2) (by decide +kernel) (by decide +kernel)⟩
  · unfold NoneCounted; decide +kernel
  · unfold NoneCounted; decide +kernel
  · intro n hn
    exact nothing_of _ _ (by revert n; decide +kernel)
  · unfold GaugeGood InScratch; decide +kernel

theorem witness_cursorMemory :
    (rangeAt opened (readWant 64) 4 64 0 = .ok (accOf (rangeAt opened (readWant 64) 4 64 0))
        ∧ (openCursor 0 (accOf (rangeAt opened (readWant 64) 4 64 0)).va
            (numberAt opened (envAt opened) (accOf (rangeAt opened (readWant 64) 4 64 0)))).isSome = true)
      ∧ (∀ s ∈ [opened, openedMixed], ∀ n ∈ [1, 2], splitDest s n = .ok (accOf (splitDest s n)) ∧ InHbm s (accOf (splitDest s n)) (64 * n)
        ∧ (pair (fibreAt s) 6).toNat % 64 = 0 ∧ (pair (fibreAt s) 6).toNat / 2 ^ 62 ≠ 1)
      ∧ ((cursorAt opened 1).a.enc = 0 ∧ (cursorAt opened 1).b.enc = 0
        ∧ (opened.m.ixTable (readerAt opened) (cursorAt opened 1) 2).isLeft = true)
      ∧ ((cursorAt openedMixed 1).state = 1 ∧ (cursorAt openedMixed 1).b.enc ≠ 0
        ∧ (openedMixed.m.scan (readerAt openedMixed) true (cursorAt openedMixed 1).a.bound (cursorAt openedMixed 1).a).isLeft = true
        ∧ (openedMixed.m.scan (readerAt openedMixed) true (cursorAt openedMixed 1).b.bound (cursorAt openedMixed 1).b).isLeft = true)
      ∧ (∀ k ∈ [0, 32], rangeAt opened (writeWant 32) 6 32 k = .ok (accOf (rangeAt opened (writeWant 32) 6 32 k))
        ∧ InHbm opened (accOf (rangeAt opened (writeWant 32) 6 32 k)) 32)
      ∧ (let a := accOf (rangeAt opened (readWant 32) 8 32 0)
        let w := numberAt opened (envAt opened) a
        let r := opened.m.engineRange (envAt opened) (fibreAt opened) (readWant 64) (w / 2 ^ 13 % 2 ^ 51 * 64)
        rangeAt opened (readWant 32) 8 32 0 = .ok a ∧ r = .ok (accOf r) ∧ w / 2 % 2 ^ 7 = 0 ∧ w / 2 ^ 8 % 8 ≠ 0 ∧ w / 2 ^ 8 % 8 ≠ 7
          ∧ ((openCursor 0 (w / 2 ^ 13 % 2 ^ 51 * 64) (numberAt opened (envAt opened) (accOf r))).bind fun q => q.restore w).isSome = true) := by
  unfold InHbm
  decide +kernel

/-! Binning and gates -/

/-- 32 elements of 16 to a region at 0x10000, added as S32, with room for 8 pairs of each region. -/
def binDesc : Nat := 4 * 2 ^ 32 + 32 * 2 ^ 64 + 128 * 2 ^ 96 + 0x10000 * 2 ^ 128 + 0x20000 * 2 ^ 192

/-- Two lanes with v4 the last index of all and of region 0, and v5 the values; the descriptor at v6:7. -/
def binState : State :=
  onFibre (fun f => { f with regs := ((f.regs.set 4 (31 - 16 * BitVec.ofNat 32 f.slot)).set 5 7).set 6 0x8000 })
    (put 0x8000 32 binDesc (twoLanes stand))

def bins : Binning := Binning.start (BitVec.ofNat 256 binDesc)

/-- A context with 7 pairs of region 1, so that the one that comes fills it. -/
def binning : State := onCrew (fun c => { c with binning := some { bins with pairs := List.replicate 7 (16, 1) } }) binState

/-- Lane 0's index just past the last. -/
def binPast : State := onFibre (fun f => { f with regs := f.regs.set 4 (32 - BitVec.ofNat 32 f.slot) }) binning

def binitForms : List Instr := [.binitW (wi 6 0 0 0 0), .binitL (lf 0 6 0 0 0)]
def binDescAt (s : State) : LaneRes := s.m.engineRange (envAt s) (fibreAt s) (readWant 32) 0x8000

theorem witness_binning :
    (∀ s ∈ [binState, onCrew (fun c => { c with binning := some bins }) binState],
        (∀ i ∈ binitForms, Collective s i (envAt s) (encOf i) (fibreAt s) ∧ shifted (encOf i) (fibreAt s) / 2 ^ 62 ≠ 1
          ∧ shifted (encOf i) (fibreAt s) = 0x8000)
        ∧ binDescAt s = .ok (accOf (binDescAt s)) ∧ binOk (envAt s).c (numberAt s (envAt s) (accOf (binDescAt s))) = true
        ∧ ∀ b, (envAt s).c.binning = some b → b.state ≠ 2 ∧ (b.state = 1 → b.pairs = []))
      ∧ (let s := binning
        let e := encOf (.bapp (wf 4 5 0 0 0))
        let b := { bins with pairs := List.replicate 7 (16, 1) }
        Ready s (.bapp (wf 4 5 0 0 0)) ∧ ((envAt s).act e ≠ [] ∧ (envAt s).c.binning = some b ∧ b.state ≠ 3
          ∧ (∀ f ∈ (envAt s).act e, (f.regs.getD e.va 0).toNat < bCount b.desc.toNat)
          ∧ ∀ f ∈ (envAt s).act e, ((b.pairs ++ appended (envAt s) e).filter
              (inRegion b.desc.toNat ((f.regs.getD e.va 0).toNat / 2 ^ bRlog b.desc.toNat))).length ≤ bPairs b.desc.toNat)
          ∧ NoneCounted (envAt s))
      ∧ (let s := binPast
        let e := encOf (.bapp (wf 4 5 0 0 0))
        Ready s (.bapp (wf 4 5 0 0 0)) ∧ (envAt s).c.binning = some { bins with pairs := List.replicate 7 (16, 1) }
          ∧ ∃ f ∈ (envAt s).act e, bCount bins.desc.toNat ≤ (f.regs.getD e.va 0).toNat)
      ∧ (∀ i ∈ [Instr.breplay (wf 0 0 0 0 0), .breplay (wf 0 0 10 0 (bit 62)), .bstat (wf 0 0 0 8 0)],
          Collective binning i (envAt binning) (encOf i) (fibreAt binning)
            ∧ GaugeGood (envAt binning) (encOf i) ((encOf i).mb 62) (fibreAt binning))
      ∧ bins.state ≠ 2 ∧ bins.state ≠ 3 := by
  refine ⟨?_, ⟨ready_all binning [.bapp (wf 4 5 0 0 0)] (by decide +kernel) _ (.head _), by decide +kernel, by unfold NoneCounted; decide +kernel⟩,
    ⟨ready_all binPast [.bapp (wf 4 5 0 0 0)] (by decide +kernel) _ (.head _), by decide +kernel⟩, ?_, by decide +kernel⟩
  · intro s hs
    refine ⟨fun i hi => ⟨collective_of s binitForms (by revert s; decide +kernel) (by revert s; decide +kernel)
        (by unfold NoneCounted; revert s; decide +kernel) i hi, by revert i s; decide +kernel⟩,
      by revert s; decide +kernel, by revert s; decide +kernel, ?_⟩
    have h : (envAt s).c.binning = none ∨ (envAt s).c.binning = some bins := by revert s; decide +kernel
    intro b hb
    rcases h with h | h <;> rw [h] at hb <;> cases hb
    exact ⟨by decide +kernel, fun _ => rfl⟩
  · intro i hi
    refine ⟨collective_of binning [.breplay (wf 0 0 0 0 0), .breplay (wf 0 0 10 0 (bit 62)), .bstat (wf 0 0 0 8 0)] (by decide +kernel)
      (by decide +kernel) (by unfold NoneCounted; decide +kernel) i hi, ?_⟩
    unfold GaugeGood InScratch
    revert i; decide +kernel

/-- The bytes of a list, read as one number and written again. -/
theorem leBytes_leNat (l : List Byte) : leBytes l.length (leNat l) = l := by
  induction l with
  | nil => rfl
  | cons b t ih =>
    have := b.isLt
    simp only [List.length_cons, leNat, leBytes]
    rw [show (b.toNat + 256 * leNat t) / 256 = leNat t by omega, ih]
    congr 1
    apply BitVec.eq_of_toNat_eq
    simp only [BitVec.toNat_ofNat]
    omega

theorem leNat_append (l k : List Byte) : leNat (l ++ k) = leNat l + 256 ^ l.length * leNat k := by
  induction l with
  | nil => simp [leNat]
  | cons b t ih =>
    simp only [List.cons_append, leNat, ih, List.length_cons, Nat.pow_succ, Nat.mul_add]
    rw [← Nat.mul_assoc, Nat.mul_comm 256 (256 ^ _), Nat.add_assoc]

theorem leNat_lt (l : List Byte) : leNat l < 256 ^ l.length := by
  induction l with
  | nil => simp [leNat]
  | cons b t ih =>
    have := b.isLt
    simp only [leNat, List.length_cons, Nat.pow_succ]
    omega

/-- The tag of gate 7's entry, which allows a pass of plain bytes in compartment 0. -/
def tag7 : List Byte := State.reset.dev.gateTag 0 0x200000 7 1

/-- A launch that declares gate 7, its context's header at 0x200000 with the gate's entry and its tag; v4:5, v8:9 the two sides. -/
def gateMem (t : List Byte) : Memory := (0x200AE0, 1) :: (List.range 8).map fun i => (0x200AF8 + i, t.getD i 0)
def gateWith (t : List Byte) : State :=
  onMach (fun m => { m with hbm := gateMem t, launches := [{ Launch.blank with id := 1, record := BitVec.ofNat 512 (2 ^ 135) }] })
    (regs [(4, 0x8000), (8, 0x9000)] homed)
def gates : State := gateWith tag7

def gpassForms : List Instr := [.gpassW (wi 4 16 0 8 (7 * bit 60)), .gpassL (lf 4096 4 10 8 (7 * bit 60 + bit 59))]
def gpassShut : List Instr := [.gpassW (wi 4 0 0 8 0), .gpassL (lf 0xFFFFFFF0 4 0 8 (6 * bit 60))]
def gpassLengths : List Instr := [.gpassW (wi 4 15 0 8 (7 * bit 60)), .gpassL (lf 0xFFFFFFF1 4 0 8 0)]

theorem gateHeader (t : List Byte) (h : t.length = 8) : (gateWith t).m.headerNat State.reset.dev (envAt gates).x 0xAE0 32 = 1 + 2 ^ 192 * leNat t := by
  have hm : (gateWith t).m.hbm = gateMem t := rfl
  have hr : ∀ q, (gateWith t).m.hbmRead ⟨0, 0⟩ q = (gateMem t).read q := fun q => by
    unfold Mach.hbmRead
    rw [if_pos rfl, hm]
  have hl : ∀ i ∈ List.range 32, hbmLinear (0x200AE0 + i) = some (0x200AE0 + i) := by decide +kernel
  have hk : State.reset.dev.fnKey (envAt gates).x.fn = ⟨0, 0⟩ := by decide +kernel
  have ha : (envAt gates).x.addr + 0xAE0 = 0x200AE0 := by decide +kernel
  unfold Mach.headerNat Mach.physNat
  rw [hk, ha, List.map_congr_left (g := fun i => (gateMem t).read (0x200AE0 + i)) fun i hi => by rw [hl i hi]; exact hr _]
  match t, h with
  | [a, b, c, d, e, f, g, h], _ =>
    rw [show (List.range 32).map (fun i => (gateMem [a, b, c, d, e, f, g, h]).read (0x200AE0 + i))
      = (1 :: List.replicate 23 0) ++ [a, b, c, d, e, f, g, h] from rfl, leNat_append,
      show leNat (1 :: List.replicate 23 0) = 1 by decide +kernel]
    rfl

theorem gate_open : gates.m.gateEntry (envAt gates).d (envAt gates).x (envAt gates).l 7 = some ⟨0, 0, 0, 0⟩ := by
  have hl : tag7.length = 8 := by simp [tag7, Dev.gateTag]
  have ht := leBytes_leNat tag7
  have hn := leNat_lt tag7
  rw [hl] at ht hn
  have hd : (envAt gates).d = State.reset.dev := by decide +kernel
  have he : gates.m.headerNat (envAt gates).d (envAt gates).x (0xA00 + 32 * 7) 32 = 1 + 2 ^ 192 * leNat tag7 := by
    rw [hd]; exact gateHeader tag7 hl
  have hx : (envAt gates).x.fn = 0 ∧ (envAt gates).x.addr = 0x200000 ∧ (envAt gates).x.comp = 0 := by decide +kernel
  have hb : bitOf ((envAt gates).l.field 135 128) 7 = true := by decide +kernel
  have hz : bitsOf (1 + 2 ^ 192 * leNat tag7) 255 192 = leNat tag7 := by unfold bitsOf; omega
  have ht' : leBytes 8 (leNat tag7) = State.reset.dev.gateTag 0 0x200000 7 ((1 + 2 ^ 192 * leNat tag7) % 2 ^ 192) := by
    rw [ht, show (1 + 2 ^ 192 * leNat tag7) % 2 ^ 192 = 1 by omega]; rfl
  unfold Mach.gateEntry
  rw [he, hb, hx.1, hx.2.1, hx.2.2, hd]
  dsimp only
  rw [hz, ← ht']
  generalize leNat tag7 = n at *
  have h1 : bitOf (1 + 2 ^ 192 * n) 0 = true := by unfold bitOf; simp; omega
  have h2 : bitsOf (1 + 2 ^ 192 * n) 191 40 = 0 := by unfold bitsOf; omega
  have h3 : bitsOf (1 + 2 ^ 192 * n) 23 18 = 0 := by unfold bitsOf; omega
  have h4 : bitsOf (1 + 2 ^ 192 * n) 15 10 = 0 := by unfold bitsOf; omega
  have h5 : bitsOf (1 + 2 ^ 192 * n) 7 1 = 0 := by unfold bitsOf; omega
  have h6 : bitsOf (1 + 2 ^ 192 * n) 9 8 = 0 := by unfold bitsOf; omega
  have h7 : bitsOf (1 + 2 ^ 192 * n) 17 16 = 0 := by unfold bitsOf; omega
  have h8 : bitsOf (1 + 2 ^ 192 * n) 31 24 = 0 := by unfold bitsOf; omega
  have h9 : bitsOf (1 + 2 ^ 192 * n) 39 32 = 0 := by unfold bitsOf; omega
  generalize 1 + 2 ^ 192 * n = e at h1 h2 h3 h4 h5 h6 h7 h8 h9 ⊢
  simp [h1, h2, h3, h4, h5, h6, h7, h8, h9]

def sideAt (a n access : Nat) : GSide := gates.m.gside (envAt gates) (fibreAt gates) a n access 0

theorem witness_gates :
    (∀ i ∈ gpassForms, Collective gates i (envAt gates) (encOf i) (fibreAt gates) ∧ b32At (encOf i) (fibreAt gates) % 16 = 0)
      ∧ (∀ i ∈ gpassForms, GaugeGood (envAt gates) (encOf i) ((encOf i).mb 59) (fibreAt gates))
      ∧ (∀ q ∈ [(Instr.gpassW (wi 4 16 0 8 (7 * bit 60)), 16), (.gpassL (lf 4096 4 10 8 (7 * bit 60 + bit 59)), 4096)],
        GateOpen gates (envAt gates) (encOf q.1) (fibreAt gates) ⟨0, 0, 0, 0⟩ (sideAt 0x8000 q.2 1) (sideAt 0x9000 q.2 2))
      ∧ (∀ i ∈ gpassShut, Collective gates i (envAt gates) (encOf i) (fibreAt gates) ∧ b32At (encOf i) (fibreAt gates) % 16 = 0
        ∧ gates.m.gateEntry (envAt gates).d (envAt gates).x (envAt gates).l ((encOf i).m 62 60) = none)
      ∧ ∀ i ∈ gpassLengths, Collective gates i (envAt gates) (encOf i) (fibreAt gates) ∧ b32At (encOf i) (fibreAt gates) % 16 ≠ 0 := by
  have col := fun l h h' => collective_of gates l h h' (by unfold NoneCounted; decide +kernel)
  refine ⟨fun i hi => ⟨col gpassForms (by decide +kernel) (by decide +kernel) i hi, by revert i; decide +kernel⟩, ?_, ?_,
    fun i hi => ⟨col gpassShut (by decide +kernel) (by decide +kernel) i hi, by revert i; decide +kernel, ?_⟩,
    fun i hi => ⟨col gpassLengths (by decide +kernel) (by decide +kernel) i hi, by revert i; decide +kernel⟩⟩
  · unfold GaugeGood InScratch; decide +kernel
  · intro q hq
    have h : (encOf q.1).m 62 60 = 7 ∧ b32At (encOf q.1) (fibreAt gates) = q.2 ∧ (pair (fibreAt gates) (encOf q.1).va).toNat = 0x8000
        ∧ (pair (fibreAt gates) (encOf q.1).vd).toNat = 0x9000 := by revert q; decide +kernel
    unfold GateOpen
    rw [h.1, h.2.1, h.2.2.1, h.2.2.2]
    exact ⟨gate_open, rfl, rfl, by revert q; decide +kernel⟩
  · have hb : ∀ i ∈ gpassShut, bitOf ((envAt gates).l.field 135 128) ((encOf i).m 62 60) = false := by decide +kernel
    unfold Mach.gateEntry
    simp [hb i hi]

/-! Queues -/

/-- Host link 0 trained, which carries the hosts' accesses. -/
def linked : State → State := onDev fun d => { d with hostLinks := [true, false, false, false] }

/-- Queue 5 of the PF, whose descriptor at 80 names the context at 0x200000, with priority 7 and enabled or not. -/
def queueing (en : Nat) (h : Queue → Queue) : State :=
  put 80 16 (7 + en * 2 ^ 16 + 0x200000 * 2 ^ 64)
    (onMach (fun m => { m with queues := [h { Queue.blank 5 with enabled := true, ctx := 0x200000, prio := 7, begun := true }] }) (linked homed))

/-- The application cores run. -/
def booted : State → State := onDev fun d => { d with bootStep := 7 }

/-- A record: sequence number, kind, and its other fields. -/
def record (seq kind rest : Nat) : BitVec 512 := BitVec.ofNat 512 (seq + kind * 2 ^ 32 + rest)

/-- A launch of one crew of one fibre of 8 registers; a completion record at 0x9000; a dependence on the word at an address. -/
def oneCrew : Nat := 2 ^ 96 + 2 ^ 84 + 2 ^ 66
def completesAt (a : Nat) : Nat := a / 16 * 2 ^ 287
def dependsOn (cmp a v : Nat) : Nat := cmp * 2 ^ 197 + v * 2 ^ 200 + a / 4 * 2 ^ 232

/-- The queue with a record at its head. -/
def headed (head : Head) (r : BitVec 512) : State :=
  queueing 1 fun q => { q with head := head, ring := [r], serials := [4], accepted := 9 }

/-- Room for one more record, and the number wraps; the ring full; another number; a queue not enabled. -/
def roomForOne : State := queueing 1 fun q => { q with ring := List.replicate 255 0, serials := List.replicate 255 0, accepted := 0xFFFFFFFF }
def ringFull : State := queueing 1 fun q => { q with ring := List.replicate 256 0, accepted := 8 }

theorem witness_capture :
    (∀ s ∈ [roomForOne, ringFull, queueing 0 id], Open s 0 5 false ∧ Open (booted s) 0 5 true)
      ∧ (¬ Open (queueing 1 id) 1 5 false ∧ ¬ Open (queueing 1 id) 1 5 true ∧ ¬ Open homed 0 5 false)
      ∧ (∀ p ∈ [(1, oneCrew), (3, 0)],
        (descEnabled (roomForOne.m.queueDesc roomForOne.dev 5) && (roomForOne.m.queue 5).enabled) = true
          ∧ (record 0 p.1 p.2).toNat % 2 ^ 32 = ((roomForOne.m.queue 5).accepted + 1) % 2 ^ 32 ∧ (roomForOne.m.queue 5).ring.length < 256)
      ∧ (descEnabled ((queueing 0 id).m.queueDesc (queueing 0 id).dev 5) && ((queueing 0 id).m.queue 5).enabled) = false
      ∧ ((descEnabled (ringFull.m.queueDesc ringFull.dev 5) && (ringFull.m.queue 5).enabled) = true
        ∧ (record 8 3 0).toNat % 2 ^ 32 ≠ ((ringFull.m.queue 5).accepted + 1) % 2 ^ 32
        ∧ (record 9 3 0).toNat % 2 ^ 32 = ((ringFull.m.queue 5).accepted + 1) % 2 ^ 32 ∧ 256 ≤ (ringFull.m.queue 5).ring.length) := by
  unfold Open; decide +kernel

/-- Records whose dependence is none, that cannot be read, and that does not hold; the word at 0x8000 holds 7. -/
def freeHeads : List (Nat × Nat) := [(1, 0), (3, 0), (2, 2 * 2 ^ 384), (2, 0)]
def unreadable : State := headed .waiting (record 9 1 (dependsOn 1 0 5))
def unmet : State := put 0x8000 4 7 (headed .waiting (record 9 1 (dependsOn 3 0x8000 8)))
def met : State := put 0x8000 4 7 (headed .waiting (record 9 1 (dependsOn 3 0x8000 7)))
/-- The context as its fields stand, or as its header in memory gives it. -/
def viewOf (s : State) : Ctx := s.m.view s.dev (s.m.queue 5).fn (s.m.queue 5).ctx
def wordOf (s : State) : List Loc :=
  match s.m.dispPlace s.dev (viewOf s) 0x8000 4 1 with | .ok l => l | .none => []
def numberOf (s : State) : Nat := ((s.m.queue 5).record).getD 0

theorem witness_dependences :
    (∀ p ∈ freeHeads, let s := headed .waiting (record 9 p.1 p.2)
        HeadIs s 5 .waiting (numberOf s) ∧ (s.m.queue 5).killing = 0 ∧ (s.m.queue 5).ending = 0 ∧ depBad (numberOf s) = false
          ∧ recDepcmp (numberOf s) = 0)
      ∧ ((record 9 1 0).toNat / 2 ^ 32 % 16 = 1 ∧ recBad (record 9 3 0).toNat = false ∧ recBad (record 9 2 (2 * 2 ^ 384)).toNat = false
        ∧ (record 9 2 0).toNat / 2 ^ 32 % 16 ≠ 1 ∧ recBad (record 9 2 0).toNat = true)
      ∧ (∀ s ∈ [unreadable, unmet, met],
        HeadIs s 5 .waiting (numberOf s) ∧ (s.m.queue 5).killing = 0 ∧ (s.m.queue 5).ending = 0 ∧ depBad (numberOf s) = false ∧ recDepcmp (numberOf s) ≠ 0)
      ∧ (unreadable.m.dispPlace unreadable.dev (viewOf unreadable) (recDepaddr (numberOf unreadable)) 4 1 = .none)
      ∧ (∀ s ∈ [unmet, met], s.m.dispPlace s.dev (viewOf s) (recDepaddr (numberOf s)) 4 1 = .ok (wordOf s)
          ∧ depHolds (recDepcmp (numberOf s)) (leNat ((wordOf s).map (s.m.homeRead ((viewOf s).key s.dev)))) (recDepval (numberOf s))
              = decide (recDepval (numberOf s) = 7))
      ∧ (∀ s ∈ [unreadable, unmet, met], RangesGood s 5)
      ∧ (let s := onCtx (fun x => { x with rangesMalformed := true }) (headed .waiting (record 9 1 0))
        ¬ RangesGood s 5 ∧ HeadIs s 5 .waiting (numberOf s))
      ∧ (0 < 2 ^ 32 ∧ 2 ^ 32 - 1 < 2 ^ 32) := by
  unfold HeadIs RangesGood; decide +kernel

/-- A launch with no crew; one of a malformed context; one that runs. -/
def noCrew : State := headed .ready (record 9 1 0)
def misfit : State := onCtx (fun x => { x with malformed := true }) (headed .ready (record 9 1 oneCrew))
def runs : State := headed .ready (record 9 1 oneCrew)
/-- A LAUNCH record of a function whose world closes. -/
def shutting : State :=
  onDev (fun d => d.setFn { d.fnRec 1 with world := .closing }) (onMach (fun m => { m with queues := m.queues.map fun q => { q with fn := 1 } }) runs)
/-- A record done with, its completion record at 0x9000, or nowhere; and a queue to enable. -/
def doneKind (kind a : Nat) : State := headed .retired (record 9 kind (completesAt a))
def done (a : Nat) : State := doneKind 3 a
def notYet : State := queueing 0 fun q => { q with enabled := false }

def released (s : State) : Mach × Bool := s.m.writeBackAll.release s.dev 0x200000 0 5 63 (0, 0)
def releasedView (s : State) : Ctx := (released s).1.view s.dev (s.m.queue 5).fn (s.m.queue 5).ctx
def recordPlace (s : State) : List Loc :=
  match (released s).1.dispPlace s.dev (releasedView s) (recCompl (numberOf s)) 16 2 with | .ok l => l | .none => []

theorem witness_records :
    (notYet.dev.unlockedFn (descFn (notYet.m.queueDesc notYet.dev 5)) = true ∧ (notYet.m.queue 5).enabled = false)
      ∧ (∀ s ∈ [noCrew, misfit, runs], HeadIs s 5 .ready (numberOf s) ∧ numberOf s / 2 ^ 32 % 16 = 1
        ∧ (s.dev.fnRec (s.m.queue 5).fn).world ≠ .closing)
      ∧ (HeadIs shutting 5 .ready (numberOf shutting) ∧ numberOf shutting / 2 ^ 32 % 16 = 1
        ∧ (shutting.dev.fnRec (shutting.m.queue 5).fn).world = .closing)
      ∧ (recBad (numberOf noCrew) = true ∧ misfit.m.unfit misfit.dev (misfit.m.ctx 0x200000) = true
        ∧ recBad (numberOf runs) = false ∧ runs.m.unfit runs.dev (runs.m.ctx 0x200000) = false)
      ∧ (HeadIs (headed .ready (record 9 3 0)) 5 .ready (record 9 3 0).toNat ∧ (record 9 3 0).toNat / 2 ^ 32 % 16 = 3)
      ∧ (∀ a ∈ [0, 0x9000], HeadIs (done a) 5 .retired (numberOf (done a)) ∧ (done a).m.memoriesWf = true ∧ (released (done a)).2 = true
        ∧ (releasedView (done a)).rangesMalformed = false)
      ∧ (∀ s ∈ [done 0x9000, doneKind 1 0x9000], HeadIs s 5 .retired (numberOf s) ∧ s.m.memoriesWf = true ∧ (released s).2 = true
        ∧ (releasedView s).rangesMalformed = false ∧ (released s).1.dispPlace s.dev (releasedView s) (recCompl (numberOf s)) 16 2 = .ok (recordPlace s)
          ∧ (recordPlace s).length = 16 ∧ (recordPlace s).Nodup ∧ (∀ l ∈ recordPlace s, l.space = .hbm)
          ∧ ∀ i < 8, hbmLinear ((s.m.queue 5).ctx + 48 + i) = some (0x200000 + 48 + i) ∧ ∀ l ∈ recordPlace s, (0x200000 + 48 + i) / 128 ≠ l.addr / 128)
      ∧ (let s := done 0
        (released s).1.dispPlace s.dev (releasedView s) (recCompl (numberOf s)) 16 2 = .none) := by
  unfold HeadIs; decide +kernel

/-! Residency -/

/-- Slots 0 to 2^10 - 1, 16 buckets at 0x400000, the ORT at 0x500000, a resident pool of 2 MiB at 0x800000. -/
def ort : BitVec 512 :=
  BitVec.ofNat 512 (10 * 2 ^ 27 + 4 * 2 ^ 22 + 0x500000 * 2 ^ 128 + 0x400000 * 2 ^ 192 + 0x800000 * 2 ^ 256 + 0xA00000 * 2 ^ 320)

/-- The last slot, as its object stands there. -/
def slotLast (h : Slot → Slot) : Slot := h { Slot.unbound 1023 with state := 4, ident := 0x8000000000000123, size := 64, base := 0x20000, home := 0x20000 }
def resident (h : Slot → Slot) (s : State) : State := onCtx (fun x => { x with ort := ort, slots := [slotLast h] }) s

/-- An ORU record of a code for the last slot, at the head of queue 5, with the slot as given. -/
def oru (code : Nat) (h : Slot → Slot) : State := resident h (headed .ready (record 9 2 (code * 2 ^ 384 + 1023 * 2 ^ 448)))
def noSlot (code : Nat) : State := onCtx (fun x => { x with slots := [] }) (oru code id)
def slotIn (s : State) : Slot := ((s.m.ctx 0x200000).slot 1023).getD (Slot.unbound 0)

theorem witness_oru :
    (∀ s ∈ [noSlot 1, oru 1 fun t => { t with state := 2 }], OruHead s 5 1 (numberOf s))
      ∧ (∀ t, oruTarget (noSlot 1) 5 (numberOf (noSlot 1)) = some t → t.state ≠ 4 ∧ t.state ≠ 5)
      ∧ (let s := oru 1 fun t => { t with parked := [(1, 0)] }
        OruHead s 5 1 (numberOf s) ∧ oruTarget s 5 (numberOf s) = some (slotIn s) ∧ (slotIn s).state = 4 ∧ (slotIn s).parked ≠ [])
      ∧ (let s := oru 1 id
        OruHead s 5 1 (numberOf s) ∧ oruTarget s 5 (numberOf s) = some (slotIn s) ∧ (slotIn s).state = 4 ∧ (slotIn s).parked = []
          ∧ (slotIn s).cls = 0 ∧ (slotIn s).fetching = none ∧ s.m.accessesInFlight 0x200000 (oruSlot (numberOf s)) = false
          ∧ s.m.writingBack 0x200000 (oruSlot (numberOf s)) = false)
      ∧ (OruHead (noSlot 2) 5 2 (numberOf (noSlot 2)) ∧ NoneLeaving (noSlot 2) 5 ∧ (noSlot 2).m.reclaimable 0x200000 = [])
      ∧ (let s := oru 2 fun t => { t with state := 2 }
        OruHead s 5 2 (numberOf s) ∧ NoneLeaving s 5 ∧ s.m.reclaimable 0x200000 = [1023] ∧ (s.m.ctx 0x200000).slot 1023 = some (slotIn s) ∧ (slotIn s).state = 2)
      ∧ (OruHead (noSlot 3) 5 3 (numberOf (noSlot 3)) ∧ ∀ t, oruTarget (noSlot 3) 5 (numberOf (noSlot 3)) = some t → t.state ≠ 4) := by
  refine ⟨by unfold OruHead HeadIs; decide +kernel, all_of_none (by decide +kernel) _, by unfold OruHead HeadIs; decide +kernel,
    by unfold OruHead HeadIs; decide +kernel, by unfold OruHead HeadIs NoneLeaving; decide +kernel, by unfold OruHead HeadIs NoneLeaving; decide +kernel,
    by unfold OruHead HeadIs; decide +kernel, all_of_none (by decide +kernel) _⟩

/-- A lookup that is due, with lane 0 waiting; the directory's buckets hold other names but the last one probed, or all do. -/
def looking : State :=
  resident (fun t => { t with state := 1, lookup := true, parked := [(1, 0)], home := 0, size := 0, base := 0 }) homed
def bucket : Nat := bucketOf (looking.m.ctx 0x200000) (slotIn looking)
def entryOf (j : Nat) : Nat := 4096 + 2 ^ 54 + 2 ^ 52 + 7 * 2 ^ 56 + (j + 1) * 2 ^ 64 + 0x20000 * 2 ^ 128
def others : State := (List.range 16).foldl (fun s j => put (0x400000 + 32 * j) 32 (entryOf j) s) looking
def found : State := put (0x400000 + 32 * ((bucket + 7) % 16)) 32 (entryOf 0x8000000000000122) others

/-- A fetch of 64 bytes of class H, and an eviction of a class G copy. -/
def fetching : State := put 0x20000 8 0x1122334455667788 (resident (fun t => { t with state := 3, cls := 1, parked := [(1, 0)] }) homed)
def fetched : List Byte :=
  match fetching.m.fetchSource fetching.dev (fetching.m.ctx 0x200000) (slotIn fetching) 0 64 none with | .bytes b => b | _ => []
/-- The fetch once it has its space. -/
def roomTaken : State := { fetching with m := spaceTaken fetching 0x200000 (slotIn fetching) 0x800000 }
def fetchRuns : List Run :=
  match roomTaken.m.rangeRuns roomTaken.dev (roomTaken.m.ctx 0x200000) 0 0x800000 64 2 false with | .ok r => r | _ => []
def leaving : State := resident (fun t => { t with state := 5 }) homed

theorem witness_lookups :
    (∀ s ∈ [found, others, looking], LookupDue s 0x200000 1023 (slotIn s) ∧ (slotIn s).fetching = none)
      ∧ found.m.probe found.dev (found.m.ctx 0x200000) (slotIn found) bucket none (List.range 8) = .found (entryOf 0x8000000000000122)
      ∧ others.m.probe others.dev (others.m.ctx 0x200000) (slotIn others) bucket none (List.range 8) = .absent
      ∧ looking.m.probe looking.dev (looking.m.ctx 0x200000) (slotIn looking) bucket none (List.range 8) = .absent
      ∧ (let s := fetching
        (s.m.ctx 0x200000).slot 1023 = some (slotIn s) ∧ (slotIn s).state = 3 ∧ (slotIn s).wait = [] ∧ (slotIn s).large = false
          ∧ s.m.fetchSource s.dev (s.m.ctx 0x200000) (slotIn s) 0 (slotIn s).stored none = .bytes fetched
          ∧ (slotIn s).room = none ∧ (s.m.ctx 0x200000).poolFit (slotIn s).stored = some 0x800000
          ∧ roomTaken.m.rangeRuns s.dev (roomTaken.m.ctx 0x200000) 0 0x800000 fetched.length 2 false = .ok fetchRuns)
      ∧ (slotIn roomTaken).room = some (0x800000, 0)
      ∧ (let s := leaving
        (s.m.ctx 0x200000).slot 1023 = some (slotIn s) ∧ (slotIn s).state = 5 ∧ (slotIn s).cls = 0 ∧ (slotIn s).fetching = none
          ∧ s.m.accessesInFlight 0x200000 1023 = false ∧ s.m.writingBack 0x200000 1023 = false) := by
  unfold LookupDue; decide +kernel

/-! Admission -/

/-- Launch 3 of queue 5: crews of 33 fibres of 256 registers and 4096 bytes of scratchpad. -/
def launch3 : Launch :=
  { Launch.blank with id := 3, q := 5, ctx := 0x200000, prio := 7, record := record 9 1 (2 ^ 96 + 33 * 2 ^ 84 + 32 * 2 ^ 66 + 32 * 2 ^ 54) }

/-- Crew 1 of launch 1 with priority 3 on core 0, launch 3 at the head of queue 5, an image pool of 4 MiB. -/
def dispatching (h : Launch → Launch) : State :=
  onCtx (fun x => { x with imageBase := 0x1000000, imageLimit := 0x1400000 })
    (onMach (fun m => { m with launches := [{ Launch.blank with id := 1, q := 9, prio := 3 }, h launch3], nextId := 9 })
      (queueing 1 fun q => { q with head := .running, ring := [launch3.record], serials := [4], accepted := 9 }))
def headOf (s : State) : Launch := (s.m.headLaunch 5).getD .blank
def roomOn (s : State) (k : Nat) : Room := (s.m.room s.dev (headOf s) k).getD ⟨0, 0, 0⟩

/-- The dispatcher's clock. -/
def atClock (t : Nat) (s : State) : State := onMach (fun m => { m with dclock := t }) s
def aging (n : Nat) : State := atClock (2 ^ 20 * (n + 1)) (onMach (fun m => { m with queues := m.queues.map fun q => { q with aged := n } }) (dispatching id))
theorem ages_of {s : State} {Q : Queue} (h : Q.head = .ready ∨ Q.head = .running) (hl : (s.m.headLaunch Q.q).all (fun l => decide (l.admittedAt = none)) = true)
    (h' : Q.prio + Q.aged < Q.cap ∧ Q.readyAt + 2 ^ 20 * (Q.aged + 1) ≤ s.m.dclock) : AgesNow s Q :=
  ⟨h, fun l hq => by rw [hq] at hl; simpa using hl, h'.1, h'.2⟩
def coresident (l : Launch) : Launch := { l with record := l.record ||| BitVec.ofNat 512 (2 ^ 37) }

def bars : State := atClock (2 ^ 22) (dispatching coresident)

theorem witness_admission :
    (∀ k ∈ [0, 1535], (dispatching id).m.room (dispatching id).dev (headOf (dispatching id)) k = some (roomOn (dispatching id) k))
      ∧ Served (dispatching id) 5 (headOf (dispatching id)) ∧ (headOf (dispatching id)).coresident = false
      ∧ (∀ j ∈ (dispatching id).m.launches, j.id = (headOf (dispatching id)).id → j = headOf (dispatching id))
      ∧ (AgesNow (aging 0) ((aging 0).m.queue 5) ∧ AgesNow (aging 39) ((aging 39).m.queue 5) ∧ ¬ AgesNow (aging 40) ((aging 40).m.queue 5))
      ∧ BarsNow bars (bars.m.queue 5)
      ∧ (let s := dispatching id
        let c := s.m.crews.headD (placeCrew 0)
        let q := s.m.queue 5
        s.m.crew 1 = some c ∧ c.stopping = false ∧ (s.m.launch c.launch).coresident = false ∧ q ∈ s.m.queues ∧ s.m.wants q = true
          ∧ (s.m.launch c.launch).prio < s.m.effective q ∧ c.preempted = false)
      ∧ (∀ k, (dispatching id).m.headLaunch ((dispatching id).m.queue 5).q = some k
        → k.id ≠ ((dispatching id).m.launch ((dispatching id).m.crews.headD (placeCrew 0)).launch).id ∧ k.coresident = false) := by
  refine ⟨by decide +kernel, ?_, by decide +kernel, by decide +kernel,
    ⟨ages_of (by decide +kernel) (by decide +kernel) (by decide +kernel), ages_of (by decide +kernel) (by decide +kernel) (by decide +kernel),
      fun h => absurd h.2.2.1 (by decide +kernel)⟩,
    ⟨by decide +kernel, by decide +kernel, all_of_some (a := headOf bars) (by decide +kernel) (by decide +kernel), by decide +kernel,
      headOf bars, by decide +kernel, by decide +kernel⟩, by decide +kernel,
    all_of_some (a := headOf (dispatching id)) (by decide +kernel) (by decide +kernel)⟩
  unfold Served; decide +kernel

/-- A coresident head outranks no crew. -/
theorem witness_notOutranked :
    let s := dispatching coresident
    s.m.crew 1 = some (s.m.crews.headD (placeCrew 0)) ∧ ¬ Outranked s (s.m.crews.headD (placeCrew 0)) := by
  refine ⟨by decide +kernel, ?_⟩
  rintro ⟨Q, hQ, -, -, h⟩
  have hq : ∀ Q ∈ (dispatching coresident).m.queues, (dispatching coresident).m.headLaunch Q.q = some (headOf (dispatching coresident)) := by
    decide +kernel
  have hc : (headOf (dispatching coresident)).coresident = true := by decide +kernel
  rw [(h _ (hq Q hQ)).2] at hc
  cases hc

/-- Crew 1 with nothing left to do, of a launch of two crews of which one has retired; with and without the other crew. -/
def emptyCrew (s : State) : State := onCrew (fun c => { c with gangs := [], fibres := [{ placeFibre with exited := true }] }) s
def lastCrew : State :=
  emptyCrew (onMach (fun m => { m with launches := [{ Launch.blank with id := 1, q := 5, retired := 1, nextCrew := 2, record := record 9 1 (2 * 2 ^ 96) }] })
    (headed .running (record 9 1 (2 * 2 ^ 96))))
def notLast : State := onMach (fun m => { m with crews := m.crews ++ [{ placeCrew 2 with launch := 1, ctx := 0x200000 }] }) lastCrew
def finished (s : State) : Crew := (s.m.crew 1).getD (placeCrew 0)
def launch1 (s : State) : Launch := s.m.launches.headD .blank

/-- A crew that was pre-empted. -/
def preempted : State := onCrew (fun c => { c with preempt := 1, preempted := true, gangs := c.gangs.map fun g => { g with state := .parked .preempt } }) homed

theorem witness_retirement :
    (let c := (preempted.m.crew 1).getD (placeCrew 0)
     preempted.m.crew 1 = some c ∧ c.preempted = true ∧ c.preempt ≠ 0 ∧ c.stopped = false
        ∧ (preempted.m.launch c.launch).coresident = false ∧ (preempted.m.ctx c.ctx).held = false)
      ∧ (∀ s ∈ [lastCrew, notLast], Finished s (finished s) ∧ (finished s).id = 1 ∧ launch1 s ∈ s.m.launches ∧ (launch1 s).id = (finished s).launch
        ∧ (∀ k ∈ s.m.launches, k.id = (launch1 s).id → k = launch1 s) ∧ (launch1 s).killed = false ∧ (launch1 s).failed = false)
      ∧ (∃ k ∈ notLast.m.crews, k.launch = (launch1 notLast).id ∧ k.id ≠ (finished notLast).id)
      ∧ (∀ k ∈ lastCrew.m.crews, k.launch = (launch1 lastCrew).id → k.id = (finished lastCrew).id)
      ∧ (launch1 lastCrew).retired + 1 = (launch1 lastCrew).ncrews := by
  unfold Finished; decide +kernel

/-- A coresident launch with no room for an image; crews 1 and 2 of a coresident launch of lower priority, at work and pre-empted. -/
def shut : State := onCtx (fun x => { x with imageLimit := x.imageBase }) (dispatching coresident)
def pairCrews (h : Crew → Crew) : State :=
  onMach (fun m => { m with
      crews := [h (placeCrew 1), h { placeCrew 2 with launch := 1 }].map fun c => { c with ctx := 0x200000 }
      launches := [coresident { Launch.blank with id := 1, q := 9, prio := 3 }, launch3] }) (dispatching id)
def parkedCrew (c : Crew) : Crew := { c with preempt := 1, preempted := true }

theorem together_in {s : State} {c e : Crew} (h : Together s c e) : e ∈ s.m.crews := List.mem_of_find?_eq_some h.1

theorem witness_dispatcherSteps :
    (Served shut 5 (headOf shut) ∧ (headOf shut).coresident = true ∧ shut.m.couldFit shut.dev (headOf shut) = false)
      ∧ ((pairCrews id).m.crew 1 = some (finished (pairCrews id)) ∧ Outranked (pairCrews id) (finished (pairCrews id))
        ∧ (∃ e, Together (pairCrews id) (finished (pairCrews id)) e ∧ e.id = 2 ∧ e.stopped = false ∧ e.preempt = 0 ∧ e.preempted = false))
      ∧ (pairCrews parkedCrew).m.crew 1 = some (finished (pairCrews parkedCrew)) ∧ ((pairCrews parkedCrew).m.crews.map (·.id)).Nodup
      ∧ ((pairCrews parkedCrew).m.ctx (finished (pairCrews parkedCrew)).ctx).held = false
      ∧ ∀ e, Together (pairCrews parkedCrew) (finished (pairCrews parkedCrew)) e → e.preempted = true ∧ e.preempt ≠ 0 ∧ e.stopped = false := by
  refine ⟨by unfold Served; decide +kernel, ⟨by decide +kernel, ⟨(pairCrews id).m.queue 5, by decide +kernel, by decide +kernel, by decide +kernel,
    all_of_some (a := headOf (pairCrews id)) (by decide +kernel) (by decide +kernel)⟩, ((pairCrews id).m.crew 2).getD (placeCrew 0), ?_⟩,
    by decide +kernel, by decide +kernel, by decide +kernel, fun e h => ?_⟩
  · unfold Together; decide +kernel
  · have hc : ∀ e ∈ (pairCrews parkedCrew).m.crews, e.preempted = true ∧ e.preempt ≠ 0 ∧ e.stopped = false := by decide +kernel
    exact hc e (together_in h)

/-! Steps of gangs -/

/-- The gang at a header at 0x8000 of a clause of one NOP; with waits for loads, of which one is pending; with a reserved bit. -/
def atHeader (waits : Nat) (h : Gang → Gang) : State :=
  put 0x8000 8 (2 ^ 31 + 0x3C00 + 16 + waits) (put 0x8008 4 0x0000F6C0
    (onGang (fun g => h { g with hdr := 0x8000, begun := false, header := 0 }) (onFibre (fun f => { f with pend := [⟨.reg 7, 1, false, 1⟩] }) homed)))
def headerAt (s : State) : Nat :=
  match s.m.clauseCheck (envAt s).d (envAt s).x (envAt s).cluster (envAt s).g.hdr with | .ok h => h | _ => 0

theorem witness_clauseStart :
    (∀ s ∈ [atHeader 0 id, atHeader (2 ^ 26) id, atHeader 0 fun g => { g with state := .held true }],
        AtHeader s ⟨1, 0⟩ (envAt s) ∧ (envAt s).g.header = 0
          ∧ s.m.clauseCheck (envAt s).d (envAt s).x (envAt s).cluster (envAt s).g.hdr = .ok (headerAt s))
      ∧ ((atHeader 0 id).m.waitsHold (envAt (atHeader 0 id)).c (envAt (atHeader 0 id)).g (headerAt (atHeader 0 id)) = true
        ∧ (atHeader (2 ^ 26) id).m.waitsHold (envAt (atHeader (2 ^ 26) id)).c (envAt (atHeader (2 ^ 26) id)).g (headerAt (atHeader (2 ^ 26) id)) = false)
      ∧ (∀ p ∈ [(2 ^ 14, 0x200), (2 ^ 30, 0x100)], AtHeader (atHeader p.1 id) ⟨1, 0⟩ (envAt (atHeader p.1 id)) ∧ (envAt (atHeader p.1 id)).g.header = 0
        ∧ (atHeader p.1 id).m.clauseCheck (envAt (atHeader p.1 id)).d (envAt (atHeader p.1 id)).x (envAt (atHeader p.1 id)).cluster
            (envAt (atHeader p.1 id)).g.hdr = .trap 3 p.2)
      ∧ (0 < 2 ^ 64 ∧ 2 ^ 64 - 1 < 2 ^ 64 ∧ 2 ^ 31 + 16 < 2 ^ 64 ∧ 2 ^ 31 + 48 * 16 < 2 ^ 64 ∧ 2 ^ 31 + 49 * 16 < 2 ^ 64) := by
  have h : ∀ s ∈ [atHeader 0 id, atHeader (2 ^ 26) id, atHeader 0 (fun g => { g with state := .held true }), atHeader (2 ^ 14) id, atHeader (2 ^ 30) id],
      AtHeader s ⟨1, 0⟩ (envAt s) := by
    intro s hs
    unfold AtHeader
    refine ⟨by revert s; decide +kernel, by revert s; decide +kernel, by revert s; decide +kernel, by revert s; decide +kernel,
      by revert s; decide +kernel, ?_⟩
    have : (envAt s).g.state = .ready ∨ (envAt s).g.state = .held true := by revert s; decide +kernel
    exact this.imp id fun q => ⟨true, q⟩
  refine ⟨fun s hs => ⟨h s ?_, ?_⟩, by decide +kernel, fun p hp => ⟨h _ ?_, ?_⟩, by decide +kernel⟩
  · simp only [List.mem_cons, List.not_mem_nil, or_false] at hs ⊢
    rcases hs with hs | hs | hs <;> simp [hs]
  · revert s; decide +kernel
  · simp only [List.mem_cons, List.not_mem_nil, or_false] at hp
    rcases hp with rfl | rfl <;> simp
  · revert p; decide +kernel

/-- Two lanes in two gangs that wait at one header until clock 7, which it is. -/
def waiting2 : State :=
  onMach (fun m => { m with dclock := 7 }) (onCrew (fun c => { c with
    gangs := [{ placeGang with idx := 0, begun := false, header := 0, state := .regroup 7 },
      { placeGang with id := 1, mask := 2, idx := 0, begun := false, header := 0, state := .regroup 9 }] }) (twoLanes stand))

/-- Bin 15, whose timer is due at clock 7, of a crew without and with a free course. -/
def bin15 : SpringBin :=
  { n := 15, key := 0x8000, fibres := [⟨List.replicate 8 3, 0⟩], ready := false, deadline := 7, remaining := 0, rank := 0 }
def binned (limit : Nat) : State := onMach (fun m => { m with dclock := 7 }) (onCrew (fun c => { c with bins := [bin15], limit := limit }) stand)
def theCrew (s : State) : Crew := s.m.crews.headD (placeCrew 0)

/-- A pre-emption latched at clock 3, 65536 clocks ago. -/
def latched : State := onMach (fun m => { m with dclock := 65539 }) (onFibre (fun f => { f with latched := some 3, masked := true }) stand)

/-- Eight active gangs, of which the last may leave, and a pending one. -/
def fullCore (h : Gang → Gang) : State :=
  onCrew (fun c => { c with
    gangs := (List.range 7).map (fun k => { placeGang with id := k, course := k })
      ++ [h { placeGang with id := 7, course := 7 }, { placeGang with id := 8, course := 8, place := .pending }] }) stand

theorem witness_gangSteps :
    (let s := waiting2;
      s.m.crew 1 = some (theCrew s) ∧ (theCrew s).gang 0 = some ((theCrew s).gangs.headD placeGang)
        ∧ ((theCrew s).gangs.headD placeGang).state = .regroup 7 ∧ 7 ≤ s.m.clock (theCrew s).core
        ∧ ∃ o ∈ (theCrew s).gangs, ((theCrew s).gangs.headD placeGang).meets o = true ∧ o.regrouping = true)
      ∧ (∀ n ∈ [32, 64], (binned n).m.crew 1 = some (theCrew (binned n)) ∧ (theCrew (binned n)).stopping = false
        ∧ bin15 ∈ (theCrew (binned n)).bins ∧ bin15.deadline ≤ (binned n).m.clock (theCrew (binned n)).core ∧ (theCrew (binned n)).bins = [bin15])
      ∧ (theCrew (binned 32)).freeCourse = none ∧ (theCrew (binned 64)).freeCourse = some 1
      ∧ (let s := latched
        s.m.env s.dev ⟨1, 0⟩ = some (envAt s) ∧ fibreAt s ∈ (envAt s).lanes ∧ (fibreAt s).latched = some 3
          ∧ 3 + 65536 ≤ s.m.clock (envAt s).c.core ∧ (envAt s).g.wake = .none)
      ∧ ∀ s ∈ [fullCore fun g => { g with state := .parked .object }, fullCore fun g => { g with state := .held true, waited := 65 },
          fullCore fun g => { g with begun := false, issued := 4096 }],
        s.m.crew 1 = some (theCrew s) ∧ s.m.dueIn 0 = some (1, { placeGang with id := 8, course := 8, place := .pending })
          ∧ (theCrew s).core = 0 ∧ 4 ≤ s.m.placed 0 .active ∧ (theCrew s).gang 7 = some ((theCrew s).gangs.getD 7 placeGang)
          ∧ ((theCrew s).gangs.getD 7 placeGang).mayLeave = true := by decide +kernel

/-! Services and fault records -/

/-- Two lanes of a gang stopped at an SVC; 62 of the ring's 64 entries in use, and the producer index about to wrap. -/
def serving : State :=
  put 0x200070 8 (0xFFFFFFFF + (0xFFFFFFFF - 62) * 2 ^ 32) (onCtx (fun x => { x with ring := BitVec.ofNat 256 (6 + 0x300000 * 2 ^ 192) })
    (onGang (fun g => { g with ringWait := some (1, 9, 8), state := .parked .svc, wake := .ring })
      (onMach (fun m => { m with nextToken := 0xFFFFFFFF }) (twoLanes homed))))

/-- The last entry of a stopped gang, its response in memory; the launch of the crew. -/
def lastEntry : RingReq := { token := 77, ctx := 0x200000, crew := 1, gang := 0, kind := 1, slot := 0, vd := 8, entry := 0x300000, order := 0 }
def answering : State :=
  put 0x300000 16 0x11112222333344445555666677778888 (onGang (fun g => { g with state := .parked .svc, wake := .ring })
    (onMach (fun m => { m with rings := [lastEntry], launches := [{ Launch.blank with id := 1 }] }) (linked homed)))

/-- A written record of a load's fault in lane 0, which is parked on it. -/
def faultRec (written : Bool) (fn : Nat) : FaultRec :=
  { token := 5, ctx := 0x200000, fn := fn, va := 2 ^ 57 - 1, req := 0, cause := 1, access := 1, level := 0, core := 0, joined := [.lane 1 0], written := written }
def faulting : State :=
  onGang (fun g => { g with state := .parked .translation, wake := .fault 5 }) (onMach (fun m => { m with faults := [faultRec true 0] }) (linked homed))

/-- Function 3's fault queue with one place left: 64 records at 0x640000, or 65536 at 0x800000. -/
def faultDue (n base : Nat) : State :=
  put 0x600060 32 (n + 0xFFFFFFFF * 2 ^ 128 + (2 ^ 32 - 2 ^ n) * 2 ^ 160 + base * 2 ^ 192)
    (onMach (fun m => { m with faults := [faultRec true 3, faultRec false 3] }) (onDev (fun d => { d with faultTable := 0x600000 }) homed))
def faultDesc (s : State) : Nat := s.m.physNat (s.dev.fnKey 0) 0x600060 32

theorem witness_services :
    (let s := serving
     let E := envAt s
     s.m.env s.dev ⟨1, 0⟩ = some E ∧ E.c.requests E.g ≠ []
      ∧ (s.m.headerNat s.dev E.x 0x70 4 + 2 ^ 32 - s.m.headerNat s.dev E.x 0x74 4) % 2 ^ 32 + (E.c.requests E.g).length ≤ 2 ^ (E.x.ring.toNat % 32)
      ∧ (∀ i < (E.c.requests E.g).length, s.m.ringOpen s.dev E.x.viaRing
          (E.x.ringBase + 64 * ((s.m.headerNat s.dev E.x 0x70 4 + i) % 2 ^ (E.x.ring.toNat % 32))) 64 = true)
      ∧ Linear E.x.addr 0x80 ∧ s.m.memoriesWf = true
      ∧ ∀ c ∈ s.m.crews, c.ctx = E.x.addr → ∀ g ∈ c.gangs, g.ringWait ≠ none → E.g.ringAt ≤ g.ringAt)
      ∧ (let s := answering
        RingNamed s 0 77 lastEntry (theCrew s) ∧ lastEntry.kind = 1 ∧ (theCrew s).preempted = false ∧ (theCrew s).fibre 0 = some (fibreAt s)
          ∧ (theCrew s).gang 0 = some (envAt s).g ∧ (∀ q ∈ s.m.rings, q.token ≠ (77 : BitVec 32).toNat → ¬ (q.crew = 1 ∧ q.gang = 0))
          ∧ s.m.launches.find? (fun q => q.id == (theCrew s).launch) = some { Launch.blank with id := 1 } ∧ Launch.blank.killed = false) := by
  unfold RingNamed Linear; decide +kernel

theorem witness_faultRecords :
    FaultNamed faulting 0 5 (faultRec true 0)
      ∧ ∀ p ∈ [(6, 0x640000), (16, 0x800000)], let s := faultDue p.1 p.2
        let prod := faultDesc s / 2 ^ 128 % 2 ^ 32
        let cell := faultDesc s / 2 ^ 192 + 32 * (prod % 2 ^ (faultDesc s % 32))
        s.m.faults.find? (fun q => q.fn == (3 : BitVec 7).toNat && !q.written) = some (faultRec false 3)
          ∧ s.dev.faultTable + 32 * (3 : BitVec 7).toNat = 0x600060 ∧ 6 ≤ faultDesc s % 32 ∧ faultDesc s % 32 ≤ 16
          ∧ (prod + 2 ^ 32 - faultDesc s / 2 ^ 160 % 2 ^ 32) % 2 ^ 32 < 2 ^ (faultDesc s % 32) ∧ (faultDesc s).testBit 5 = false
          ∧ s.m.memoriesWf = true ∧ Linear 0x600060 32 ∧ Linear cell 32 ∧ LinesApart cell 32 (0x600060 + 16) 4 := by
  refine ⟨⟨by decide +kernel, fun q hq => ⟨1, 0, ?_⟩⟩, by unfold Linear LinesApart; decide +kernel⟩
  revert q; decide +kernel

/-! Management registers and walks -/

/-- The last page of the address space, through five tables, from a context without a translation. -/
def walked : State :=
  put 0x700FF8 8 (2 ^ 62 + 0x701000) (put 0x701FF8 8 (2 ^ 62 + 0x702000) (put 0x702FF8 8 (2 ^ 62 + 0x703000) (put 0x703FF8 8 (2 ^ 62 + 0x704000)
    (put 0x704FF8 8 (2 ^ 63 + 2 ^ 57 + 0x10000 + 7) (onCtx (fun x => { x with root := 0x700000 }) homed)))))
def leafOf (s : State) : Leaf :=
  match s.m.walk s.dev (s.dev.fnKey 0) (2 ^ 57 - 1) 0x700000 [4, 3, 2, 1, 0] with | .leaf l => l | _ => ⟨0, 0, 0, 0, false, 0, 0, 0⟩

/-- Two pages of a context without crews in the cluster's cache, and one page of another; a shootdown of one page, and of all. -/
def page (ctx p : Nat) : Tlb := ⟨0, ctx, p, 4096, 0x10000, 1, false, 7, 0, 0⟩
def shoot (pages : Nat) : BitVec 256 := BitVec.ofNat 256 (9 * 8 + 0x300 * 2 ^ 19 + pages * 2 ^ 64 + 0x5000 * 2 ^ 128 + 0x9000 * 2 ^ 192)
def shooting (ok : Bool) (pages : Nat) : State :=
  onMach (fun m => { m with
    tlb := [page 0x300000 0x5000, page 0x300000 0x6000, page 0x400000 0x5000], invals := [⟨0, shoot pages, ok⟩] }) (linked homed)

/-- The PF owns the context: queue 5 names it. The page not to be written, and the table that the walk ends at not valid. -/
def owned : State := queueing 1 id
def readOnly : State := put 0x704FF8 8 (2 ^ 63 + 2 ^ 57 + 0x10000 + 1) walked
def cutOff : State := put 0x703FF8 8 0 walked

theorem witness_management :
    (owned.dev.answers 0 = true ∧ owned.m.ownedBy owned.dev (4096 * (0x200 : BitVec 45).toNat) 0 = true
        ∧ (owned.m.crews.map (·.id)).Nodup ∧ ∀ c ∈ owned.m.crews, c.ctx = 4096 * (0x200 : BitVec 45).toNat → c.preempted = false)
      ∧ (let s := onCrew (fun c => { c with preempt := 2, preempted := true }) owned
        s.m.ownedBy s.dev (4096 * (0x200 : BitVec 45).toNat) 0 = true
          ∧ ∀ c ∈ s.m.crews, c.ctx = 4096 * (0x200 : BitVec 45).toNat → c.preempted = true)
      ∧ (∀ p ∈ [(false, 0), (true, 0), (true, 1)], let s := shooting p.1 p.2
        s.m.invals.find? (fun q => q.fn == (0 : BitVec 7).toNat) = some ⟨0, shoot p.2, p.1⟩
          ∧ (∀ c ∈ s.m.crews, c.ctx ≠ 4096 * ((shoot p.2).toNat / 2 ^ 19 % 2 ^ 45))
          ∧ (s.m.writeBackAll.homeContext s.dev (0 : BitVec 7).toNat (4096 * ((shoot p.2).toNat / 2 ^ 19 % 2 ^ 45))).2 = true)
      ∧ (let s := walked
        s.m.requesterPlace (.lane 1 0) = some (0x200000, 0) ∧ 4096 ≤ 2 ^ 57 - 1
          ∧ (∀ r ∈ (s.m.ctx 0x200000).ranges, ¬ (r.base ≤ 2 ^ 57 - 1 ∧ 2 ^ 57 - 1 < r.limit)) ∧ (s.m.ctx 0x200000).root = 0x700000
          ∧ s.dev.fnKey (s.m.ctx 0x200000).fn = s.dev.fnKey 0 ∧ s.m.walk s.dev (s.dev.fnKey 0) (2 ^ 57 - 1) 0x700000 [4, 3, 2, 1, 0] = .leaf (leafOf s)
          ∧ s.m.tlb = [] ∧ permits (leafOf s).perm 1 = true ∧ (match placeOf s 0x200000 (leafOf s) (2 ^ 57 - 1) 1 with | .ok _ => true | _ => false) = true)
      ∧ (readOnly.m.walk readOnly.dev (readOnly.dev.fnKey 0) (2 ^ 57 - 1) 0x700000 [4, 3, 2, 1, 0] = .leaf (leafOf readOnly)
          ∧ permits (leafOf readOnly).perm 2 = false)
      ∧ cutOff.m.walk cutOff.dev (cutOff.dev.fnKey 0) (2 ^ 57 - 1) 0x700000 [4, 3, 2, 1, 0] = .fault 1 1
      ∧ (∀ v ∈ [0, 48 * (48 * 2 ^ 30) - 4096], (BitVec.ofNat 128 v).toNat % 4096 = 0 ∧ Linear (BitVec.ofNat 128 v).toNat 1)
      ∧ (4095 : BitVec 128).toNat % 4096 ≠ 0 ∧ owned.dev.answers (96 : BitVec 7).toNat = true ∧ (0x7FF0 : BitVec 16).toNat < 0x7FF8 := by
  unfold Linear; decide +kernel

/-! Copies and transfers -/

/-- Four bytes from 0x8000 to the end of the room before the gauge at 4080; the gauge counts it. -/
def copyLast (g : Option Nat) : CpaCopy := { copy0 with dst := 4076, gauge := g }
def copyOf (g : Option Nat) : State := put 0x8000 4 0x11223344 (onCrew (fun c => { c with copies := [copyLast g] }) gauged)
/-- The same with its stack retired. -/
def copyLost : State := onDev (fun d => { d with retiredStacks := [0] }) (copyOf none)

theorem witness_copiesEnd :
    (∀ s ∈ [copyOf none, copyLost], CopyOf s 1 1 (theCrew s) (copyLast none))
      ∧ CopyOf (copyOf (some 4080)) 1 1 (theCrew (copyOf (some 4080))) (copyLast (some 4080))
      ∧ (∀ s ∈ [copyOf none, copyOf (some 4080)], (runLocs copy0.src).any s.dev.unreadable = false ∧ PlainScratch s 4076 4)
      ∧ (GaugeApart (copyOf (some 4080)) 4080 4076 4
        ∧ (theCrew (copyOf (some 4080))).copies.filter (fun q => q.exec == 1 && q.gauge == some 4080) = [copyLast (some 4080)])
      ∧ (runLocs copy0.src).any copyLost.dev.unreadable = true ∧ (theCrew copyLost).fibre 0 = some (fibreAt copyLost) := by
  unfold CopyOf PlainScratch GaugeApart; decide +kernel

/-- The same with its source in another context's part of the chip window; and across the fabric, with and without a port. -/
def copyFrom (r : Run) : State :=
  onCrew (fun c => { c with copies := [{ copyLast none with src := [r] }] }) (onDev (fun d => { d with ports := List.replicate 8 true }) gauged)
def copyElsewhere : State := copyFrom ⟨⟨.scr, 0x10000⟩, 4, .g, none, 0⟩
def copyFar : State := copyFrom ⟨fabLoc 3 99 64, 4, .f, some (3, 99, 64), 0⟩
def copyCut : State := onDev (fun d => { d with ports := List.replicate 8 false }) copyFar
def firstCopy (s : State) : CpaCopy := (theCrew s).copies.headD (copyLast none)

theorem witness_farCopies :
    (∀ s ∈ [copyOf none, copyOf (some 4080)], Readable s (theCrew s) (firstCopy s))
      ∧ (∀ s ∈ [copyLost, copyElsewhere], CopyOf s 1 1 (theCrew s) (firstCopy s) ∧ ¬ Readable s (theCrew s) (firstCopy s) ∧ (firstCopy s).gauge = none)
      ∧ (∀ s ∈ [copyFar, copyCut], FarCopy s 1 1 (theCrew s) (firstCopy s) ∧ (firstCopy s).gauge = none)
      ∧ ((firstCopy copyFar).size ≤ [(1 : Byte), 2, 3, 4].length ∧ copyFar.dev.reaches (firstCopy copyFar).src = true
        ∧ copyFar.m.ownsRuns (theCrew copyFar).ctx (firstCopy copyFar).src = true ∧ PlainScratch copyFar (firstCopy copyFar).dst (firstCopy copyFar).size)
      ∧ copyCut.dev.reaches (firstCopy copyCut).src = false := by
  unfold Readable CopyOf FarCopy PlainScratch; decide +kernel

/-- A channel without tokens is what is left of it once they have lapsed. -/
theorem lapsed_of {s : State} {crew ch : Nat} {c : Crew} {h : Channel} (h1 : ChannelOf s crew ch c h) (h2 : h.lapse s.m.dclock = h) :
    Lapsed s crew ch c h := ⟨h, h1, h2.symm⟩

/-- A record of 40 bytes from 0x8000 to 0x9000, its gauge at 4080 of the scratchpad, the next record, and whether it is valid. -/
def transfer (next : Nat) (valid : Bool) : Nat :=
  next + 0x8000 * 2 ^ 64 + 0x9000 * 2 ^ 128 + 40 * 2 ^ 192 + 4080 * 2 ^ 256 + 2 ^ 376 + (if valid then 2 ^ 383 else 0) + 5 * 2 ^ 440 + 9 * 2 ^ 448

/-- Channel 7 at the record, not yet read, or read with some bytes moved. -/
def channelAt (next : Nat) (valid : Bool) (body : Option (BitVec 512)) (moved state : Nat) : State :=
  put 0x8000 40 (2 ^ 319 + 7) (put 0xC000 64 (transfer next valid)
    (onCrew (fun c => { c with channels := [{ channel0 with n := 7, body := body, moved := moved, sent := moved, state := state }] }) gauged))
def channelIn (s : State) : Channel := (theCrew s).channels.headD channel0
def ctxIn (s : State) : Ctx := through s (theCrew s) 1 7
def recordRuns (s : State) (access : Nat) : List Run :=
  match s.m.rangeRuns s.dev (ctxIn s) ((theCrew s).core / 4) 0xC000 64 access true with | .ok r => r | _ => []
def recordIn (s : State) : Nat := leNat ((runLocs (recordRuns s 1)).map (s.m.homeRead ((s.m.ctx (theCrew s).ctx).key s.dev)))
def sideIn (s : State) (a access : Nat) : Acc :=
  match s.m.side s.dev (ctxIn s) ((theCrew s).core / 4) (channelIn s) a 40 32 8 access with | .ok r => r | _ => .none
def bodyOf (next : Nat) : BitVec 512 := BitVec.ofNat 512 (transfer next true)
def moving : State := channelAt 0 true (some (bodyOf 0)) 32 2

theorem witness_transfers :
    (∀ v ∈ [false, true], let s := channelAt 0 v none 0 1
      ChannelOf s 1 7 (theCrew s) (channelIn s) ∧ (channelIn s).body = none
        ∧ s.m.rangeRuns s.dev (ctxIn s) ((theCrew s).core / 4) (channelIn s).record 64 1 true = .ok (recordRuns s 1)
        ∧ (runLocs (recordRuns s 1)).any s.dev.unreadable = false
        ∧ (recordIn s).testBit 383 = v ∧ s.m.recRkey s.dev (ctxIn s) ((theCrew s).core / 4) (recordIn s) = none) := by
  unfold ChannelOf Runs; decide +kernel

/-- The states above, and the channel with a token that lapses by now. -/
theorem witness_lapsed :
    (∀ s ∈ [channelAt 0 false none 0 1, channelAt 0 true none 0 1, moving], (channelIn s).lapse s.m.dclock = channelIn s)
      ∧ { channel0 with granted := 30, grants := [(0, 10), (9, 5)] }.lapse 0 = { channel0 with granted := 20, grants := [(9, 5)] } := by
  decide +kernel

/-- The same with its source across the fabric, through window 0: without a window table, with one whose entry gives key 99, and with one
that a retired stack holds. -/
def fromFabric (table : Nat) : State :=
  put 0xD000 8 (2 ^ 63 + 99) (put 0xC000 64 (transfer 0 true - 0x8000 * 2 ^ 64 + 2 ^ 62 * 2 ^ 64)
    (onCtx (fun x => { x with fabric := BitVec.ofNat 512 (table + 0xD000 * 2 ^ 384) }) (channelAt 0 true none 0 1)))

def fromRetired : State :=
  onDev (fun d => { d with retiredStacks := [1] })
    (onCtx (fun x => { x with fabric := BitVec.ofNat 512 (1 + 2 ^ 30 * 2 ^ 384)
                              ranges := ⟨2 ^ 30, 2 ^ 30 + 4096, 48 * 2 ^ 30, 1, false, 7, 0, 0⟩ :: x.ranges }) (fromFabric 1))

theorem witness_fabricRecords :
    ∀ p ∈ [(fromFabric 0, RkeyRes.bad), (fromFabric 1, .ok 99), (fromRetired, .unreadable)], let s := p.1
      ChannelOf s 1 7 (theCrew s) (channelIn s) ∧ (channelIn s).body = none
        ∧ s.m.rangeRuns s.dev (ctxIn s) ((theCrew s).core / 4) (channelIn s).record 64 1 true = .ok (recordRuns s 1)
        ∧ (recordIn s).testBit 383 = true ∧ s.m.recRkey s.dev (ctxIn s) ((theCrew s).core / 4) (recordIn s) = some p.2 := by
  unfold ChannelOf Runs; decide +kernel

theorem witness_packets :
    (let s := moving
     let h := channelIn s
     let r := (bodyOf 0).toNat
     let sa := sideIn s 0x8000 1
     let da := sideIn s 0x9000 2
     ChannelOf s 1 7 (theCrew s) h ∧ h.body = some (bodyOf 0) ∧ h.status = 0 ∧ s.m.fabOut = [] ∧ recRekey r = false ∧ h.packetLen r 4096 = 8
       ∧ h.sent < recLen r ∧ h.moved = h.sent ∧ s.m.issuesAfter (theCrew s) h = false
       ∧ s.m.side s.dev (ctxIn s) ((theCrew s).core / 4) h (recSrc r) (recLen r) h.sent 8 1 = .ok sa
       ∧ s.m.side s.dev (ctxIn s) ((theCrew s).core / 4) h (recDst r) (recLen r) h.sent 8 2 = .ok da
       ∧ sa.fab = none ∧ da.fab = none ∧ InHbm s da 8 ∧ (runLocs sa.runs).length = 8 ∧ ∀ r ∈ da.runs, r.loc.space = .hbm) := by
  unfold ChannelOf Runs InHbm; decide +kernel

theorem witness_recordsDone :
    ∀ n ∈ [0, 0xC040], let s := channelAt n true (some (bodyOf n)) 40 1
        let h := channelIn s
        let r := (bodyOf n).toNat
        ChannelOf s 1 7 (theCrew s) h ∧ h.body = some (bodyOf n) ∧ h.status = 0 ∧ s.m.packetsOut 1 7 = false ∧ recLen r ≤ h.moved
          ∧ s.m.memoriesWf = true ∧ s.m.rangeRuns s.dev (ctxIn s) ((theCrew s).core / 4) h.record 64 2 true = .ok (recordRuns s 2)
          ∧ (runLocs (recordRuns s 2)).length = 64 ∧ (runLocs (recordRuns s 2)).Nodup ∧ (∀ l ∈ runLocs (recordRuns s 2), l.space = .hbm)
          ∧ recNamesGauge r = true ∧ s.m.recGauge s.dev (ctxIn s) (theCrew s) r = some 4080 ∧ (s.m.gauge 4080).valid = true := by
  unfold ChannelOf Runs; decide +kernel

/-! Posts -/

/-- A post of the crew's gang on core 0. -/
def postOf (id : Nat) (op : PostOp) : Post :=
  { id := id, crew := 1, gang := 0, lanes := [0], slot := 0, stream := 0, core := 0, acc := some 2, sslot := some 1, pair := false, prio := 0
    entered := 0, aged := false, started := false, stopped := false, worked := false, failed := false, step := 0, gauge := none, op := op }
/-- The two lanes' rows of the dense integer product of format 6, K = 384, and the slot's columns. -/
def rowsA : KeptA :=
  { afmt := 6, block := 0, scale := 0, asp := false, mask := 3, spilled := false
    rows := [(0, List.replicate 96 0x01010101, [], []), (31, List.replicate 96 0x7F80FF01, [], [])] }
def intWord : Nat := 6 + 6 * 16 + 2 ^ 14
def mmaOp : PostOp := .mma intWord true false false rowsA []
def mmaPost : Post := postOf 3 mmaOp

def posts (l : List Post) : State :=
  onMach (fun m => { m with posts := l, dclock := 4097, sslots := [{ slotOf 0 1 false 384 with fmt := 6, codes := List.replicate 384 0x81 }] }) array
def postAt (s : State) (id : Nat) : Post := (s.m.posts.find? fun q => q.id == id).getD (postOf 0 .bldFree)

/-- Alone; beside a younger one that shares; behind an older one that shares its tile. -/
def alone : State := posts [mmaPost]
def before : State := posts [mmaPost, postOf 4 mmaOp]
def behind : State := posts [postOf 2 (.azero true false), mmaPost]
def loadPost : State := posts [postOf 3 .bldFree]

/-- Behind a pair post of the partner core that runs. -/
def partnerPair : State := posts [{ postOf 2 mmaOp with core := 1, acc := some 3, sslot := some 0, pair := true, started := true }, mmaPost]

/-- A pair post, alone; one whose destination's host page is mapped no longer; and two of equal rank, of which one has aged. -/
def pairPost : State := posts [{ mmaPost with acc := some 3, sslot := some 0, pair := true }]
def stalePost : State := posts [postOf 3 (.dq [1] ⟨[⟨⟨.host, 0x8000⟩, 1, .h, none, 8⟩], none⟩)]
def otherPost : Post := { postOf 2 .bldFree with acc := none, sslot := some 0, prio := 7, entered := 4000 }
def aged : State := posts [otherPost, { mmaPost with sslot := none, op := .azero true false, aged := true }]
def longWait : State := onMach (fun m => { m with dclock := 4098 }) (posts [otherPost, { mmaPost with sslot := none, op := .azero true false }])

def agedNow (s : State) (p : Post) : Bool := p.aged || decide (p.entered + 4096 < s.m.clock p.core)
theorem aged_iff (s : State) (p : Post) : Aged s p ↔ agedNow s p = true := by simp [Aged, agedNow]
def first (s : State) (p q : Post) : Bool :=
  (agedNow s p && !agedNow s q) || (agedNow s p == agedNow s q && decide (q.prio < p.prio ∨ (p.prio = q.prio ∧ p.id ≤ q.id)))
theorem precedes_of {s : State} {p q : Post} (h : first s p q = true) : Precedes s p q := by
  unfold Precedes
  rw [aged_iff, aged_iff]
  unfold first at h
  revert h
  cases agedNow s p <;> cases agedNow s q <;> simp

theorem witness_precedes :
    ∀ s ∈ [alone, before, loadPost, pairPost, aged, longWait], ∀ q ∈ s.m.posts, s.m.postReady q = true →
      q.cores.any (postAt s 3).cores.contains = true → Precedes s (postAt s 3) q := by
  have h : ∀ s ∈ [alone, before, loadPost, pairPost, aged, longWait], ∀ q ∈ s.m.posts, first s (postAt s 3) q = true := by decide +kernel
  exact fun s hs q hq _ _ => precedes_of (h s hs q hq)

theorem witness_postGrant :
    (∀ s ∈ [alone, before, behind, loadPost, pairPost, stalePost, aged, longWait],
        PostOf s 3 (postAt s 3) ∧ (postAt s 3).started = false ∧ s.m.postRuns (postAt s 3) = true)
      ∧ (∀ s ∈ [alone, before, loadPost, pairPost, aged, longWait], (∀ q ∈ s.m.posts, q.id < (postAt s 3).id → (postAt s 3).shares q = false)
        ∧ s.m.pairedAway (postAt s 3).core = false ∧ s.m.postStale (postAt s 3) = false
        ∧ (∀ k ∈ (postAt s 3).cores, k ≠ (postAt s 3).core → ∀ q ∈ s.m.posts, q.started = true → q.stopped = false → k ∉ q.cores))
      ∧ stalePost.m.postStale (postAt stalePost 3) = true
      ∧ (postAt loadPost 3).isMma = false
      ∧ (∀ s ∈ [alone, before, pairPost], (postAt s 3).isMma = true ∧ ∀ k ∈ (postAt s 3).cores, s.m.arrayBusy k = false)
      ∧ (PostOf partnerPair 3 (postAt partnerPair 3) ∧ (postAt partnerPair 3).started = false
        ∧ partnerPair.m.postRuns (postAt partnerPair 3) = true ∧ partnerPair.m.pairedAway (postAt partnerPair 3).core = true)
      ∧ ∃ q ∈ behind.m.posts, q.id < (postAt behind 3).id ∧ (postAt behind 3).shares q = true := by
  unfold PostOf; decide +kernel

def lastStep : Nat := (stepList intWord rowsA []).length - 1
def stepping (n : Nat) : State := posts [{ mmaPost with started := true, step := n }]
def slotStepped : StatSlot := { slotOf 0 1 false 384 with fmt := 6, codes := List.replicate 384 0x81 }

theorem witness_matrixStep :
    (∀ n ∈ [0, lastStep], let s := stepping n
      let p := postAt s 3
      PostOf s 3 p ∧ p.op = .mma intWord true false false rowsA [] ∧ p.started = true ∧ p.stopped = false ∧ s.m.postRuns p = true
        ∧ p.pair = false ∧ p.acc = some 2 ∧ (stepList intWord rowsA [])[p.step]? = some (((stepList intWord rowsA [])[n]?).getD [])
        ∧ s.m.sslots.find? (fun q => q.core == p.core && some q.n == p.sslot) = some slotStepped
        ∧ ((aRows rowsA).map (·.lane)).Nodup ∧ s.m.memoriesWf = true)
      ∧ (postAt (stepping lastStep) 3).step < (stepList intWord rowsA []).length
      ∧ (stepList intWord rowsA []).length ≤ (postAt (stepping (lastStep + 1)) 3).step := by
  unfold PostOf; decide +kernel

/-- A sum of two products of FP32 numbers: the largest finite one and 1, each times 1. -/
def fp32Codes : List Byte := leBytes 4 0x7F7FFFFF ++ leBytes 4 0x3F800000
def ones : List Byte := leBytes 4 0x3F800000 ++ leBytes 4 0x3F800000

theorem witness_stepSum :
    (∀ k ∈ [0, 1], finite (stepValue (wAfmt 0) 0 false (codeAt (wAfmt 0) fp32Codes k))
        ∧ finite (stepValue (wBfmt 0) 0 false (codeAt (wBfmt 0) ones (0 * wK 0 + k)))) ∧ wordOk false 0 = true ∧ wScale 0 = 0 := by
  unfold finite; decide +kernel

/-- Posts whose work is still to be done: zeroes, and the bytes of a DQ, into HBM and with a gauge of their own. -/
def zeroing : State := onMach (fun m => { m with gauges := gauged.m.gauges, scratch := gauged.m.scratch }) (posts [{ postOf 3 (.azero true false) with started := true, gauge := some 4080 }])
def dqBytes : List Byte := [1, 2, 3, 4]
def dqArea : Area := ⟨[⟨⟨.hbm, 0x9000⟩, 2, .g, none, 0⟩, ⟨⟨.hbm, 0xA000⟩, 2, .g, none, 0⟩], none⟩
def dequantizing : State := posts [{ postOf 3 (.dq dqBytes dqArea) with started := true }]

theorem witness_postDone :
    (∀ s ∈ [zeroing, dequantizing], PostOf s 3 (postAt s 3) ∧ (postAt s 3).started = true ∧ (postAt s 3).worked = false ∧ s.m.fabOut = []
        ∧ s.m.memoriesWf = true)
      ∧ ((postAt zeroing 3).op = .azero true false ∧ (postAt zeroing 3).acc = some 2 ∧ (postAt zeroing 3).gauge = some 4080
        ∧ (zeroing.m.gauge 4080).valid = true)
      ∧ ((postAt dequantizing 3).op = .dq dqBytes dqArea ∧ (postAt dequantizing 3).gauge = none
        ∧ dequantizing.m.crew (postAt dequantizing 3).crew = some (theCrew dequantizing) ∧ dqArea.object = none ∧ (∀ r ∈ dqArea.runs, r.fab = none)
        ∧ (runLocs dqArea.runs).length = dqBytes.length ∧ (runLocs dqArea.runs).Nodup ∧ ∀ l ∈ runLocs dqArea.runs, l.space = .hbm) := by
  unfold PostOf; decide +kernel

/-! Sparse engines -/

/-- Cursor 2 running on streams of two IX32 entries, after some entries of the first, with or without its gauge. -/
def running (a0 a1 b0 : Nat) (passed : Nat) (g : Option Nat) : State :=
  put 0x8000 64 (cursorDesc 0) (put 0x9000 8 (a0 + a1 * 2 ^ 32) (put 0xA000 8 (b0 + 5 * 2 ^ 32)
    (onCrew (fun c => { c with cursors := (cursorOf 2 0).map fun h =>
      { h with state := 2, gauge := g, a := if passed = 0 then h.a else if passed = 1 then h.a.pass a0 1 else (h.a.pass a0 1).pass a1 2 } }) gauged)))
def cursorIn (s : State) : Cursor := (theCrew s).cursors.headD (cursorAt s 2)
def headA (s : State) : Machine.Next := s.m.nextCoord (readerOf s (theCrew s) (cursorIn s)) true (cursorIn s).a
def headB (s : State) : Machine.Next := s.m.nextCoord (readerOf s (theCrew s) (cursorIn s)) true (cursorIn s).b

theorem witness_cursorSteps :
    (∀ s ∈ [running 1 5 2 0 none, running 2 5 2 0 none, running 1 5 2 2 none, running 1 5 2 2 (some 4080), running 5 1 7 1 none],
        CursorOf s 1 2 (theCrew s) (cursorIn s) ∧ (cursorIn s).merge = false ∧ Heads s (theCrew s) (cursorIn s) (headA s) (headB s))
      ∧ (headA (running 1 5 2 0 none) = .coord 1 1 ∧ headB (running 1 5 2 0 none) = .coord 2 1)
      ∧ (headA (running 2 5 2 0 none) = .coord 2 1 ∧ headB (running 2 5 2 0 none) = .coord 2 1 ∧ (theCrew (running 2 5 2 0 none)).bins = [])
      ∧ (headA (running 1 5 2 2 none) = .ended ∧ (cursorIn (running 1 5 2 2 none)).gauge = none)
      ∧ (headA (running 1 5 2 2 (some 4080)) = .ended ∧ (cursorIn (running 1 5 2 2 (some 4080))).gauge = some 4080
        ∧ ((running 1 5 2 2 (some 4080)).m.gauge 4080).valid = true ∧ (running 1 5 2 2 (some 4080)).m.memoriesWf = true)
      ∧ headA (running 5 1 7 1 none) = .unsorted 1 ∧ (cursorIn (running 5 1 7 1 none)).gauge = none := by
  unfold CursorOf Runs Heads; decide +kernel

/-- A replay of the last region with pairs of both, and one that has passed every region. -/
def replaying (region : Nat) : State :=
  put (0x10000 + 64 + 60) 4 100 (onCrew (fun c => { c with binning := some { bins with
    state := 2, region := region, limit := 3, pairs := [(31, 7), (15, 1), (31, 8), (0, 9)] } }) stand)
def binsIn (s : State) : Binning := (theCrew s).binning.getD bins
def regionIn (s : State) : LaneRes :=
  s.m.deref s.dev (through s (theCrew s) 3 0) ((theCrew s).core / 4) ⟨none, (binsIn s).errorPage⟩ ⟨64, 3, 1, false, false, true⟩ 0x10040 none none
def regionAcc (s : State) : Acc := accOf (regionIn s)

theorem witness_replays :
    (∀ g ∈ [1, 2], let s := replaying g
      Runs s 1 (theCrew s) ∧ (theCrew s).binning = some (binsIn s) ∧ (binsIn s).state = 2 ∧ (binsIn s).wait = [])
      ∧ (bRegions (binsIn (replaying 2)).desc.toNat ≤ (binsIn (replaying 2)).region ∧ (binsIn (replaying 2)).gauge = none)
      ∧ (let s := replaying 1
        let b := binsIn s
        let w := b.desc.toNat
        let lo := b.region * 2 ^ bRlog w
        b.region < bRegions w ∧ b.lost = false ∧ (b.pairs.take b.limit).filter (fun p => p.1 / 2 ^ bRlog w = b.region) ≠ []
          ∧ min (bCount w) (lo + 2 ^ bRlog w) - lo = 16 ∧ (bTarget w + 4 * lo) % 2 ^ 64 = 0x10040 ∧ bTarget w / 2 ^ 62 % 4 = 0
          ∧ regionIn s = .ok (regionAcc s) ∧ InHbm s (regionAcc s) 64)
      ∧ (ETy.s32 = .s32 ∧ 2 ^ 32 - 1 < 2 ^ 32 ∧ 0 < 2 ^ 32) := by
  unfold Runs InHbm; decide +kernel

/-- A GPASS of 520 bytes between plain sides: before its last unit of 8 bytes, and at its end, without and with its gauge. -/
def pass0 (at_ : Nat) (g : Option Nat) : GpassOp :=
  { id := 4, slot := 0, by_ := [0], src := [⟨⟨.hbm, 0x8000⟩, 520, .g, none, 0⟩], dst := [⟨⟨.hbm, 0x9000⟩, 520, .g, none, 0⟩], len := 520, at_ := at_
    srcOff := 0, dstOff := 0, srcTags := [], dstTags := [], srcRest := [], dstRest := [], srcObject := none, dstObject := none, skey := 0, dkey := 0, scomp := 0, dcomp := 0
    gauge := g, failed := false }
def passing (at_ : Nat) (g : Option Nat) : State :=
  put 0x8200 8 0x1122334455667788 (onCrew (fun c => { c with gpasses := [pass0 at_ g] }) gauged)

theorem witness_gpassUnits :
    (∀ p ∈ [(512, none), (520, none), (520, some 4080)], let s := passing p.1 p.2
      s.m.crew 1 = some (theCrew s) ∧ (theCrew s).gpasses.find? (fun q => q.id == 4) = some (pass0 p.1 p.2) ∧ s.m.memoriesWf = true
        ∧ (s.m.gauge 4080).valid = true)
      ∧ (let s := passing 512 none
        let src := runLocs (sliceRuns (pass0 512 none).src 512 8)
        let dst := runLocs (sliceRuns (pass0 512 none).dst 512 8)
        min 512 (520 - 512) = 8 ∧ src.any s.dev.unreadable = false ∧ src.length = dst.length ∧ dst.Nodup ∧ (∀ l ∈ dst, l.space = .hbm)
          ∧ s.m.ownsRuns (theCrew s).ctx ((pass0 512 none).src ++ (pass0 512 none).dst) = true ∧ PassMapped s (theCrew s) (pass0 512 none)
          ∧ (runLocs ((pass0 512 none).srcRest ++ (pass0 512 none).dstRest)).any s.dev.unreadable = false)
      ∧ ∃ o : GpassOp, o = { pass0 0 none with src := [⟨⟨.scr, 0x10000⟩, 520, .g, none, 0⟩] } ∧ o.at_ < o.len ∧ o.gauge = none
          ∧ (passing 0 none).m.ownsRuns (theCrew (passing 0 none)).ctx (o.src ++ o.dst) = false := by
  refine ⟨by decide +kernel, by unfold PassMapped; decide +kernel, _, rfl, by decide +kernel⟩

/-! The fabric -/

/-- A store and a load of the gang on their way to node 130; the gang waits for the load. -/
def sent (kind : OutKind) : FabOut :=
  { id := 5, crew := 1, gang := 0, core := 0, fn := 0, fill := 0, slot := 0, node := 130, rkey := 7, off := 0, len := 4, kind := kind, data := [], allowed := 4, payload := [], tag := [], answer := none }
def sending (kind : OutKind) (w : Wake) : State :=
  onGang (fun g => { g with wake := w, state := .held false }) (onMach (fun m => { m with fabOut := [{ sent kind with id := 4 }, sent kind] }) stand)

/-- An ATOM that adds 7 for lane 0. -/
def fetchAdd : OutKind := .atomic true 0 11 [(0, 7, 0)] 8 false none

theorem witness_fabricAnswers :
    (let s := sending .store .none
     Out s 5 (sent .store) ∧ s.m.crew 1 = some (theCrew s) ∧ (theCrew s).fibre 0 = some (fibreAt s))
      ∧ (∀ type ∈ [0, 11, 15], let s := sending (.load 8 type false none) (.fabric [5] 0)
        AwaitsOne s 5 (sent (.load 8 type false none)) (envAt s) (fibreAt s) ∧ ETy.ofCode type = some ((ETy.ofCode type).getD .b32) ∧ type ≠ 31
          ∧ (sent .store).opened s.dev [1, 2, 3, 0x80] = some [1, 2, 3, 0x80] ∧ [1, 2, 3, (0x80 : Byte)].length = (sent .store).len)
      ∧ (let s := sending fetchAdd (.fabric [5] 0)
        AwaitsOne s 5 (sent fetchAdd) (envAt s) (fibreAt s))
      ∧ (sent .store).len ≤ (sent .store).allowed := by
  unfold AwaitsOne Out; decide +kernel

/-- A write of four bytes to the end of region 3, of 16 bytes, of the context that queue 5 names, under key 9. -/
def packet : Packet :=
  { node := 130, rkey := 5 * 2 ^ 18 + 3 * 2 ^ 8 + 9, offset := 12, kind := .write [1, 2, 3, 4], msg := 1, total := 4, prio := 0, unscheduled := true
    relaxed := false, final := false, tag := [] }
def region3 : Nat := 1 + 4 + 9 * 2 ^ 64 + 16 * 2 ^ 128 + 0x9000 * 2 ^ 192
def receiving (held : List Nat) (missed : List Packet) : State :=
  put 0x600060 32 region3 (onCtx (fun x => { x with fabric := BitVec.ofNat 512 (1 + 2 * 2 ^ 16 + 0x600000 * 2 ^ 320) })
    (onMach (fun m => { m with peers := held, missed := missed }) (queueing 1 id)))
def received : State := receiving [7, 0x200000] []
/-- The machine once the peer context has been touched, and the context. -/
def touched (s : State) : Mach := Mach.claim (touchedPeer s 0x200000) 0 0x200000
/-- The queue's context outside world 0. -/
def receivedOutside : State := put 80 16 (7 + 2 ^ 16 + 3 * 2 ^ 9 + 0x200000 * 2 ^ 64) received
def peerCtx (s : State) : Ctx := (touched s).view s.dev 0 0x200000
def packetRuns : List Run :=
  match (touched received).rangeRuns received.dev (peerCtx received) 0 0x900C 4 2 false with | .ok r => r | _ => []

theorem witness_packetsArrive :
    received.m.rkeyCtx received.dev { packet with rkey := 4 * 2 ^ 18 } = none
      ∧ (let s := receiving [] (List.replicate 511 packet)
        s.m.rkeyCtx s.dev packet = some (0x200000, 0) ∧ 0x200000 ∉ s.m.peers ∧ s.m.missed.length < 512)
      ∧ (received.m.rkeyCtx received.dev packet = some (0x200000, 0) ∧ 0x200000 ∈ received.m.peers)
      ∧ (∀ off ∈ [13, 2 ^ 40 - 1], (touched received).packetCheck received.dev (peerCtx received)
          { packet with offset := BitVec.ofNat 40 off } = .refused)
      ∧ (let s := received
        (touched s).packetCheck s.dev (peerCtx s) packet = .ok 0x900C ∧ packet.total ≤ [1, 2, 3, (4 : Byte)].length
          ∧ (touched s).rangeRuns s.dev (peerCtx s) 0 0x900C 4 2 false = .ok packetRuns
          ∧ (runLocs packetRuns).any s.dev.lost = false ∧ (runLocs packetRuns).length = 4 ∧ (runLocs packetRuns).Nodup
          ∧ (∀ l ∈ runLocs packetRuns, l.space = .hbm) ∧ s.m.memoriesWf = true)
      ∧ ((Ctx.blank 0 0).fabric.toNat.testBit 0 = false ∧ (Ctx.blank 0 3).fn ≠ 0)
      ∧ (receivedOutside.m.rkeyCtx receivedOutside.dev packet = some (0x200000, 3) ∧ 0x200000 ∈ receivedOutside.m.peers)
      ∧ ((packet.node.toNat, packet.msg) ∉ received.m.closed
        ∧ (packet.node.toNat, packet.msg) ∈ (onMach (fun m => { m with closed := [(130, 1)] }) received).m.closed)
      ∧ 0x300000 ∉ received.m.peers ∧ received.m.missed = [] ∧ received.m.peers.length ≤ 4095 := by decide +kernel

theorem witness_peerHeld : PeerHeld received packet packet (touched received) (peerCtx received) :=
  ⟨0x200000, 0, witness_packetsArrive.2.2.1.1, witness_packetsArrive.2.2.1.2, rfl, rfl, rfl⟩

/-- A payload with no tag fails. -/
theorem no_tag (key : List Byte) (nonce : Nat) (l : List Byte) : payloadOpen key nonce l [] = none := by
  unfold payloadOpen
  refine if_neg fun e => ?_
  have := congrArg List.length e
  rw [List.takeD_length] at this
  cases this

theorem witness_tagFails (d : Dev) : openPacket d 3 packet = none ∧ { sent .store with fn := 3 }.opened d [] = none :=
  ⟨congrArg (Option.map fun l => { packet with kind := .write l })
    (no_tag (d.fabricKey 3) (Config.gcmNonce packet.node.toNat packet.msg packet.offset.toNat) [1, 2, 3, 4]), no_tag (d.fabricKey 3) (Config.gcmNonce 130 7 0) []⟩

/-- A message of 100000 bytes with 16384 granted, its tokens, and the clock. -/
def message (h : InMsg → InMsg) : InMsg := h { InMsg.opened 6 0x200000 6 { packet with total := 100000, msg := 2 } with placed := 0 }
def tokens (l : List Token) (h : InMsg → InMsg) : State :=
  onMach (fun m => { m with dclock := 100, tokens := l, inMsgs := [message h, { message id with id := 8, msg := 3, held := true }] }) homed
/-- A grant of 8 MiB outstanding, less some bytes. -/
def granted (n : Nat) : List Token := [⟨9, 77, 8 * 2 ^ 20, 200, n, false⟩]

theorem witness_grants :
    (let l := [message id, message fun i => { i with id := 7, prio := 3 }, message fun i => { i with id := 9, prio := 3, granted := 90000 }]
     firstMsg l = some (message fun i => { i with id := 9, prio := 3, granted := 90000 }))
      ∧ (∀ i ∈ (tokens [] fun i => { i with orphan := true }).m.inMsgs, i.granted < i.total → i.held = true ∨ i.orphan = true ∨ (tokens [] fun i => { i with orphan := true }).m.faulted i = true)
      ∧ (∀ q ∈ [(0, 2 ^ 20), (7, 0)], let s := tokens (granted (q.2 + 65536)) fun i => { i with prio := q.1 }
        let t := tokens (granted (q.2 + 65535)) fun i => { i with prio := q.1 }
        let i := message fun i => { i with prio := q.1 }
        firstMsg (s.m.inMsgs.filter fun j => j.waiting && !s.m.faulted j) = some i ∧ Incoming s 6 i ∧ firstMsg (t.m.inMsgs.filter fun j => j.waiting && !t.m.faulted j) = some i ∧ Incoming t 6 i
          ∧ i.pull = none ∧ s.m.outstanding + min 65536 (i.total - i.granted) ≤ (if i.prio = 7 then 8 else 7) * 2 ^ 20
          ∧ (if i.prio = 7 then 8 else 7) * 2 ^ 20 < t.m.outstanding + min 65536 (i.total - i.granted)) := by
  unfold Incoming; decide +kernel

/-- The message's token, due at a clock, with some bytes used. -/
def token6 (deadline used : Nat) : Token := ⟨9, 6, 1000, deadline, used, false⟩
def expiring (deadline used : Nat) (expired : Nat) : State := tokens [token6 deadline used] fun i => { i with expired := expired }
/-- An orphan of a context with one or no entry left in its event ring of 64 entries. -/
def orphaned (prod cons : Nat) : State :=
  put 0x200950 8 (prod + cons * 2 ^ 32) (onCtx (fun x => { x with eventRing := BitVec.ofNat 256 (6 + 0x300000 * 2 ^ 192) })
    (tokens [] fun i => { i with orphan := true }))
def eventCtx (p : Nat × Nat) : Ctx :=
  (orphaned p.1 p.2).m.view (orphaned p.1 p.2).dev ((orphaned p.1 p.2).m.ctx 0x200000).fn 0x200000
def orphan6 : InMsg := message fun i => { i with orphan := true }

/-- A pull of channel 7 with the message's token. -/
def pulled (expired : Nat) : InMsg := message fun i => { i with pull := some (1, 7), expired := expired }
def pulling (expired : Nat) : State :=
  onMach (fun m => { m with dclock := 100, tokens := [token6 100 0], inMsgs := [pulled expired] })
    (onCrew (fun c => { c with channels := [{ channel0 with n := 7 }] }) homed)
/-- A write-back of more than 16 KiB behind a store. -/
def longBack : FabOut := { sent (.writeback 0x200000 5) with len := 20000, allowed := 16384 }
def pushing : State := onMach (fun m => { m with fabOut := [sent .store, longBack] }) stand

theorem witness_tokens :
    (∀ q ∈ [(101, 0, 0), (100, 0, 0), (100, 1, 1), (100, 0, 1)], let s := expiring q.1 q.2.1 q.2.2
      s.m.tokens.find? (fun t => t.id == 9) = some (token6 q.1 q.2.1) ∧ Incoming s 6 (message fun i => { i with expired := q.2.2 })
        ∧ (message id).pull = none ∧ (message id).oru = none ∧ s.m.dclock = 100)
      ∧ (∀ p ∈ [(63, 0), (64, 0)], (orphaned p.1 p.2).m.inMsgs.find? (fun q => q.ctx == 0x200000 && q.orphan) = some orphan6
        ∧ ((orphaned p.1 p.2).m.headerNat (orphaned p.1 p.2).dev (eventCtx p) 0x950 4 + 2 ^ 32
            - (orphaned p.1 p.2).m.headerNat (orphaned p.1 p.2).dev (eventCtx p) 0x954 4) % 2 ^ 32 = p.1
        ∧ (eventCtx p).eventRing.toNat % 32 = 6
        ∧ (let x := eventCtx p
          (orphaned p.1 p.2).m.ringOpen (orphaned p.1 p.2).dev (x.via [1, 3] 0x300000 (64 * 64)) (0x300000 + 64 * (p.1 % 64)) 64 = true)
        ∧ Linear 0x200000 0x1000 ∧ (orphaned p.1 p.2).m.memoriesWf = true)
      ∧ (idleAfter (token6 100 0) (message id) = 1 ∧ idleAfter (token6 100 1) (message fun i => { i with expired := 1 }) = 0
        ∧ idleAfter (token6 100 0) (message fun i => { i with expired := 1 }) = 2
        ∧ idleAfter { token6 100 0 with dropped := true } (message fun i => { i with expired := 1 }) = 1)
      ∧ (∀ n ∈ [0, 1], let s := pulling n
        s.m.tokens.find? (fun t => t.id == 9) = some (token6 100 0) ∧ Incoming s 6 (pulled n) ∧ (pulled n).pull = some (1, 7)
          ∧ s.m.crew 1 = some (theCrew s) ∧ (theCrew s).channel 7 = some (channelIn s))
      ∧ (let s := pushing
        s.m.fabOut = [sent .store] ++ longBack :: [] ∧ (∀ q ∈ [sent .store], q.len ≤ q.allowed) ∧ longBack.allowed < longBack.len)
      ∧ Incoming (expiring 101 7 0) 6 (message fun i => { i with expired := 0 })
      ∧ (let i := fun i : InMsg => { i with held := true, packets := [(0, 4), (4, 8)] }
        Incoming (tokens [] i) 6 (message i) ∧ (message i).held = true)
      ∧ (let s := onCrew (fun c => { c with channels := [{ channel0 with n := 7, body := some (BitVec.ofNat 512 (2 ^ 190 + 100000 * 2 ^ 192)) }] }) stand
        s.m.crew 1 = some (theCrew s) ∧ (theCrew s).channel 7 = some (channelIn s)
          ∧ (channelIn s).body = some (BitVec.ofNat 512 (2 ^ 190 + 100000 * 2 ^ 192))
          ∧ recDst (BitVec.ofNat 512 (2 ^ 190 + 100000 * 2 ^ 192)).toNat / 2 ^ 62 % 4 = 1) := by
  unfold Incoming Linear; decide +kernel

/-- Two write-backs, of which the second has two bytes. -/
def writeback (id : Nat) (cells : List (Nat × Byte)) : PersistOut := { id := id, crew := 1, slot := 0, port := 3, cells := cells, sent := 0, failed := false }
def persisting : State := onMach (fun m => { m with persist := [writeback 1 [(0, 1)], writeback 2 [(2 ^ 48 - 1, 9), (7, 0)]], dclock := Config.clocks1ms }) stand

theorem witness_downstream :
    persisting.m.persist.filter (fun q => q.id == 2) = [writeback 2 [(2 ^ 48 - 1, 9), (7, 0)]] ∧ (writeback 2 []).failed = false
      ∧ persisting.m.memoriesWf = true ∧ ([((2 ^ 48 - 1, 9) : Nat × Byte), (7, 0)].map (·.1)).Nodup := by decide +kernel

/-! Hosts, sessions and worlds -/

/-- The record of a function set. -/
def fnWith (fn : Nat) (h : FnRec → FnRec) : State → State := onDev fun d => d.setFn (h (d.fnRec fn))
/-- Function 96 with an aperture of 2 MiB at the end of HBM. -/
def hosted : State := onDev (fun d => { d with
  queueTable := 0x600000, fnTable := 0x700000
  apertures := d.apertures.set 95 (BitVec.ofNat 128 (2 ^ 21 * 2 ^ 64 + 48 * (48 * 2 ^ 30) - 2 ^ 21)) }) (linked stand)
/-- A function that runs with its stream insecure: it does not answer. -/
def silent : State := fnWith 96 (fun r => { r with tdisp := .run, ideSecure := 14 }) (linked stand)

theorem witness_hostAccesses :
    (silent.dev.answers (96 : BitVec 7).toNat = false ∧ stand.dev.hostLinks.getD stand.dev.link false = false) ∧ hosted.dev.answers (96 : BitVec 7).toNat = true
      ∧ (∀ off ∈ [0, 2 ^ 26 - 4096, 4096 + 1984], (List.replicate 64 (1 : Byte)).length = 64 ∧ (BitVec.ofNat 64 off).toNat + 64 ≤ 2 ^ 26
        ∧ (BitVec.ofNat 64 off).toNat % 4096 < 2048 ∧ (BitVec.ofNat 64 off).toNat % 64 = 0)
      ∧ (hosted.dev.aperture (96 : BitVec 7).toNat = some (48 * (48 * 2 ^ 30) - 2 ^ 21, 2 ^ 21)
        ∧ (∀ off ∈ [2 ^ 26, 2 ^ 26 + 2 ^ 21 - 2], 2 ^ 26 ≤ (BitVec.ofNat 64 off).toNat ∧ (BitVec.ofNat 64 off).toNat - 2 ^ 26 + 2 ≤ 2 ^ 21
          ∧ ∀ i < 2, let q := 48 * (48 * 2 ^ 30) - 2 ^ 21 + ((BitVec.ofNat 64 off).toNat - 2 ^ 26)
            tableOffset hosted.dev.queueTable 64 (q + i) = none ∧ tableOffset hosted.dev.fnTable 1 (q + i) = none
              ∧ hosted.dev.unreadable ⟨.hbm, q + i⟩ = false)
        ∧ hosted.m.memoriesWf = true)
      ∧ ((0x1000 : BitVec 64).toNat < 2 ^ 26 ∧ descFn (hosted.m.queueDesc hosted.dev ((0x1000 : BitVec 64).toNat / 4096)) ≠ (96 : BitVec 7).toNat)
      ∧ (∀ off ∈ [2 ^ 26, 2 ^ 26 + 2 ^ 21 - 1], let o := (BitVec.ofNat 64 off).toNat
        o / 64 * 64 - 2 ^ 26 + 64 ≤ 2 ^ 21
          ∧ ∀ i < 64, hosted.dev.unreadable ⟨.hbm, 48 * (48 * 2 ^ 30) - 2 ^ 21 + (o / 64 * 64 - 2 ^ 26) + i⟩ = false)
      ∧ (95 ≠ 0 ∧ (hosted.dev.apertures.getD (95 - 1) 0).toNat / 2 ^ 64 = 0)
      ∧ (State.reset.m.crews = [] ∧ State.reset.m.l1 = [] ∧ State.reset.m.l2 = []) := by decide +kernel

/-- A copy of function 3's from host frame 9, whose page 7 is invalidated, by then for 50 µs. -/
def hostCopy : CpaCopy := { copy0 with src := [⟨⟨.host, 4096 * 9 + 4092⟩, 4, .h, none, 7⟩] }
def invalidating (fn : Nat) : State :=
  onMach (fun m => { m with ats := [⟨fn, 7, 9, true, true⟩, ⟨fn, 8, 10, true, true⟩], dclock := Config.clocks50us })
    (onCrew (fun c => { c with copies := [hostCopy] }) (onCtx (fun x => { x with fn := 3 }) homed))
def overdue : State :=
  fnWith 3 (fun r => { r with tdisp := .run, world := .open, ideSecure := 1 })
    (onDev (fun d => { d with atsInval := [⟨3, 7, 1, [9], 0⟩] }) (invalidating 3))

/-- The start has halted. -/
def halting : State → State := onDev fun d => { d with halted := true }

theorem witness_ats :
    (invalidating 4).m.hostInFlight (4 : BitVec 7).toNat (framesOf (invalidating 4) 4 7 1) = false
      ∧ (invalidating 3).m.hostInFlight (3 : BitVec 7).toNat (framesOf (invalidating 3) 3 7 1) = true
      ∧ (∀ v ∈ overdue.dev.atsInval, v.fn ≠ (4 : BitVec 7).toNat)
      ∧ (IsVf 3 ∧ (⟨3, 7, 1, [9], 0⟩ : AtsInval) ∈ overdue.dev.atsInval ∧ overdue.m.hostInFlight 3 [9] = true
        ∧ 0 + Config.clocks50us ≤ overdue.m.dclock)
      ∧ stand.dev.halted = false ∧ (3 : BitVec 2).toNat ∉ stand.dev.deadXDies ∧ (halting stand).dev.halted = true
      ∧ (3 : BitVec 2).toNat ∈ (onDev (fun d => { d with deadXDies := [3] }) stand).dev.deadXDies := by
  unfold IsVf; decide +kernel

/-- A function in a session, in a TDISP state, with its world in a state. -/
def session (fn : Nat) (t : TdispState) (w : WorldState) : State := fnWith fn (fun r => { r with session := true, tdisp := t, world := w }) homed
def stateIn (s : State) (fn : Nat) : FnRec := s.dev.fnRec fn

theorem witness_functionStates :
    (IsVf 1 ∧ IsVf 96 ∧ ¬ IsVf 0 ∧ ¬ IsVf 97 ∧ ¬ IsVf 127) ∧ (stateIn homed 96).session = false
      ∧ (∀ t ∈ [TdispState.unlocked, .locked, .run, .error], ∀ w ∈ [WorldState.none, .open, .closing],
          (stateIn (session 96 t w) 96).session = true ∧ (stateIn (session 96 t w) 96).tdisp = t ∧ (stateIn (session 96 t w) 96).world = w)
      ∧ (stateIn (session 0 .unlocked .open) 0).session = true
      ∧ (∀ s ∈ [session 96 .locked .none, session 0 .unlocked .open, homed], s.dev.halted = false ∧ (halting s).dev.halted = true)
      ∧ (∀ r ∈ (session 96 .locked .open).dev.fns, r.tdisp ≠ .run)
      ∧ ((silent.dev.fnRec 96).tdisp = .run ∧ (silent.dev.fnRec 96).ideSecure.getLsbD silent.dev.link = false
        ∧ silent.dev.linkIde.getD silent.dev.link false = false) := by
  unfold IsVf; decide +kernel

theorem witness_attestation :
    (∀ fn ∈ [0, 96], (BitVec.ofNat 7 fn).toNat ≤ 96)
      ∧ (∀ k ∈ [1, 32], 1 ≤ (BitVec.ofNat 8 k).toNat ∧ (BitVec.ofNat 8 k).toNat ≤ 32)
      ∧ (∀ k ∈ [0, 33, 0xEF, 0xF2, 0xFF], let i := BitVec.ofNat 8 k
        i.toNat = 0 ∨ (32 < i.toNat ∧ i.toNat < 0xF0) ∨ 0xF1 < i.toNat)
      ∧ (stateIn (fnWith 96 (fun r => { r with keyExchange := true }) stand) 96).keyExchange = true ∧ (stateIn stand 96).keyExchange = false
      ∧ (stateIn (session 96 .unlocked .none) 96).session = true ∧ (stateIn stand 96).session = false
      ∧ (∀ s ∈ [stand, session 96 .unlocked .none], s.dev.halted = false ∧ (halting s).dev.halted = true)
      ∧ ((booted stand).dev.appUp = true ∧ 16 ≤ (16 : BitVec 5).toNat ∧ stand.dev.appUp = false ∧ (15 : BitVec 5).toNat < 16) := by decide +kernel

/-- The last page of stack 0 and the first of stack 1, which is retired; a line of the first that reads back uncorrectable. -/
def scrubRanges : List (Nat × Nat) := [(48 * 2 ^ 30 - 4096, 8192), (0, 0)]
def scrubbing (quiet : Bool) : State :=
  put (48 * 2 ^ 30 - 256) 256 (256 ^ 256 - 1) (onDev (fun d => { d with retiredStacks := [1] })
    (onMach (fun m => { m with queues := if quiet then [] else [{ Queue.blank 5 with fn := 96, head := .retired }] })
      (fnWith 96 (fun r => { r with session := true, tdisp := .locked, world := .open, scrub := some (true, scrubRanges) }) stand)))

theorem witness_scrubs :
    (ScrubRanges scrubRanges ∧ ScrubRanges (List.replicate 64 (0, 48 * (48 * 2 ^ 30))) ∧ ¬ ScrubRanges [] ∧ ¬ ScrubRanges (List.replicate 65 (0, 4096))
      ∧ ¬ ScrubRanges [(4096, 48 * (48 * 2 ^ 30))])
      ∧ ((stateIn (session 96 .run .open) 96).scrub = none ∧ (stateIn (session 96 .locked .open) 96).tdisp ≠ .run
        ∧ (stateIn (session 96 .run .open) 96).tdisp = .run)
      ∧ (scrubbing false).m.worldQuiet (96 : BitVec 7).toNat = false
      ∧ (scrubbing true).dev.halted = false
      ∧ ((stateIn (scrubbing true) 96).scrub = some (true, scrubRanges) ∧ (scrubbing true).m.worldQuiet (96 : BitVec 7).toNat = true) := by
  unfold ScrubRanges; decide +kernel

/-! Power, resets and the start -/

/-- Crew 1 on core 0 and crew 2 on core 1, of one launch; a byte that only core 0's L1 holds; a queue of function 96. -/
def faulty : State :=
  onMach (fun m => { m with
    crews := m.crews ++ [{ placeCrew 2 with launch := 1, core := 1, ctx := 0x200000 }], launches := [{ Launch.blank with id := 1, q := 5 }]
    l1 := [⟨0, ⟨.hbm, 0⟩, 1, true, .g, ⟨0, 0⟩⟩]
    queues := [{ Queue.blank 5 with enabled := true, fn := 96, ring := [record 1 3 0], head := .ready }] }) (session 96 .run .open)

/-- Dirty and durable bytes of downstream memory. -/
def powering : State :=
  onMach (fun m => { m with pmem := [(8, 1), (16, 2)], durable := [(8, 3), (17, 4)], l2 := [⟨0, ⟨.pmem, 9⟩, 5, true, .p, ⟨0, 0⟩⟩] }) stand
def unpowered : State := onDev (fun d => { d with powered := false }) stand

theorem witness_resets :
    (¬ IsVf 0 ∧ IsVf 96 ∧ (0 : BitVec 11).toNat < 1536 ∧ (1535 : BitVec 11).toNat < 1536 ∧ (47 : BitVec 6).toNat < 48)
      ∧ (∀ c ∈ faulty.m.crews, c.core ≠ (1535 : BitVec 11).toNat) ∧ (∀ q ∈ faulty.m.l1, q.unit = (1535 : BitVec 11).toNat → q.dirty = false)
      ∧ (∀ n ∈ [24, 27], 24 ≤ (BitVec.ofNat 5 n).toNat ∧ (BitVec.ofNat 5 n).toNat < 28)
      ∧ (powering.dev.powered = true ∧ powering.m.memoriesWf = true ∧ unpowered.dev.powered = false)
      ∧ (unpowered.dev.started = false ∧ unpowered.dev.halted = false ∧ unpowered.dev.bootStep = 1 ∧ unpowered.dev.boot.length = 6)
      ∧ (onDev (fun d => { d with inReset := true }) stand).dev.inReset = true ∧ stand.dev.inReset = false := by
  unfold IsVf; decide +kernel

/-- A start at a step whose word has a way; the next step's word as a failed start left it, or not. -/
def starting (k way : Nat) (failed : Bool) : State :=
  onDev (fun d => { d with
    bootStep := k, started := true, deadCores := [64, 1535], nodeStore := 9, failedSteps := [2]
    boot := (List.range 6).map fun j =>
      if j = k - 1 then ⟨255, 1, way, false, true⟩ else if j = k then ⟨16, 255, 1, !failed, true⟩ else ⟨3, 0, 0, true, true⟩ }) stand
def wordOf6 (s : State) (k : Nat) : BootWord := s.dev.boot.getD (k - 1) .reset
def bootFound : BootFind := ⟨[5, 63], [23, 24, 27], [2 ^ 47, 0, 1], [1, 2, 3]⟩

theorem witness_bootSteps :
    (∀ k ∈ [1, 2, 3, 4, 5, 6], ∀ way ∈ [0, 1, 2], AtStep (starting k way true) k (wordOf6 (starting k way true) k)
        ∧ (wordOf6 (starting k way true) k).way = way)
      ∧ (∀ b ∈ [(⟨3, 255, 0, false, true⟩ : BootWord), ⟨3, 1, 1, false, true⟩, ⟨3, 1, 2, false, true⟩, ⟨3, 1, 3, false, true⟩],
          b.attempting = true ∧ b.done = false)
      ∧ (∃ c ∈ bootFound.lostDies, c.toNat < 24) ∧ (∃ c ∈ bootFound.lostDies, 24 ≤ c.toNat ∧ c.toNat < 28)
      ∧ ∀ b ∈ [(⟨16, 2, 1, true, true⟩ : BootWord), ⟨15, 2, 2, false, false⟩, ⟨255, 2, 3, true, false⟩], b.attempting = false ∨ b.done = true := by
  unfold AtStep; decide +kernel

end Sys2Proof.Tests
end

section
/-! PROOFS. Integer arithmetic, division and wide sums (R177 to R182): each instruction runs as a checked register operation, and the
exact integers of its lane function are the bit patterns of the statement. -/

namespace Sys2Proof.Claims

open Sys2Proof Sys2Proof.Machine

/-! ### Exact integers and bit patterns -/

theorem toSigned_eq_toInt (w n : Nat) : toSigned w n = (BitVec.ofNat w n).toInt := by
  rw [toSigned, BitVec.toInt_eq_toNat_cond, BitVec.toNat_ofNat]

theorem wrap_eq_toNat (w : Nat) (x : Int) : wrap w x = (BitVec.ofInt w x).toNat := (BitVec.toNat_ofInt x).symm

/-- Reading an operand as the type has it (R177). -/
theorem extAt_eq_ext (e : Enc) (n : Nat) : extAt (tyOf e) n = ext e (BitVec.ofNat (width e) n) := by
  simp only [extAt, ext, width, toSigned_eq_toInt, BitVec.toNat_ofNat]

theorem minOf_eq_least (e : Enc) : minOf (tyOf e) = least e := by
  simp only [minOf, least, width, Nat.cast_pow, Nat.cast_ofNat]

theorem maxOf_eq_greatest (e : Enc) : maxOf (tyOf e) = greatest e := by
  simp only [maxOf, greatest, width, Nat.cast_pow, Nat.cast_ofNat]

/-- The last lines of R179: the model's and the statement's. -/
theorem putInt_eq_fitted (e : Enc) (f : Fibre) (x : Int) : putInt e f x = fitted e f x := by
  simp only [putInt, fitted, toD, clampInt, minOf_eq_least, maxOf_eq_greatest, wrap_eq_toNat, width]

theorem fitted_of_not_sat {e : Enc} (h : e.sat57 = false) (f : Fibre) (x : Int) :
    fitted e f x = toD e f (BitVec.ofInt (width e) x) := by
  simp [fitted, h]

/-- A two-operand computation is the claims' when its operation is, after saturation and wrapping. -/
theorem intBin_eq_fitted (e : Enc) (op : Nat → Int → Int → Int) (f : Fibre) :
    intBin e op f = fitted e f (op (width e) (ext e (opA e f)) (ext e (opB e f))) := by
  simp only [intBin, putInt_eq_fitted, extAt_eq_ext, opA, opB, width]

theorem intUn_eq_fitted (e : Enc) (op : Int → Int) (f : Fibre) : intUn e op f = fitted e f (op (ext e (opA e f))) := by
  simp only [intUn, putInt_eq_fitted, extAt_eq_ext, opA]

theorem imadLane_eq_fitted (e : Enc) (f : Fibre) :
    imadLane e f = fitted e f (ext e (opA e f) * ext e (opB e f) + ext e (opC e f)) := by
  simp only [imadLane, putInt_eq_fitted, extAt_eq_ext, opA, opB, opC]

/-! ### Instructions that run as checked register operations -/

/-- The instruction has the fields `e` and the operand shape `sh`, and where its fields fit it changes each active lane by `g`. -/
def RunsAs (sh : Enc → Shape) (cost : Enc → Nat) (g : Enc → Env → Fibre → Fibre) (e : Enc) (i : Instr) : Prop :=
  i.enc = some e ∧ shapeOf e = sh e ∧ ∀ s, exec i s = isa (checked e (shapeOf e) (regOp e (cost e) (g e))) s

theorem imm32_wForm_lt (op : Nat) (f : WForm) : (f.enc op).imm32 < 2 ^ 32 := by
  have hvb : f.vb.toNat < 2 ^ 8 := f.vb.isLt
  have himm : (f.enc op).imm32 = sext8 f.vb.toNat 32 := rfl
  rw [himm, sext8]
  split <;> omega

theorem imm32_lForm_lt (op : Nat) (f : LForm) : (f.enc op).imm32 < 2 ^ 32 := f.lit.isLt

section Forms

variable {sh : Enc → Shape} {cost : Enc → Nat} {g h : Enc → Env → Fibre → Fibre}

/-- What runs as `g` computes `h` when the two agree wherever the shape fits. -/
theorem RunsAs.computes {e : Enc} {i : Instr} (hr : RunsAs sh cost g e i)
    (hh : ∀ E f, (sh e).fits e E.c.nregs = true → g e E f = h e E f) : Computes cost h i := by
  obtain ⟨he, hsh, hx⟩ := hr
  exact computes_of i e he cost h (g e) hx fun E hl f => hh E f (hsh ▸ hl)

theorem wl_computes (op : Nat) {W : WForm → Instr} {L : LForm → Instr}
    (hW : ∀ f, RunsAs sh cost g (f.enc op) (W f)) (hL : ∀ f, RunsAs sh cost g (f.enc op) (L f))
    (hh : ∀ e E f, e.imm32 < 2 ^ 32 → (sh e).fits e E.c.nregs = true → g e E f = h e E f) : wl W L (Computes cost h) :=
  ⟨fun f => (hW f).computes fun E f' => hh _ E f' (imm32_wForm_lt op f),
   fun f => (hL f).computes fun E f' => hh _ E f' (imm32_lForm_lt op f)⟩

theorem cw_computes (op : Nat) {C : CForm → Instr} {W : WForm → Instr}
    (hC : ∀ f, RunsAs sh cost g (f.enc op) (C f)) (hW : ∀ f, RunsAs sh cost g (f.enc op) (W f))
    (hh : ∀ e E f, (sh e).fits e E.c.nregs = true → g e E f = h e E f) : cw C W (Computes cost h) :=
  ⟨fun f => (hC f).computes (hh _), fun f => (hW f).computes (hh _)⟩

end Forms

/-! ### What a shape that fits says -/

theorem ok_of_fits {sh : Shape} {e : Enc} {n : Nat} (hf : sh.fits e n = true) : sh.ok = true := by
  simp only [Shape.fits, Bool.and_eq_true] at hf
  obtain ⟨⟨_, hok⟩, _⟩ := hf
  exact hok

theorem not_sat_of_shInt_fits {types : List ETy} {e : Enc} {n : Nat} (hf : (shInt types false e).fits e n = true) :
    e.sat57 = false := by
  have hok := ok_of_fits hf
  simp only [shInt, Bool.false_or, Bool.and_eq_true, Bool.not_eq_true'] at hok
  tauto

theorem mem_of_tyIn {e : Enc} {types : List ETy} (h : e.tyIn types = true) : tyOf e ∈ types := by
  unfold Enc.tyIn at h
  split at h
  · next t ht => simpa [tyOf, ht] using h
  · cases h

/-! ### Sums and products on exact integers (R179, R182) -/

/-- An integer instruction of two operands computes its exact operation, fitted into the type. -/
theorem wl_intBin (op : Nat) {satOk : Bool} {cost : Enc → Nat} {W : WForm → Instr} {L : LForm → Instr}
    (o : Nat → Int → Int → Int) {o' : Enc → Int → Int → Int}
    (hW : ∀ f, RunsAs (shInt intTypes satOk) cost (fun e _ => intBin e o) (f.enc op) (W f))
    (hL : ∀ f, RunsAs (shInt intTypes satOk) cost (fun e _ => intBin e o) (f.enc op) (L f))
    (ho : ∀ e x y, o (width e) x y = o' e x y) : wl W L (Computes cost (intResult o')) :=
  wl_computes op hW hL fun e _ f _ _ => by rw [intBin_eq_fitted, ho, intResult]

theorem cw_intUn (op : Nat) {cost : Enc → Nat} {C : CForm → Instr} {W : WForm → Instr} (o : Int → Int) {o' : Int → Int}
    (hC : ∀ f, RunsAs (shUnary [.s32, .s64] true) cost (fun e _ => intUn e o) (f.enc op) (C f))
    (hW : ∀ f, RunsAs (shUnary [.s32, .s64] true) cost (fun e _ => intUn e o) (f.enc op) (W f))
    (ho : ∀ x, o x = o' x) : cw C W (Computes cost (intResult fun _ x _ => o' x)) :=
  cw_computes op hC hW fun e _ f _ => by rw [intUn_eq_fitted, ho, intResult]

theorem imad_computes : wl .imadW .imadL (Computes mulCost fun e _ f =>
    fitted e f (ext e (opA e f) * ext e (opB e f) + ext e (opC e f))) :=
  wl_computes (sh := shImad) (g := fun e _ => imadLane e) 0x005 (fun _ => ⟨rfl, rfl, fun _ => rfl⟩) (fun _ => ⟨rfl, rfl, fun _ => rfl⟩)
    fun e _ f _ _ => imadLane_eq_fitted e f

theorem mulHigh_eq (e : Enc) (x y : Int) : mulHigh (width e) x y = x * y / 2 ^ width e := by
  rw [mulHigh, Nat.cast_pow, Nat.cast_ofNat]

theorem ite_neg_eq_abs (x : Int) : (if x < 0 then -x else x) = |x| := by
  split
  · next hneg => exact (abs_of_neg hneg).symm
  · next hneg => exact (abs_of_nonneg (not_lt.mp hneg)).symm

/-- One form pair a line, in the order of `IntegerSums`. -/
theorem integerSums : IntegerSums :=
  ⟨wl_intBin 0x000 (fun _ x y => x + y) (fun _ => ⟨rfl, rfl, fun _ => rfl⟩) (fun _ => ⟨rfl, rfl, fun _ => rfl⟩) fun _ _ _ => rfl,
   wl_intBin 0x002 (fun _ x y => x - y) (fun _ => ⟨rfl, rfl, fun _ => rfl⟩) (fun _ => ⟨rfl, rfl, fun _ => rfl⟩) fun _ _ _ => rfl,
   wl_intBin 0x003 (fun _ x y => x * y) (fun _ => ⟨rfl, rfl, fun _ => rfl⟩) (fun _ => ⟨rfl, rfl, fun _ => rfl⟩) fun _ _ _ => rfl,
   wl_intBin 0x004 mulHigh (fun _ => ⟨rfl, rfl, fun _ => rfl⟩) (fun _ => ⟨rfl, rfl, fun _ => rfl⟩) mulHigh_eq,
   imad_computes,
   cw_intUn 0x009 (fun x => -x) (fun _ => ⟨rfl, rfl, fun _ => rfl⟩) (fun _ => ⟨rfl, rfl, fun _ => rfl⟩) fun _ => rfl,
   cw_intUn 0x00A (fun x => if x < 0 then -x else x) (fun _ => ⟨rfl, rfl, fun _ => rfl⟩) (fun _ => ⟨rfl, rfl, fun _ => rfl⟩)
     ite_neg_eq_abs,
   wl_intBin 0x00B (fun _ x y => min x y) (fun _ => ⟨rfl, rfl, fun _ => rfl⟩) (fun _ => ⟨rfl, rfl, fun _ => rfl⟩) fun _ _ _ => rfl,
   wl_intBin 0x00C (fun _ x y => max x y) (fun _ => ⟨rfl, rfl, fun _ => rfl⟩) (fun _ => ⟨rfl, rfl, fun _ => rfl⟩) fun _ _ _ => rfl⟩

/-! ### Division (R182) -/

theorem bits_pos (t : ETy) : 0 < t.bits := by cases t <;> decide

/-- The one signed overflow: the quotient −Min(t) and Min(t) wrap to the same pattern. -/
theorem ofInt_neg_two_pow_pred {w : Nat} (hw : 0 < w) : BitVec.ofInt w (2 ^ (w - 1)) = BitVec.ofInt w (-(2 ^ (w - 1))) := by
  obtain ⟨k, rfl⟩ : ∃ k, w = k + 1 := ⟨w - 1, by omega⟩
  apply BitVec.eq_of_toInt_eq
  rw [BitVec.toInt_ofInt, BitVec.toInt_ofInt, Int.bmod_eq_bmod_iff_bmod_sub_eq_zero]
  have hsub : (2 : Int) ^ (k + 1 - 1) - -(2 ^ (k + 1 - 1)) = ((2 ^ (k + 1) : Nat) : Int) := by
    rw [Nat.add_sub_cancel]
    push_cast
    ring
  rw [hsub, Int.bmod_self]

theorem ofInt_divQ (e : Enc) (x y : Int) : BitVec.ofInt (width e) (divQ (width e) x y) = BitVec.ofInt (width e) (quotient e x y) := by
  unfold divQ quotient
  by_cases hy : y = 0
  · simp only [hy, if_true, Nat.cast_pow, Nat.cast_ofNat]
  by_cases ho : (tyOf e).signed ∧ x = least e ∧ y = -1
  · obtain ⟨hs, rfl, rfl⟩ := ho
    have hq : (least e).tdiv (-1) = 2 ^ (width e - 1) := by simp [least, hs]
    simp only [hs, hy, if_false, hq, and_self, if_true]
    rw [ofInt_neg_two_pow_pred (w := width e) (bits_pos _), least, if_pos hs]
  · simp only [hy, ho, if_false]

theorem divR_eq_remainder (e : Enc) (x y : Int) : divR x y = remainder e x y := by
  unfold divR remainder
  by_cases hy : y = 0
  · simp only [hy, if_true]
  by_cases ho : (tyOf e).signed ∧ x = least e ∧ y = -1
  · obtain ⟨hs, rfl, rfl⟩ := ho
    simp [hs]
  · simp only [hy, ho, if_false]

/-- A division form does not saturate: its exact result is wrapped only. -/
theorem intBin_of_not_sat {e : Enc} {n : Nat} (hf : (shInt intTypes false e).fits e n = true) (op : Nat → Int → Int → Int) (f : Fibre) :
    intBin e op f = toD e f (BitVec.ofInt (width e) (op (width e) (ext e (opA e f)) (ext e (opB e f)))) := by
  rw [intBin_eq_fitted, fitted_of_not_sat (not_sat_of_shInt_fits hf)]

theorem integerDivision : IntegerDivision :=
  ⟨wl_computes (sh := shInt intTypes false) (g := fun e _ => intBin e divQ) 0x007
      (fun _ => ⟨rfl, rfl, fun _ => rfl⟩) (fun _ => ⟨rfl, rfl, fun _ => rfl⟩)
      fun e _ f _ hf => by rw [intBin_of_not_sat hf, ofInt_divQ],
   wl_computes (sh := shInt intTypes false) (g := fun e _ => intBin e fun _ x y => divR x y) 0x008
      (fun _ => ⟨rfl, rfl, fun _ => rfl⟩) (fun _ => ⟨rfl, rfl, fun _ => rfl⟩)
      fun e _ f _ hf => by rw [intBin_of_not_sat hf, divR_eq_remainder e]⟩

/-! ### Carry and wide sums (R180, R181) -/

theorem aAt_lt (e : Enc) (f : Fibre) : aAt e (tyOf e) f < 2 ^ width e := Nat.mod_lt _ (Nat.two_pow_pos _)

theorem sext32_lt {n : Nat} (h : n < 2 ^ 32) : sext32 n < 2 ^ 64 := by
  unfold sext32
  split <;> omega

/-- At the unsigned types of IADDC the b operand, an immediate or not, has no bits above the width (R153). -/
theorem bAt_lt {e : Enc} (himm : e.imm32 < 2 ^ 32) (ht : tyOf e ∈ [ETy.n32, .n64]) (f : Fibre) :
    bAt e (tyOf e) f < 2 ^ width e := by
  unfold bAt
  split
  · unfold width
    rcases List.mem_pair.mp ht with h | h <;> rw [h]
    · exact Nat.mod_lt _ (Nat.two_pow_pos _)
    · exact sext32_lt himm
  · exact Nat.mod_lt _ (Nat.two_pow_pos _)

theorem opA_toNat (e : Enc) (f : Fibre) : (opA e f).toNat = aAt e (tyOf e) f := by
  rw [opA, BitVec.toNat_ofNat, Nat.mod_eq_of_lt (aAt_lt e f)]

theorem toD_ofNat (e : Enc) (f : Fibre) (x : Nat) : toD e f (BitVec.ofNat (width e) x) = setD e (tyOf e) f x := by
  rw [toD, BitVec.toNat_ofNat, setD, setD, width, Nat.mod_mod]

theorem carryOut_bits (e : Enc) (a b c : Nat) : carryOut (tyOf e).bits a b c = decide (2 ^ width e ≤ a + b + c) := rfl

theorem b2n_carry (e : Enc) (f : Fibre) : b2n (e.mb 49 && f.pred (e.vc % 16)) = carryIn e f := by
  simp only [b2n, carryIn, Fibre.pred, Bool.and_eq_true, Bool.or_eq_true, beq_iff_eq]

/-- The carry out is that of the exact sum, since neither operand has bits above the width. -/
theorem iaddcLane_eq_addCarry {e : Enc} {n : Nat} (himm : e.imm32 < 2 ^ 32) (hf : (shIaddc e).fits e n = true) (E : Env) (f : Fibre) :
    iaddcLane e f = addCarry e E f := by
  have hok := ok_of_fits hf
  simp only [shIaddc, Bool.and_eq_true] at hok
  have ht : tyOf e ∈ [ETy.n32, .n64] := mem_of_tyIn (by tauto)
  have hb : (opB e f).toNat = bAt e (tyOf e) f := by
    rw [opB, BitVec.toNat_ofNat, Nat.mod_eq_of_lt (bAt_lt himm ht f)]
  simp only [iaddcLane, addCarry, b2n_carry, opA_toNat, hb, toD_ofNat, carryOut_bits]

theorem pair_toNat (f : Fibre) (k : Nat) : (pair f k).toNat = f.val k 2 := by
  simp only [pair, BitVec.toNat_append, Fibre.val, Fibre.reg]
  rw [← Nat.shiftLeft_add_eq_or_of_lt (BitVec.isLt _), Nat.shiftLeft_eq]
  omega

theorem extractLsb'_low_word (v : Nat) : (BitVec.ofNat 64 v).extractLsb' 0 32 = BitVec.ofNat 32 v := by
  apply BitVec.eq_of_toNat_eq
  simp

theorem extractLsb'_high_word (v : Nat) : (BitVec.ofNat 64 v).extractLsb' 32 32 = BitVec.ofNat 32 (v / 2 ^ 32) := by
  apply BitVec.eq_of_toNat_eq
  rw [BitVec.extractLsb'_toNat, BitVec.toNat_ofNat, BitVec.toNat_ofNat, Nat.shiftRight_eq_div_pow]
  omega

/-- The statements' pair write is the model's write of two registers. -/
theorem setPair_ofNat (f : Fibre) (k v : Nat) : setPair f k (BitVec.ofNat 64 v) = f.setVal k 2 v := by
  simp only [setPair, extractLsb'_low_word, extractLsb'_high_word, Fibre.setVal, Fibre.setReg]

theorem imadwLane_eq (e : Enc) (f : Fibre) : imadwLane e f =
    setPair f e.vd (BitVec.ofInt 64 (ext e (opA e f) * ext e (opB e f) + ((pair f e.vc).toNat : Int))) := by
  simp only [imadwLane, wrap_eq_toNat, extAt_eq_ext, ← setPair_ofNat, BitVec.ofNat_toNat, BitVec.setWidth_eq, pair_toNat, opA, opB]

theorem carryAndWideArithmetic : CarryAndWideArithmetic :=
  ⟨wl_computes (sh := shIaddc) (g := fun e _ => iaddcLane e) 0x001 (fun _ => ⟨rfl, rfl, fun _ => rfl⟩) (fun _ => ⟨rfl, rfl, fun _ => rfl⟩)
      fun _ E f himm hf => iaddcLane_eq_addCarry himm hf E f,
   wl_computes (sh := shImadw) (g := fun e _ => imadwLane e) 0x006 (fun _ => ⟨rfl, rfl, fun _ => rfl⟩) (fun _ => ⟨rfl, rfl, fun _ => rfl⟩)
      fun e _ f _ _ => imadwLane_eq e f⟩

/-- Settles O2: every form runs its lane function, and the lane functions are the exact results wrapped as R179 to R182 say. -/
theorem integerArithmetic : Obligations.IntegerArithmetic := ⟨integerSums, integerDivision, carryAndWideArithmetic⟩

end Sys2Proof.Claims
end

section
/-! PROOFS. The state registers that MOVS reads (R187). -/

namespace Sys2Proof.Claims

open Sys2Proof Sys2Proof.Machine

/-- A field of a launch record is a slice of its bits (R329). -/
theorem ofNat_field (l : Launch) (hi lo : Nat) :
    BitVec.ofNat 64 (l.field hi lo) = (l.record.extractLsb' lo (hi + 1 - lo)).setWidth 64 := by
  rw [← BitVec.ofNat_toNat, BitVec.extractLsb'_toNat, Nat.shiftRight_eq_div_pow]
  rfl

/-- A state register as the statement gives it is the model's. -/
theorem stateValue_eq (s : State) (E : Env) (f : Fibre) : ∀ n, stateValue s E f n = BitVec.ofNat 64 (stateReg s.m E f n)
  | 0 | 1 | 2 | 3 | 4 | 6 | 7 | 8 | 10 | 11 => rfl
  | 5 => (ofNat_field E.l 127 96).symm
  | 9 => (BitVec.ofNat_toNat 64 E.g.mask).symm
  | 12 => by
    rw [stateReg, ofNat_field]
    exact (BitVec.setWidth_eq _).symm
  | 13 => by
    rw [stateValue, stateReg]
    split
    · rw [BitVec.ofNat_toNat, BitVec.setWidth_eq]
    · rfl
  | _ + 14 => rfl

/-- Its value written to one register or two, as its code says. -/
theorem setState_ofNat (f : Fibre) (k n v : Nat) : setState f k n (BitVec.ofNat 64 v) = f.setVal k (stateRegs n) v := by
  unfold setState stateRegs
  by_cases hn : n < 11
  · simp only [hn, if_true, not_le.mpr hn, if_false, extractLsb'_low_word, Fibre.setVal, Fibre.setReg]
  · simp only [hn, if_false, not_lt.mp hn, if_true, setPair_ofNat]

/-- MOVS of either form: the value where its fields fit, ILLEGAL_OPERAND where they do not. -/
theorem movs_answers {i : Instr} {e : Enc} {s : State} {E : Env} (hx : exec i s = isa (checked e (shapeOf e) (movsM e)) s)
    (hs : shapeOf e = shMovs e) (hi : Issues s E) :
    (Legal E e → Answers i s (lanesDone s E e 1 fun f => setState f e.vd e.va (stateValue s E f e.va)))
    ∧ (e.mods ≠ 0 ∨ 15 ≤ e.va → Answers i s (takeTrap E s.m E.g.mask 2 fun _ => e.parcel)) := by
  refine ⟨fun hl => ?_, fun hbad => ?_⟩
  · exact answers_isa i s E e _ _ hx hi hl (regOp_done s E e 1 _ _ fun f => by rw [stateValue_eq, setState_ofNat])
  · obtain ⟨r, hr, hE⟩ := hi
    have hok : (shMovs e).ok = false := by
      rcases hbad with hm | hv
      · simp [shMovs, hm]
      · simp [shMovs, hv]
    have hunfit : (shapeOf e).fits e E.c.nregs = false := by simp [hs, Shape.fits, hok]
    rw [Answers, hx, isa_of_env _ s hr hE, checked_unfit _ hunfit]
    rfl

/-- Settles O3: both forms of MOVS run the same checked effect. -/
theorem stateRegisterReads : Obligations.StateRegisterReads := by
  rintro i s E e (⟨f, rfl⟩ | ⟨f, rfl⟩) he hi
  all_goals
    cases he
    exact movs_answers rfl rfl hi

end Sys2Proof.Claims
end
